-- ==== Sys2Proof/Word.lean ====
section
/-! DEFINITION. The byte of the management ports and the index types of the part's numbered things
(spec 00_scope section 4). -/

namespace Sys2Proof

/-- One byte on a management port (R142). -/
abbrev Byte := BitVec 8

/-- The six rate engines E0 to E5 (R43). -/
abbrev EngineId := Fin 6

/-- The sixteen clock outputs O0 to O15 (R73). -/
abbrev OutputId := Fin 16

/-- The 24 slots of the lease table (R1). -/
abbrev SlotId := Fin 24

/-- The eight clients; client 0 is the supervisor client (R16). -/
abbrev ClientId := Fin 8

end Sys2Proof
end

