-- ==== Sys2Proof/Syntax.lean ====
section
/-! DEFINITION. The commands of the block: one constructor for each row of spec/opcode_table.json.
A row is one event of the part, whole and indivisible (spec 95_what_each_step_holds). -/

namespace Sys2Proof

/-- The two management ports. -/
inductive Port where
  | A
  | B
  deriving DecidableEq, Repr

/-- The port that is not `p`. -/
def Port.other : Port → Port
  | .A => .B
  | .B => .A

/-- The two reference inputs (R126). -/
inductive RefInput where
  | refA
  | refB
  deriving DecidableEq, Repr

/-- The input that is not `r`. -/
def RefInput.other : RefInput → RefInput
  | .refA => .refB
  | .refB => .refA

/-- The level of an input pin. -/
inductive Level where
  | low
  | high
  deriving DecidableEq, Repr

/-- What a host has shifted in when chip select rises: whole bytes, and the bits of a last byte left incomplete
(R142). -/
structure ShiftedIn where
  bytes : List Byte
  bits : List Bool
  deriving DecidableEq, Repr

/-- The rows of the table, in its order.
The rows that name an SPI frame stand for its end, the rising edge of chip select, and carry what the host
shifted in (R142); the rows that name a command stand for the lease manager's taking of a command held in a
port, and carry no operand, since the command stands in the port's slot (R147, R148; log entry 1). -/
inductive Instr where
  /-- POWER_ON_RESET: the supply ramp; `supsel` is the level sampled at SUPSEL (R125, R154). -/
  | powerOnReset (supsel : Level)
  /-- PIN_RESET_ASSERT: RSTN falls (R125). -/
  | pinResetAssert
  /-- PIN_RESET_RELEASE: RSTN rises; `supsel` is the level sampled at SUPSEL (R154). -/
  | pinResetRelease (supsel : Level)
  /-- OSCILLATOR_STABLE: the oscillator has settled (R125). -/
  | oscillatorStable
  /-- NOP: a frame of kind 00h ends; `rest` is what follows the kind byte (R145). -/
  | nop (p : Port) (rest : ShiftedIn)
  /-- COMMAND_FRAME: a frame of kind 5Ch ends; `rest` is what follows the kind byte (R146). -/
  | commandFrame (p : Port) (rest : ShiftedIn)
  /-- FETCH: a frame of kind 3Ah ends; `rest` is what follows the kind byte (R150). -/
  | fetch (p : Port) (rest : ShiftedIn)
  /-- RESYNC: a frame of kind C3h ends; `rest` is what follows the kind byte (R155). -/
  | resync (p : Port) (rest : ShiftedIn)
  /-- OPEN is taken (R30). -/
  | openLease
  /-- START is taken (R34). -/
  | start
  /-- RETUNE is taken (R91). -/
  | retune
  /-- RELEASE is taken (R110). -/
  | release
  /-- REVOKE is taken (R110). -/
  | revoke
  /-- RETRY is taken (R122). -/
  | retry
  /-- QUERY_LEASE is taken (R20). -/
  | queryLease
  /-- LOOKUP_TAG is taken (R21). -/
  | lookupTag
  /-- LIST_CLIENT is taken (R22). -/
  | listClient
  /-- FIND_OUTPUT is taken (R88). -/
  | findOutput
  /-- QUERY_ENGINE is taken (R69). -/
  | queryEngine
  /-- QUERY_REFERENCE is taken (R137). -/
  | queryReference
  /-- NOTICES is taken (R163). -/
  | notices
  /-- SET_IRQ is taken (R165). -/
  | setIrq
  /-- READ_CONFIG is taken (R170). -/
  | readConfig
  /-- CONFIGURE is taken (R169). -/
  | configure
  /-- SET_CLIENTS is taken (R171). -/
  | setClients
  /-- HANDOVER is taken (R172). -/
  | handover
  /-- SOFT_RESET is taken with scope LEASES (R174). -/
  | softResetLeases
  /-- SOFT_RESET is taken with scope DEVICE (R175). -/
  | softResetDevice
  /-- ENGINE_CLEAR is taken (R68). -/
  | engineClear
  /-- A command whose code names no command is taken (R180). -/
  | unknownCommandCode
  /-- LOCK_ACHIEVED of engine `e` (R45). -/
  | lockAchieved (e : EngineId)
  /-- LOCK_LOST of engine `e` (R45). -/
  | lockLost (e : EngineId)
  /-- ACQUISITION_TIMER_EXPIRY of engine `e` (R48). -/
  | acquisitionTimerExpiry (e : EngineId)
  /-- HOLDOVER_TIMER_LIMIT of engine `e` (R51). -/
  | holdoverTimerLimit (e : EngineId)
  /-- LINGER_TIMER_EXPIRY of engine `e` (R53). -/
  | lingerTimerExpiry (e : EngineId)
  /-- CHANGEOVER_DONE of output `o` (R78). -/
  | changeoverDone (o : OutputId)
  /-- ACTIVITY_START of input `r` (R127). -/
  | activityStart (r : RefInput)
  /-- ACTIVITY_LOSS of input `r` (R132). -/
  | activityLoss (r : RefInput)
  /-- MEASUREMENT: an interval of input `r` ends, `edges` rising edges having been seen in it (R128). -/
  | measurement (r : RefInput) (edges : Nat)
  /-- QUALIFICATION_TIMER_EXPIRY of input `r` (R129). -/
  | qualificationTimerExpiry (r : RefInput)
  /-- CHIP_SELECT_FALL of port `p` (R142, R143, R150). -/
  | chipSelectFall (p : Port)
  /-- UNKNOWN_FRAME_KIND: a frame whose first byte names no kind ends; `bytes` is all of it, and with
  no whole byte a chip-select cycle in which none was exchanged (R142, R145). -/
  | unknownFrameKind (p : Port) (bytes : ShiftedIn)
  deriving DecidableEq, Repr

end Sys2Proof
end

