-- ==== Sys2Proof/Config.lean ====
section
/-! DEFINITION. What the part leaves to its implementation: the free values, and the fixed numbers of
the clock classes. The eight configuration parameters software writes are state, not configuration of
the model (R168). -/

namespace Sys2Proof

/-- DESIGN CHOICE (log entry 8), safe: a byte to which the spec gives no value, the `k`-th one drawn.
It has no body, so nothing can be proved of its value. -/
opaque Config.freeByte : Nat → Byte

/-- The low end of the GENERAL range, in hertz (R24, R43). -/
def Config.generalLow : Nat := 1600000000

/-- The high end of the GENERAL range, in hertz (R24, R43). -/
def Config.generalHigh : Nat := 3200000000

/-- The low end of the FINE range, in hertz (R24, R43). -/
def Config.fineLow : Nat := 2400000000

/-- The high end of the FINE range, in hertz (R24, R43). -/
def Config.fineHigh : Nat := 2900000000

/-- The highest output frequency, in hertz (R24). -/
def Config.outputHigh : Nat := 800000000

end Sys2Proof
end

