-- ==== Sys2Proof/Machine/State.lean ====
section
/-! DEFINITION. The state of the part as plain data: every record the spec names, block by block, the queue
of commands, and the state after reset. -/

namespace Sys2Proof.Machine

/-! ### Plans, targets and lists -/

/-- A synthesizer ratio (N, D) (R9). -/
structure Plan where
  n : Nat
  d : Nat
  deriving DecidableEq, Repr

/-- The two engine classes (R43). -/
inductive EngineClass where
  | general
  | fine
  deriving DecidableEq, Repr

/-- The class a lease requests (R9). -/
inductive LeaseClass where
  | general
  | fine
  | any
  deriving DecidableEq, Repr

/-- An entry of an output list: an output at a divider (R11). -/
structure Entry where
  output : OutputId
  divider : Nat
  deriving DecidableEq, Repr

/-- What an output may be asked to become (R76): QUIET, or an engine at a divider. -/
inductive Target where
  | quiet
  | clock (e : EngineId) (divider : Nat)
  deriving DecidableEq, Repr

/-! ### Output selector (04 4.1) -/

/-- The state of an output with the fields R73 gives it in each state. -/
inductive OutState where
  | quiet
  | running (e : EngineId) (divider : Nat)
  | changing (source target : Target) (waiting : Option Target)
  deriving DecidableEq, Repr

/-- An output record (R73, R74); `waiting` of `state` is the pending target. -/
structure OutputRec where
  holder : Option SlotId
  state : OutState
  deriving DecidableEq, Repr

/-! ### Engine pool (03 3.1) -/

/-- The six engine states (R44). -/
inductive EngineState where
  | off
  | acquiring
  | locked
  | holdover
  | lingering
  | faulted
  deriving DecidableEq, Repr

/-- Whether an acquisition is the first under its plan (R46). -/
inductive AcquireKind where
  | first
  | relock
  deriving DecidableEq, Repr

/-- The standing of a timer; WAITING is of the acquisition timer alone (03 3.1). -/
inductive TimerStanding where
  | stopped
  | running
  | waiting
  deriving DecidableEq, Repr

/-- Why an engine is FAULTED (R66). -/
inductive FaultReason where
  | lockTimeout
  | relockTimeout
  | holdoverLimit
  deriving DecidableEq, Repr

/-- The acquisition timer: elapsed ms and the limit in force in ms (R46). -/
structure AcquisitionTimer where
  standing : TimerStanding
  elapsed : Nat
  limit : Nat
  deriving DecidableEq, Repr

/-- The holdover timer: elapsed s, and the ms of the running second (R51; log entry 3). -/
structure HoldoverTimer where
  running : Bool
  elapsed : Nat
  ms : Nat
  deriving DecidableEq, Repr

/-- The linger timer: elapsed ms and the linger time in force in ms (R53). -/
structure LingerTimer where
  running : Bool
  elapsed : Nat
  time : Nat
  deriving DecidableEq, Repr

/-- An engine record (R43); its number is its index, its class a function of the number. -/
structure EngineRec where
  state : EngineState
  plan : Option Plan
  users : Nat
  exclusive : Bool
  reserved : Bool
  kind : AcquireKind
  acquisition : AcquisitionTimer
  holdover : HoldoverTimer
  relock : Bool
  linger : LingerTimer
  fault : Option FaultReason
  deriving DecidableEq, Repr

/-! ### Lease table (01) -/

/-- The four flags of a lease (R8). -/
structure LeaseFlags where
  exclusive : Bool
  heldStart : Bool
  slipMute : Bool
  allowGap : Bool
  deriving DecidableEq, Repr

/-- The eight lease states (R15). -/
inductive LeaseState where
  | pending
  | ready
  | starting
  | active
  | disturbed
  | migrating
  | closing
  | failed
  deriving DecidableEq, Repr

/-- The twelve reasons (R14). -/
inductive Reason where
  | opened
  | locked
  | started
  | slip
  | holdover
  | relocked
  | engineFault
  | migrated
  | migrationFailed
  | retried
  | released
  | revoked
  deriving DecidableEq, Repr

/-- The three ways of a migration (R13); `gap` is GAP and `loc` is LOCAL. -/
inductive MigrationMode where
  | loc
  | overlap
  | gap
  deriving DecidableEq, Repr

/-- A migration record (R13). -/
structure Migration where
  mode : MigrationMode
  target : Option EngineId
  plan : Plan
  cls : Option LeaseClass
  pin : Option EngineId
  entries : List Entry
  deriving DecidableEq, Repr

/-- A lease record (01 1.3); its handle is its slot and the slot's generation (R6). -/
structure Lease where
  owner : ClientId
  home : Port
  tag : Option Nat
  state : LeaseState
  plan : Plan
  cls : LeaseClass
  flags : LeaseFlags
  pin : Option EngineId
  engine : Option EngineId
  entries : List Entry
  armed : Bool
  migration : Option Migration
  closingTarget : Option EngineId
  reason : Reason
  deriving DecidableEq, Repr

/-- What a slot holds beside its generation (R1). -/
inductive Standing where
  | free
  | live (l : Lease)
  | retired (home : Port)
  deriving DecidableEq, Repr

/-- A slot of the lease table (R1). -/
structure Slot where
  gen : Byte
  standing : Standing
  deriving DecidableEq, Repr

/-! ### Reference monitor and selector (07) -/

/-- The four states of an input (R126). -/
inductive InputState where
  | absent
  | qualifying
  | valid
  | disqualified
  deriving DecidableEq, Repr

/-- The qualification timer: elapsed intervals of 100 ms, the ms of the running interval (log entry 3) and
the period in force in intervals (R129). -/
structure QualificationTimer where
  running : Bool
  elapsed : Nat
  ms : Nat
  period : Nat
  deriving DecidableEq, Repr

/-- The measurement interval: elapsed ms (R128). -/
structure MeasurementInterval where
  running : Bool
  elapsed : Nat
  deriving DecidableEq, Repr

/-- An input record (R126). -/
structure InputRec where
  state : InputState
  offset : Option Int
  strikes : Fin 2
  qualification : QualificationTimer
  interval : MeasurementInterval
  deriving DecidableEq, Repr

/-- The selector's mode (07 7.5). -/
inductive RefMode where
  | autoRevert
  | autoHold
  | forceA
  | forceB
  deriving DecidableEq, Repr

/-- The selector's priority (07 7.5). -/
inductive RefPriority where
  | aFirst
  | bFirst
  deriving DecidableEq, Repr

/-- The eight configuration parameters (10 10.1). -/
structure Params where
  nominal : Nat
  window : Nat
  qualPeriod : Nat
  mode : RefMode
  priority : RefPriority
  acqLimit : Nat
  linger : Nat
  holdoverLimit : Nat
  deriving DecidableEq, Repr

/-- The device-notice set (R162): the five kinds, and the engine set of ENGINE_FAULT. -/
structure DeviceNotices where
  refInputA : Bool
  refInputB : Bool
  refSelection : Bool
  engineFault : Bool
  supervisorArrived : Bool
  engines : Vector Bool 6
  deriving DecidableEq, Repr

/-! ### Management ports (08, 09) -/

/-- The result codes of a response (R180). -/
inductive Status where
  | ok
  | okGap
  | samePlan
  | notFound
  | clientDenied
  | supervisorOnly
  | badCommand
  | badArgument
  | noSuchLease
  | notOwner
  | wrongState
  | tagInUse
  | quota
  | tableFull
  | planRange
  | outputRange
  | outputHeld
  | noEngine
  | engineBusy
  | configLocked
  deriving DecidableEq, Repr

/-- The frame-error codes (R145). -/
inductive FrameError where
  | none
  | crcError
  | frameShort
  | portBusy
  | responseUnread
  | seqConflict
  | badKind
  | notReady
  deriving DecidableEq, Repr

/-- A held command (08 8.2); `bit3` is bit 3 of the sequence/client byte (R178). -/
structure HeldCommand where
  seq : BitVec 4
  bit3 : Bool
  client : ClientId
  code : Byte
  body : List Byte
  crc : Byte
  deriving DecidableEq, Repr

/-- A response (R148); `crc` is the CRC of the command it answers. -/
structure Response where
  seq : BitVec 4
  crc : Byte
  status : Status
  replayed : Bool
  body : List Byte
  deriving DecidableEq, Repr

/-- The exchange standing of a port (R144). -/
inductive Exchange where
  | empty
  | held (c : HeldCommand)
  | answered (r : Response)
  deriving DecidableEq, Repr

/-- A saved exchange of the retry store (R152). -/
structure Saved where
  seq : BitVec 4
  crc : Byte
  response : Response
  deriving DecidableEq, Repr

/-- What the falling edge of chip select fixed for the frame in progress (R143, R150): the port status byte,
the response a FETCH would deliver, and the bytes it would shift out after the status byte. -/
structure Frame where
  status : Byte
  delivers : Option Response
  out : List Byte
  deriving DecidableEq, Repr

/-- An entry of a lease-notice set (R158); its slot is its index in the set. -/
structure Notice where
  gen : Byte
  count : Nat
  reason : Reason
  closed : Bool
  deriving DecidableEq, Repr

/-- The state of one management port (00_scope section 2). -/
structure PortState where
  /-- Whether chip select is low. -/
  csLow : Bool
  /-- The frame in progress. -/
  frame : Option Frame
  exchange : Exchange
  retry : Option Saved
  frameError : FrameError
  /-- Bit n stands for client n, bit 0 clear (R154, R181). -/
  mask : BitVec 8
  noticeEnable : Bool
  responseEnable : Bool
  notices : Vector (Option Notice) 24
  /-- What the port shifted out on SDO in the frame that ended last (log entry 14). -/
  sdo : List Byte
  deriving DecidableEq, Repr

/-- The whole part. -/
structure State where
  /-- Whether RSTN is low. -/
  rstnLow : Bool
  /-- The readiness standing: `true` is READY (R125). -/
  ready : Bool
  /-- The latched value of SUPSEL (R154). -/
  supselPort : Port
  /-- The port that holds the supervisor role (R154). -/
  supervisor : Port
  /-- The intake arbiter's last port served (R147). -/
  lastServed : Port
  portA : PortState
  portB : PortState
  deviceNotices : DeviceNotices
  slots : Vector Slot 24
  quotas : Vector Nat 8
  engines : Vector EngineRec 6
  outputs : Vector OutputRec 16
  refA : InputRec
  refB : InputRec
  /-- The selection; `none` is NONE (R134). -/
  selection : Option RefInput
  params : Params
  /-- The slots for which the event in progress has raised a notice (R160, log entry 6). -/
  touched : List SlotId
  /-- How many free values have been drawn (log entry 8). -/
  freeCount : Nat
  /-- The commands waiting, first in first out. -/
  pending : List Instr
  deriving DecidableEq, Repr

/-- Why the machine stops: the spec describes nothing that stops it, so there is no constructor. -/
inductive Fault : Type
  deriving DecidableEq, Repr

/-- What the model does not give a meaning to. -/
inductive Refusal where
  /-- Raised by an arm of `exec` whose command has no meaning yet; safe: nothing is claimed of it. -/
  | notModelled (mnemonic : String)
  deriving DecidableEq, Repr

/-! ### Values after reset -/

/-- An engine record after a power-on reset (R72). -/
def EngineRec.initial : EngineRec :=
  { state := .off, plan := none, users := 0, exclusive := false, reserved := false, kind := .first,
    acquisition := ⟨.stopped, 0, 0⟩, holdover := ⟨false, 0, 0⟩, relock := false,
    linger := ⟨false, 0, 0⟩, fault := none }

/-- An output record after a power-on reset (R86). -/
def OutputRec.initial : OutputRec := ⟨none, .quiet⟩

/-- A slot after a power-on reset (R4). -/
def Slot.initial : Slot := ⟨0#8, .free⟩

/-- An input record after a power-on reset (R141). That the two stopped timers have elapsed 0 is the model's choice (log
entry 25). -/
def InputRec.initial : InputRec :=
  { state := .absent, offset := none, strikes := 0, qualification := ⟨false, 0, 0, 0⟩,
    interval := ⟨false, 0⟩ }

/-- The defaults of the configuration parameters (10 10.1). -/
def Params.initial : Params :=
  { nominal := 10000000, window := 20, qualPeriod := 10, mode := .autoRevert, priority := .aFirst,
    acqLimit := 40, linger := 500, holdoverLimit := 0 }

/-- The empty device-notice set (R167). -/
def DeviceNotices.initial : DeviceNotices :=
  ⟨false, false, false, false, false, Vector.replicate 6 false⟩

/-- A port after a power-on reset, chip select high (R157, R167; log entry 7). -/
def PortState.initial : PortState :=
  { csLow := false, frame := none, exchange := .empty, retry := none, frameError := .none,
    mask := 0xFE#8, noticeEnable := true, responseEnable := false,
    notices := Vector.replicate 24 none, sdo := [] }

/-- The part right after a power-on reset with SUPSEL low, RSTN high and both chip selects high
(R125, R157; DESIGN CHOICE of the three pins, log entry 7, unsafe). -/
def State.reset : State :=
  { rstnLow := false, ready := false, supselPort := .A, supervisor := .A, lastServed := .B,
    portA := PortState.initial, portB := PortState.initial, deviceNotices := DeviceNotices.initial,
    slots := Vector.replicate 24 Slot.initial, quotas := Vector.replicate 8 24,
    engines := Vector.replicate 6 EngineRec.initial, outputs := Vector.replicate 16 OutputRec.initial,
    refA := InputRec.initial, refB := InputRec.initial, selection := none, params := Params.initial,
    touched := [], freeCount := 0, pending := [] }

end Sys2Proof.Machine
end

