-- ==== Sys2Proof/Machine/Ops.lean ====
section
/-! DEFINITION. The named operations over the part's records: reading and writing a port, a slot, a lease, an
engine, an output, an input; raising notices (09); the frame every event stands in. -/

namespace Sys2Proof.Machine

/-! ### Access, one home for each record -/

/-- The record of port `p`. -/
def State.port (s : State) : Port → PortState
  | .A => s.portA
  | .B => s.portB

/-- Write the record of port `p`. -/
def State.setPort (s : State) (p : Port) (x : PortState) : State :=
  match p with
  | .A => { s with portA := x }
  | .B => { s with portB := x }

/-- The record of slot `i`. -/
def State.slot (s : State) (i : SlotId) : Slot := s.slots[i]

/-- Write the record of slot `i`. -/
def State.setSlot (s : State) (i : SlotId) (x : Slot) : State :=
  { s with slots := s.slots.set i.1 x i.2 }

/-- The lease of a live standing (R1). -/
def Standing.lease? : Standing → Option Lease
  | .live l => some l
  | .free => none
  | .retired _ => none

/-- The lease in slot `i`, if the slot is live (R1). -/
def State.lease? (s : State) (i : SlotId) : Option Lease := (s.slot i).standing.lease?

/-- Write the lease of slot `i`; the slot's generation is kept (R3). -/
def State.setLease (s : State) (i : SlotId) (l : Lease) : State :=
  s.setSlot i ⟨(s.slot i).gen, .live l⟩

/-- The record of engine `e`. -/
def State.engine (s : State) (e : EngineId) : EngineRec := s.engines[e]

/-- Write the record of engine `e`. -/
def State.setEngine (s : State) (e : EngineId) (x : EngineRec) : State :=
  { s with engines := s.engines.set e.1 x e.2 }

/-- The record of output `o`. -/
def State.output (s : State) (o : OutputId) : OutputRec := s.outputs[o]

/-- Write the record of output `o`. -/
def State.setOutput (s : State) (o : OutputId) (x : OutputRec) : State :=
  { s with outputs := s.outputs.set o.1 x o.2 }

/-- The record of input `r`. -/
def State.input (s : State) : RefInput → InputRec
  | .refA => s.refA
  | .refB => s.refB

/-- Write the record of input `r`. -/
def State.setInput (s : State) (r : RefInput) (x : InputRec) : State :=
  match r with
  | .refA => { s with refA := x }
  | .refB => { s with refB := x }

/-- The quota of client `c` (R16). -/
def State.quota (s : State) (c : ClientId) : Nat := s.quotas[c]

/-- Every slot, in ascending order. -/
def allSlots : List SlotId := List.finRange 24

/-- Every engine, in ascending order. -/
def allEngines : List EngineId := List.finRange 6

/-- Every output, in ascending order. -/
def allOutputs : List OutputId := List.finRange 16

/-- Do `f` for each of `xs` in turn. -/
def forEach {α : Type} (xs : List α) (f : α → State → State) (s : State) : State :=
  xs.foldl (fun t x => f x t) s

/-! ### Notices (09) -/

/-- The entry a raise leaves for a lease with reason `reason` in a slot of generation `gen`: a new entry, or the
old one with its count raised by one up to 15, once in one event (R160). -/
def raisedNotice (old : Option Notice) (already : Bool) (gen : Byte) (reason : Reason) (closed : Bool) :
    Notice :=
  match old with
  | none => ⟨gen, 1, reason, closed⟩
  | some n => ⟨n.gen, if already then n.count else min 15 (n.count + 1), reason, n.closed || closed⟩

/-- Raise a notice for the lease of slot `i` at its home port; with `closed` the entry becomes closed
(R159 to R161). A slot that is not live has no lease to raise one for. -/
def State.raise (i : SlotId) (closed : Bool) (s : State) : State :=
  match s.lease? i with
  | none => s
  | some l =>
    let x := s.port l.home
    let n := raisedNotice x.notices[i] (s.touched.contains i) (s.slot i).gen l.reason closed
    { s.setPort l.home { x with notices := x.notices.set i.1 (some n) i.2 } with
      touched := i :: s.touched }

/-- Raise a notice for slot `i` unless the home port is told of the change in a response (R159). -/
def State.tell (told : Bool) (i : SlotId) (s : State) : State :=
  if told then s else s.raise i false

/-- Discard the entry of slot `i` in port `p`'s lease-notice set (R161). -/
def State.discardNotice (p : Port) (i : SlotId) (s : State) : State :=
  let x := s.port p
  s.setPort p { x with notices := x.notices.set i.1 none i.2 }

/-- Raise ENGINE_FAULT naming engine `e` (R162). -/
def State.raiseEngineFault (e : EngineId) (s : State) : State :=
  { s with deviceNotices :=
      { s.deviceNotices with
        engineFault := true, engines := s.deviceNotices.engines.set e.1 true e.2 } }

/-- Raise REF_INPUT_A or REF_INPUT_B (R133, R162). -/
def State.raiseRefInput (r : RefInput) (s : State) : State :=
  match r with
  | .refA => { s with deviceNotices := { s.deviceNotices with refInputA := true } }
  | .refB => { s with deviceNotices := { s.deviceNotices with refInputB := true } }

/-- Raise REF_SELECTION (R135, R162). -/
def State.raiseRefSelection (s : State) : State :=
  { s with deviceNotices := { s.deviceNotices with refSelection := true } }

/-- Raise SUPERVISOR_ARRIVED (R162, R172). -/
def State.raiseSupervisorArrived (s : State) : State :=
  { s with deviceNotices := { s.deviceNotices with supervisorArrived := true } }

/-! ### Events -/

/-- One event: the marks of the notices it has raised begin and end empty (R160, log entry 6). -/
def event (f : State → State) (s : State) : State :=
  { f { s with touched := [] } with touched := [] }

/-- Draw a free value (log entry 8). -/
def State.drawFree (s : State) : State := { s with freeCount := s.freeCount + 1 }

end Sys2Proof.Machine
end

