-- ==== Sys2Proof/Machine/Outputs.lean ====
section
/-! DEFINITION. The output selector (04): targets, completion, forced quiet, and the heading of an output
(R94). -/

namespace Sys2Proof.Machine

/-- Whether a target is on engine `e`. -/
def Target.isOn (e : EngineId) : Target → Bool
  | .quiet => false
  | .clock e' _ => e' = e

/-- The settled standing a target names: QUIET, or RUNNING from it (R78). -/
def OutState.ofTarget : Target → OutState
  | .quiet => .quiet
  | .clock e q => .running e q

/-- Give an output the target `t`: R76 when it is not CHANGING, R77 when it is. -/
def OutState.give (t : Target) : OutState → OutState
  | .quiet => if t = .quiet then .quiet else .changing .quiet t none
  | .running e q => if t = .clock e q then .running e q else .changing (.clock e q) t none
  | .changing src tgt _ => .changing src tgt (if t = tgt then none else some t)

/-- Complete the changeover of an output: it takes its target, and a pending target begins a new changeover from
there (R78, steps 1 and 2). An output with no changeover in flight has none to complete. -/
def OutState.complete : OutState → OutState
  | .quiet => .quiet
  | .running e q => .running e q
  | .changing _ tgt none => .ofTarget tgt
  | .changing _ tgt (some t) => .changing tgt t none

/-- Whether a changeover is in flight. -/
def OutState.isChanging : OutState → Bool
  | .changing _ _ _ => true
  | .quiet => false
  | .running _ _ => false

/-- Whether an output is tied to engine `e` (R83). -/
def OutState.tiedTo (e : EngineId) : OutState → Bool
  | .quiet => false
  | .running e' _ => e' = e
  | .changing src tgt waiting => src.isOn e || tgt.isOn e || waiting.any (Target.isOn e)

/-- Where an output is going (R94). -/
def OutState.heading : OutState → Target
  | .quiet => .quiet
  | .running e q => .clock e q
  | .changing _ tgt none => tgt
  | .changing _ _ (some t) => t

/-- Give output `o` the target `t`; its holder is kept (R74). -/
def State.give (o : OutputId) (t : Target) (s : State) : State :=
  s.setOutput o { s.output o with state := (s.output o).state.give t }

/-- Give each output of the list, in list order, the target that `want` gives for its state and its entry,
if any (04 4.2: in the order the lease rule gives them). -/
def State.giveEach (want : OutState → Entry → Option Target) (es : List Entry) (s : State) : State :=
  forEach es (fun x t =>
    match want (t.output x.output).state x with
    | none => t
    | some g => t.give x.output g) s

/-- Whether every output of the list stands as `ok` asks. -/
def State.outputsAll (ok : OutState → Entry → Bool) (es : List Entry) (s : State) : Bool :=
  es.all fun x => ok (s.output x.output).state x

/-- RUNNING at (`e`, the entry's divider). -/
def runsAt (e : EngineId) (st : OutState) (x : Entry) : Bool := st = .running e x.divider

/-- QUIET and not CHANGING. -/
def isQuiet (st : OutState) (_ : Entry) : Bool := st = .quiet

/-- The target (`e`, the entry's divider), whatever the standing (R31, R34). -/
def wantClock (e : EngineId) (_ : OutState) (x : Entry) : Option Target := some (.clock e x.divider)

/-- The target (`e`, the entry's divider) where the output does not run at it (R39, R97, R103). -/
def wantClockUnlessRunning (e : EngineId) (st : OutState) (x : Entry) : Option Target :=
  if runsAt e st x then none else some (.clock e x.divider)

/-- The target (`e`, the entry's divider) where the output does not head it (R99, R102). -/
def wantClockUnlessHeading (e : EngineId) (st : OutState) (x : Entry) : Option Target :=
  if st.heading = .clock e x.divider then none else some (.clock e x.divider)

/-- The target (`e`, the entry's divider) where the output heads QUIET (R99). -/
def wantClockIfHeadingQuiet (e : EngineId) (st : OutState) (x : Entry) : Option Target :=
  if st.heading = .quiet then some (.clock e x.divider) else none

/-- The target QUIET, whatever the standing (R37, R104, R113). -/
def wantQuiet (_ : OutState) (_ : Entry) : Option Target := some .quiet

/-- The target QUIET where the output heads engine `e` (R100). -/
def wantQuietIfHeading (e : EngineId) (st : OutState) (_ : Entry) : Option Target :=
  if st.heading.isOn e then some .quiet else none

/-- The target (`e`, the entry's divider) where the divider is not the listed one and the output does not
head QUIET (R96). -/
def wantNewDivider (e : EngineId) (listed : List Entry) (st : OutState) (x : Entry) : Option Target :=
  if listed.contains x || st.heading = .quiet then none else some (.clock e x.divider)

/-- Force quiet every output tied to engine `e` (R83, R84); holders are kept (R74). -/
def State.forceQuietTied (e : EngineId) (s : State) : State :=
  forEach allOutputs (fun o t =>
    if (t.output o).state.tiedTo e then t.setOutput o { t.output o with state := .quiet } else t) s

/-- Write the holder of each output of the list (R30, R74). -/
def State.setHolders (h : Option SlotId) (es : List Entry) (s : State) : State :=
  forEach es (fun x t => t.setOutput x.output { t.output x.output with holder := h }) s

/-- What the pin of an output shows (R73): quiet, the VCO of an engine divided, or a changeover in flight. -/
inductive PinView where
  | low
  | clock (e : EngineId) (divider : Nat)
  | changeover
  deriving DecidableEq, Repr

/-- The pin of an output, from its record (R73). -/
def OutState.pin : OutState → PinView
  | .quiet => .low
  | .running e q => .clock e q
  | .changing _ _ _ => .changeover

end Sys2Proof.Machine
end

