-- ==== Sys2Proof/Machine/Engines.lean ====
section
/-! DEFINITION. The engine pool controller (03): the engine state machine, user counts, plans and ranges, the
allocation search. -/

namespace Sys2Proof.Machine

/-! ### Classes, plans and ranges -/

/-- An engine's class, fixed by its number (R43). -/
def classOf (e : EngineId) : EngineClass := if e.1 < 4 then .general else .fine

/-- A plan reduced to lowest terms (R24). -/
def Plan.reduce (p : Plan) : Plan := ⟨p.n / Nat.gcd p.n p.d, p.d / Nat.gcd p.n p.d⟩

/-- Whether a plan's VCO frequency at the nominal frequency lies in a class's range, by products (R24). -/
def Plan.inRange (nominal : Nat) (c : EngineClass) (p : Plan) : Bool :=
  match c with
  | .general =>
    decide (Config.generalLow * p.d ≤ nominal * p.n ∧ nominal * p.n ≤ Config.generalHigh * p.d)
  | .fine => decide (Config.fineLow * p.d ≤ nominal * p.n ∧ nominal * p.n ≤ Config.fineHigh * p.d)

/-- Whether an output at divider `q` is within 800 MHz under a plan (R24). -/
def Plan.outputInRange (nominal : Nat) (p : Plan) (q : Nat) : Bool :=
  decide (nominal * p.n ≤ Config.outputHigh * p.d * q)

/-- Whether a requested class admits an engine class (R27). -/
def LeaseClass.admits : LeaseClass → EngineClass → Bool
  | .general, c => c = .general
  | .fine, c => c = .fine
  | .any, _ => true

/-- The eligible classes: those the request admits and whose range holds the VCO frequency (R27). -/
def eligible (nominal : Nat) (cls : LeaseClass) (p : Plan) : List EngineClass :=
  [EngineClass.general, EngineClass.fine].filter fun c => cls.admits c && p.inRange nominal c

/-! ### Timers -/

/-- Stop the acquisition timer at elapsed 0; its limit in force stands until the next start (03 3.1; log entry 17). -/
def AcquisitionTimer.stop (t : AcquisitionTimer) : AcquisitionTimer := ⟨.stopped, 0, t.limit⟩

/-- Start the acquisition timer from zero under the configured limit if a reference is selected; WAITING at
elapsed 0 otherwise (R46). -/
def AcquisitionTimer.begin (selected : Bool) (limit : Nat) (t : AcquisitionTimer) : AcquisitionTimer :=
  if selected then ⟨.running, 0, limit⟩ else ⟨.waiting, 0, t.limit⟩

/-- The holdover timer STOPPED at elapsed 0 (R51). -/
def HoldoverTimer.stopped : HoldoverTimer := ⟨false, 0, 0⟩

/-- Stop the linger timer at elapsed 0 (R53). -/
def LingerTimer.stop (t : LingerTimer) : LingerTimer := ⟨false, 0, t.time⟩

/-! ### The engine state machine -/

/-- Go OFF: the plan, the marks and any fault reason are cleared, the kind becomes FIRST, every timer stops at
elapsed 0 (R53, R57, R68). -/
def EngineRec.turnOff (x : EngineRec) : EngineRec :=
  { x with
    state := .off, plan := none, exclusive := false, reserved := false, kind := .first,
    acquisition := x.acquisition.stop, holdover := .stopped, relock := false,
    linger := x.linger.stop, fault := none }

/-- Write a plan and enter ACQUIRING with kind FIRST, from whatever state (R46, R61, R65). -/
def EngineRec.program (selected : Bool) (limit : Nat) (p : Plan) (x : EngineRec) : EngineRec :=
  { x with
    state := .acquiring, plan := some p, reserved := false, kind := .first,
    acquisition := x.acquisition.begin selected limit, holdover := .stopped, relock := false,
    linger := x.linger.stop }

/-- Become LOCKED from ACQUIRING or a relock attempt (R47, R52). -/
def EngineRec.lock (x : EngineRec) : EngineRec :=
  { x with
    state := .locked, kind := .relock, acquisition := x.acquisition.stop, holdover := .stopped,
    relock := false }

/-- Slip from LOCKED to ACQUIRING (R49). -/
def EngineRec.slip (limit : Nat) (x : EngineRec) : EngineRec :=
  { x with state := .acquiring, kind := .relock, acquisition := ⟨.running, 0, limit⟩ }

/-- Fault: the timers stop, the relock attempt ends, the reservation clears, the plan is kept (R66, step 1). -/
def EngineRec.fail (r : FaultReason) (x : EngineRec) : EngineRec :=
  { x with
    state := .faulted, reserved := false, acquisition := x.acquisition.stop, holdover := .stopped,
    relock := false, linger := x.linger.stop, fault := some r }

/-- The reaction to a change of selection (R50). -/
def EngineRec.reselect (selected : Bool) (limit : Nat) (x : EngineRec) : EngineRec :=
  match x.state with
  | .locked =>
    { x with
      state := .holdover, holdover := ⟨true, 0, 0⟩, relock := selected,
      acquisition := if selected then ⟨.running, 0, limit⟩ else x.acquisition.stop }
  | .holdover =>
    { x with
      relock := selected,
      acquisition := if selected then ⟨.running, 0, limit⟩ else x.acquisition.stop }
  | .acquiring => { x with acquisition := x.acquisition.begin selected limit }
  | .lingering => x.turnOff
  | .off => x
  | .faulted => x

/-- The zero-user event (R57): LINGERING from LOCKED if the linger time is not 0, OFF from LOCKED, ACQUIRING and
HOLDOVER otherwise; the marks clear in every case. -/
def EngineRec.zeroUsers (linger : Nat) (x : EngineRec) : EngineRec :=
  match x.state with
  | .locked =>
    if linger = 0 then x.turnOff
    else { x with state := .lingering, exclusive := false, reserved := false, linger := ⟨true, 0, linger⟩ }
  | .acquiring => x.turnOff
  | .holdover => x.turnOff
  | .off => { x with exclusive := false, reserved := false }
  | .lingering => { x with exclusive := false, reserved := false }
  | .faulted => { x with exclusive := false, reserved := false }

/-- One user fewer, with the zero-user event when none is left (R55, R57). -/
def EngineRec.dropUser (linger : Nat) (x : EngineRec) : EngineRec :=
  if x.users ≤ 1 then ({ x with users := 0 } : EngineRec).zeroUsers linger
  else { x with users := x.users - 1 }

/-- Whether the holdover of an engine has run as long as the limit that stands at this moment (R51, R71); a limit of 0 is
no limit. -/
def EngineRec.atHoldoverLimit (limit : Nat) (x : EngineRec) : Bool :=
  x.state = .holdover && decide (limit ≠ 0 ∧ limit ≤ x.holdover.elapsed)

/-- Whether the engine is ACQUIRING, LOCKED, HOLDOVER or LINGERING, and so holds the nominal frequency (R139). -/
def EngineState.inUse : EngineState → Bool
  | .acquiring => true
  | .locked => true
  | .holdover => true
  | .lingering => true
  | .off => false
  | .faulted => false

/-- Whether the synthesizer runs (R44). -/
def EngineRec.synthesizerRuns (x : EngineRec) : Bool := x.state.inUse

/-- Whether the loop is closed, so that the lock detector reports (R45). -/
def EngineRec.loopClosed (x : EngineRec) : Bool :=
  match x.state with
  | .acquiring => x.acquisition.standing = .running
  | .locked => true
  | .lingering => true
  | .holdover => x.relock
  | .off => false
  | .faulted => false

/-- Drop one user of engine `e`, if one is named (R55). -/
def State.dropUser (e : Option EngineId) (s : State) : State :=
  match e with
  | none => s
  | some e => s.setEngine e ((s.engine e).dropUser s.params.linger)

/-- Whether engine `e` is LOCKED. -/
def State.isLocked (s : State) (e : EngineId) : Bool := (s.engine e).state = .locked

/-- Reprogram engine `e` to a plan at the end of a GAP retune's quieting (R65). -/
def State.reprogram (e : EngineId) (p : Plan) (s : State) : State :=
  s.setEngine e ((s.engine e).program s.selection.isSome s.params.acqLimit p)

/-! ### The allocation search -/

/-- An allocation request (R58). -/
structure AllocRequest where
  plan : Plan
  classes : List EngineClass
  exclusive : Bool
  pin : Option EngineId
  excluded : Option EngineId
  deriving DecidableEq, Repr

/-- Whether an engine in use may be shared with the request (R59 step 5, R60 pass 1 for an engine in use). -/
def EngineRec.sharable (r : AllocRequest) (x : EngineRec) : Bool :=
  x.plan = some r.plan && !x.exclusive && !x.reserved && !r.exclusive

/-- Pass 1, the share pass (R60). -/
def EngineRec.inSharePass (r : AllocRequest) (x : EngineRec) : Bool :=
  match x.state with
  | .lingering => x.plan = some r.plan && !x.exclusive && !x.reserved
  | .acquiring => x.sharable r && decide (0 < x.users)
  | .locked => x.sharable r && decide (0 < x.users)
  | .holdover => x.sharable r && decide (0 < x.users)
  | .off => false
  | .faulted => false

/-- Pass 2, the free pass (R60); a reserved engine satisfies no pass. -/
def EngineRec.inFreePass (x : EngineRec) : Bool := x.state = .off && !x.reserved

/-- Pass 3, the reclaim pass (R60). -/
def EngineRec.inReclaimPass (x : EngineRec) : Bool := x.state = .lingering && !x.reserved

/-- The candidates in their order: GENERAL first, ascending, then FINE, ascending, less the excluded engine
(R60). -/
def candidates (r : AllocRequest) : List EngineId :=
  allEngines.filter fun e => r.classes.contains (classOf e) && r.excluded ≠ some e

/-- The search of a request without a pin (R60). -/
def State.search (r : AllocRequest) (s : State) : Option EngineId :=
  let cs := candidates r
  match cs.find? fun e => (s.engine e).inSharePass r with
  | some e => some e
  | none =>
    match cs.find? fun e => (s.engine e).inFreePass with
    | some e => some e
    | none => cs.find? fun e => (s.engine e).inReclaimPass

/-- The answer of a request pinned to `e` (R59): the engine, or the status. -/
def State.askPinned (r : AllocRequest) (e : EngineId) (s : State) : Except Status EngineId :=
  let x := s.engine e
  if !r.classes.contains (classOf e) then .error .planRange
  else if x.state = .faulted || x.reserved || r.excluded = some e then .error .engineBusy
  else if x.state = .off || x.state = .lingering then .ok e
  else if x.sharable r then .ok e
  else .error .engineBusy

/-- The engine that answers a request, or the status of the refusal (R58). -/
def State.ask (r : AllocRequest) (s : State) : Except Status EngineId :=
  match r.pin with
  | some e => s.askPinned r e
  | none =>
    match s.search r with
    | some e => .ok e
    | none => .error .noEngine

/-- Commit a request to the engine taken (R61). -/
def EngineRec.commit (r : AllocRequest) (selected : Bool) (limit : Nat) (x : EngineRec) : EngineRec :=
  let y := { x with users := x.users + 1, exclusive := x.exclusive || r.exclusive }
  match x.state with
  | .off => y.program selected limit r.plan
  | .lingering =>
    if x.plan = some r.plan then { y with state := .locked, linger := x.linger.stop }
    else y.program selected limit r.plan
  | .acquiring => y
  | .locked => y
  | .holdover => y
  | .faulted => y

/-- Commit a request to engine `e` in the same moment (R61). -/
def State.commit (r : AllocRequest) (e : EngineId) (s : State) : State :=
  s.setEngine e ((s.engine e).commit r s.selection.isSome s.params.acqLimit)

end Sys2Proof.Machine
end

