-- ==== Sys2Proof/Machine/Leases.lean ====
section
/-! DEFINITION. What befalls a lease: entering the state its engine allows, the reactions to lock, slip and
holdover (02), migration and its settling (05), closing, freeing and the application of a fault (06). -/

namespace Sys2Proof.Machine

/-- Whether a lease names `e` as its engine. -/
def Lease.runsFrom (l : Lease) (e : EngineId) : Bool := l.engine = some e

/-- Whether a lease names `e` as its migration target (R13). -/
def Lease.migratesTo (l : Lease) (e : EngineId) : Bool :=
  match l.migration with
  | some m => m.target = some e
  | none => false

/-- How many times a lease counts on engine `e`: as its engine, its migration target and its closing target
(R55, R113). -/
def Lease.countOn (l : Lease) (e : EngineId) : Nat :=
  (if l.runsFrom e then 1 else 0) + (if l.migratesTo e then 1 else 0)
    + (if l.closingTarget = some e then 1 else 0)

/-! ### Starting -/

/-- The state a lease with an engine just found enters (R30, R93, R122): STARTING with its outputs given their
listed targets, READY, or PENDING. -/
def State.enter (i : SlotId) (s : State) : State :=
  match s.lease? i with
  | none => s
  | some l =>
    match l.engine with
    | none => s.setLease i { l with state := .pending }
    | some e =>
      if s.isLocked e then
        if l.flags.heldStart then s.setLease i { l with state := .ready }
        else (s.setLease i { l with state := .starting }).giveEach (wantClock e) l.entries
      else s.setLease i { l with state := .pending }

/-! ### Settling of a migration (R95, R97, R101, R105) -/

/-- The settling condition of a migration's mode (R95). -/
def State.settled (l : Lease) (m : Migration) (s : State) : Bool :=
  match m.mode with
  | .loc =>
    match l.engine with
    | none => false
    | some e =>
      s.outputsAll (fun st x => runsAt e st x || (isQuiet st x && !s.isLocked e)) m.entries
  | .overlap =>
    match m.target with
    | none => false
    | some t => s.outputsAll (runsAt t) m.entries
  | .gap => s.outputsAll isQuiet l.entries

/-- Adopt a migration's values: plan, class, pin (absent where the record has none) and divider list; the record
is discarded and the reason is MIGRATED (R97, R101, R105). -/
def Lease.adopt (m : Migration) (l : Lease) : Lease :=
  { l with
    plan := m.plan, cls := m.cls.getD l.cls, pin := m.pin, entries := m.entries, migration := none,
    reason := .migrated }

/-- ACTIVE if engine `e` is LOCKED, DISTURBED otherwise (R97, R101). -/
def State.activeIfLocked (s : State) (e : Option EngineId) : LeaseState :=
  match e with
  | some e => if s.isLocked e then .active else .disturbed
  | none => .disturbed

/-- The end of a settled migration: LOCAL by R97, OVERLAP by R101, GAP by R105. -/
def State.finishMigration (i : SlotId) (l : Lease) (m : Migration) (s : State) : State :=
  match m.mode with
  | .loc => s.setLease i { l.adopt m with state := s.activeIfLocked l.engine }
  | .overlap =>
    let t := s.dropUser l.engine
    t.setLease i { l.adopt m with engine := m.target, state := t.activeIfLocked m.target }
  | .gap =>
    let t := match l.engine with
      | some e => s.reprogram e m.plan
      | none => s
    t.setLease i { l.adopt m with state := .pending, armed := l.flags.heldStart }

/-- Check whether the migration of slot `i` has settled, and if so end it (R95); `told` says that a response on
the home port reports the change. -/
def State.settle (told : Bool) (i : SlotId) (s : State) : State :=
  match s.lease? i with
  | none => s
  | some l =>
    match l.state, l.migration with
    | .migrating, some m =>
      if s.settled l m then (s.finishMigration i l m).tell told i else s
    | _, _ => s

/-! ### Announcements of the engine pool controller -/

/-- Write a lease's state and reason in a background event and raise its notice (R159). -/
def State.background (i : SlotId) (l : Lease) (st : LeaseState) (r : Reason) (s : State) : State :=
  (s.setLease i { l with state := st, reason := r }).raise i false

/-- A PENDING lease whose engine became LOCKED (R35). -/
def State.startPending (e : EngineId) (i : SlotId) (l : Lease) (s : State) : State :=
  if l.flags.heldStart && !l.armed then s.background i l .ready .locked
  else (s.background i { l with armed := false } .starting .locked).giveEach (wantClock e) l.entries

/-- A DISTURBED lease whose engine became LOCKED (R39). -/
def State.relock (e : EngineId) (i : SlotId) (l : Lease) (s : State) : State :=
  if s.outputsAll (runsAt e) l.entries then s.background i l .active .relocked
  else s.giveEach (wantClockUnlessRunning e) l.entries

/-- The targets a MIGRATING lease gives when engine `e` became LOCKED (R97, R99, R105). -/
def State.migrationLocked (e : EngineId) (l : Lease) (m : Migration) (s : State) : State :=
  match m.mode with
  | .loc => s.giveEach (wantClockUnlessRunning e) m.entries
  | .overlap =>
    if m.target = some e then s.giveEach (wantClockUnlessHeading e) m.entries
    else if m.target.any s.isLocked then s
    else s.giveEach (wantClockIfHeadingQuiet e) l.entries
  | .gap => s

/-- The announcement that engine `e` became LOCKED, at slot `i` (R35, R39, R97, R99, R114). -/
def onLocked (e : EngineId) (i : SlotId) (s : State) : State :=
  match s.lease? i with
  | none => s
  | some l =>
    if l.runsFrom e || l.migratesTo e then
      match l.state with
      | .pending => s.startPending e i l
      | .disturbed => s.relock e i l
      | .migrating =>
        match l.migration with
        | some m => (s.migrationLocked e l m).settle false i
        | none => s
      | .ready => s
      | .starting => s
      | .active => s
      | .closing => s
      | .failed => s
    else s

/-- Mute a lease's outputs under SLIP_MUTE (R37). -/
def State.mute (l : Lease) (s : State) : State :=
  if l.flags.slipMute then s.giveEach wantQuiet l.entries else s

/-- The targets a MIGRATING lease gives when engine `e` slipped (R97, R100, R105). -/
def State.migrationSlip (e : EngineId) (l : Lease) (m : Migration) (s : State) : State :=
  match m.mode with
  | .loc => s.mute l
  | .overlap =>
    if l.flags.slipMute then s.giveEach (wantQuietIfHeading e) l.entries else s
  | .gap => s

/-- The announcement that engine `e` slipped, at slot `i` (R37, R97, R100, R105, R114). -/
def onSlip (e : EngineId) (i : SlotId) (s : State) : State :=
  match s.lease? i with
  | none => s
  | some l =>
    if l.runsFrom e || l.migratesTo e then
      match l.state with
      | .ready => s.background i l .pending .slip
      | .starting => (s.background i l .disturbed .slip).mute l
      | .active => (s.background i l .disturbed .slip).mute l
      | .disturbed => (s.background i l .disturbed .slip).mute l
      | .migrating =>
        match l.migration with
        | some m => ((s.background i l .migrating .slip).migrationSlip e l m).settle false i
        | none => s
      | .pending => s
      | .closing => s
      | .failed => s
    else s

/-- The announcement that engine `e` entered HOLDOVER, at slot `i` (R38, R97, R100, R105, R114). -/
def onHoldover (e : EngineId) (i : SlotId) (s : State) : State :=
  match s.lease? i with
  | none => s
  | some l =>
    if l.runsFrom e || l.migratesTo e then
      match l.state with
      | .ready => s.background i l .pending .holdover
      | .starting => s.background i l .disturbed .holdover
      | .active => s.background i l .disturbed .holdover
      | .disturbed => s.background i l .disturbed .holdover
      | .migrating =>
        match l.migration with
        | some _ => (s.background i l .migrating .holdover).settle false i
        | none => s
      | .pending => s
      | .closing => s
      | .failed => s
    else s

/-! ### Freeing and closing -/

/-- Free the slot with a CLOSED notice: the notice is raised and closed at the home port, the slot becomes RETIRED,
its generation kept (R2, R161). -/
def State.retire (i : SlotId) (l : Lease) (s : State) : State :=
  let t := s.raise i true
  t.setSlot i ⟨(t.slot i).gen, .retired l.home⟩

/-- Free the slot without a notice, the home port's response telling of it: any entry is discarded, the slot becomes
FREE with its generation incremented (R2, R161). -/
def State.freeTold (i : SlotId) (l : Lease) (s : State) : State :=
  let t := s.discardNotice l.home i
  t.setSlot i ⟨(t.slot i).gen + 1, .free⟩

/-- Make a slot that is not FREE become FREE with its generation incremented (R2, R3, R4). -/
def State.freeSlot (i : SlotId) (s : State) : State :=
  match (s.slot i).standing with
  | .free => s
  | .live _ => s.setSlot i ⟨(s.slot i).gen + 1, .free⟩
  | .retired _ => s.setSlot i ⟨(s.slot i).gen + 1, .free⟩

/-- The migration target a lease counts on, if any (R13). -/
def Lease.migrationTarget (l : Lease) : Option EngineId :=
  match l.migration with
  | some m => m.target
  | none => none

/-- Give up everything a lease holds: the user of its migration target or closing target, its holders, the user of
its engine (R112 steps 1 to 3, R115 steps 1 and 2). -/
def State.giveUp (l : Lease) (s : State) : State :=
  (((s.dropUser l.migrationTarget).dropUser l.closingTarget).setHolders none l.entries).dropUser l.engine

/-- The completion test of a CLOSING lease and its freeing (R115, R119). -/
def State.closeIfQuiet (i : SlotId) (s : State) : State :=
  match s.lease? i with
  | none => s
  | some l =>
    if l.state = .closing && s.outputsAll isQuiet l.entries then (s.giveUp l).retire i l else s

/-- Put a lease into CLOSING (R113): the reason is RELEASED or REVOKED, the migration record is discarded and an
OVERLAP target stays as the closing target, every output is given QUIET. -/
def State.startClosing (told : Bool) (r : Reason) (i : SlotId) (l : Lease) (s : State) : State :=
  ((s.setLease i
      { l with
        state := .closing, reason := r, armed := false, migration := none,
        closingTarget := l.migrationTarget }).tell told i).giveEach wantQuiet l.entries

/-- End a lease by an accepted RELEASE or REVOKE: freed at once when every output is quiet (R111, R112), CLOSING
otherwise (R113). `told` says that the response on the home port reports the change. -/
def State.endLease (told : Bool) (r : Reason) (i : SlotId) (l : Lease) (s : State) : State :=
  if s.outputsAll isQuiet l.entries then
    let t := (s.setLease i { l with reason := r }).giveUp l
    if told then t.freeTold i l else t.retire i { l with reason := r }
  else s.startClosing told r i l

/-! ### Faults -/

/-- Make a lease FAILED (R117): it names no engine, start armed is "no", the record is discarded, its other fields
are kept. -/
def State.failLease (i : SlotId) (l : Lease) (s : State) : State :=
  s.background i { l with engine := none, armed := false, migration := none } .failed .engineFault

/-- The source engine of an OVERLAP migration has faulted (R102). -/
def State.sourceFault (i : SlotId) (l : Lease) (m : Migration) (s : State) : State :=
  let t := s.background i { l with engine := none } .migrating .engineFault
  match m.target with
  | some g => (if t.isLocked g then t.giveEach (wantClockUnlessHeading g) m.entries else t).settle false i
  | none => t

/-- The target engine of an OVERLAP migration has faulted (R103). -/
def State.targetFault (i : SlotId) (l : Lease) (s : State) : State :=
  match l.engine with
  | none => s.failLease i l
  | some e =>
    let l' := { l with migration := none }
    if s.isLocked e then
      if s.outputsAll (runsAt e) l.entries then s.background i l' .active .migrationFailed
      else (s.background i l' .starting .migrationFailed).giveEach (wantClockUnlessRunning e) l.entries
    else s.background i l' .disturbed .migrationFailed

/-- An engine named by a CLOSING lease has faulted (R119). -/
def State.closingFault (e : EngineId) (i : SlotId) (l : Lease) (s : State) : State :=
  (s.setLease i
    { l with
      engine := if l.engine = some e then none else l.engine,
      closingTarget := if l.closingTarget = some e then none else l.closingTarget }).closeIfQuiet i

/-- The fault of engine `e` applied to the lease of slot `i`, by the first row of the table of R117 that fits; the
engine's user count is decremented for a lease that named it. -/
def onFault (e : EngineId) (i : SlotId) (s : State) : State :=
  match s.lease? i with
  | none => s
  | some l =>
    match l.state with
    | .closing =>
      if l.runsFrom e || l.closingTarget = some e then (s.dropUser (some e)).closingFault e i l else s
    | .migrating =>
      match l.migration with
      | none => s
      | some m =>
        if m.target = some e then (s.dropUser (some e)).targetFault i l
        else if l.runsFrom e then
          match m.mode with
          | .overlap => (s.dropUser (some e)).sourceFault i l m
          | .loc => (s.dropUser (some e)).failLease i l
          | .gap => (s.dropUser (some e)).failLease i l
        else s
    | .pending => if l.runsFrom e then (s.dropUser (some e)).failLease i l else s
    | .ready => if l.runsFrom e then (s.dropUser (some e)).failLease i l else s
    | .starting => if l.runsFrom e then (s.dropUser (some e)).failLease i l else s
    | .active => if l.runsFrom e then (s.dropUser (some e)).failLease i l else s
    | .disturbed => if l.runsFrom e then (s.dropUser (some e)).failLease i l else s
    | .failed => s

/-- Declare the fault of engine `e` (R66): the engine is FAULTED, the outputs tied to it are forced quiet (R83), the
fault is applied to every lease (R117), ENGINE_FAULT is raised. -/
def State.declareFault (e : EngineId) (r : FaultReason) (s : State) : State :=
  ((forEach allSlots (onFault e)
      ((s.setEngine e ((s.engine e).fail r)).forceQuietTied e)).raiseEngineFault e)

/-! ### Completions -/

/-- A completion reported to the lease of slot `i` (R36, R40, R95, R115). -/
def onCompletion (i : SlotId) (s : State) : State :=
  match s.lease? i with
  | none => s
  | some l =>
    match l.state with
    | .starting =>
      if l.engine.any fun e => s.outputsAll (runsAt e) l.entries then s.background i l .active .started
      else s
    | .disturbed =>
      if l.engine.any fun e => s.isLocked e && s.outputsAll (runsAt e) l.entries then
        s.background i l .active .relocked
      else s
    | .migrating => s.settle false i
    | .closing => s.closeIfQuiet i
    | .pending => s
    | .ready => s
    | .active => s
    | .failed => s

end Sys2Proof.Machine
end

