-- ==== Sys2Proof/Machine/References.lean ====
section
/-! DEFINITION. The reference monitor and selector (07): offsets and verdicts, qualification and strikes, the
selection and what a change of it sets in motion (R50, R133 to R136, R140). -/

namespace Sys2Proof.Machine

/-! ### The selection -/

/-- Whether an input is selectable (R126). -/
def InputRec.selectable (x : InputRec) : Bool := x.state = .valid

/-- The higher-priority input (07 7.5). -/
def RefPriority.first : RefPriority → RefInput
  | .aFirst => .refA
  | .bFirst => .refB

/-- The first of the two inputs in order of priority that is VALID (07 7.5). -/
def State.firstValid (s : State) : Option RefInput :=
  let r := s.params.priority.first
  if (s.input r).selectable then some r
  else if (s.input r.other).selectable then some r.other
  else none

/-- The selection that the table of the mode gives (07 7.5). -/
def State.chosen (s : State) : Option RefInput :=
  match s.params.mode with
  | .autoRevert => s.firstValid
  | .autoHold =>
    match s.selection with
    | some r => if (s.input r).selectable then some r else s.firstValid
    | none => s.firstValid
  | .forceA => if s.refA.selectable then some .refA else none
  | .forceB => if s.refB.selectable then some .refB else none

/-- Announce a change of selection to the engine pool controller: all six engines react (R50), and each engine that
was LOCKED is announced as having entered HOLDOVER. -/
def State.announceSelection (s : State) : State :=
  let t := forEach allEngines (fun e u =>
    u.setEngine e ((u.engine e).reselect s.selection.isSome s.params.acqLimit)) s
  forEach allEngines (fun e u => if s.isLocked e then forEach allSlots (onHoldover e) u else u) t

/-- Re-evaluate the selection; a change is written, announced and raised as REF_SELECTION (R135). -/
def State.reevaluate (s : State) : State :=
  let r := s.chosen
  if r = s.selection then s
  else ({ s with selection := r } : State).announceSelection.raiseRefSelection

/-- Write an input's record; a change of its state is handed on (R133). -/
def State.updateInput (r : RefInput) (x : InputRec) (s : State) : State :=
  if x.state = (s.input r).state then s.setInput r x
  else ((s.setInput r x).raiseRefInput r).reevaluate

/-! ### Measurement -/

/-- The frequency offset in ppm of an interval of 100 ms with `edges` rising edges, rounded toward zero and held to
the range -32768 to 32767 (R128). -/
def measuredOffset (nominal edges : Nat) : Int :=
  max (-32768) (min 32767 (Int.tdiv (((10 * edges : Nat) - (nominal : Int)) * 1000000) nominal))

/-- Whether an offset is in window (R128). -/
def inWindow (window : Nat) (offset : Int) : Bool := decide (offset.natAbs ≤ window)

/-- The qualification timer STOPPED at elapsed 0 (R129). -/
def QualificationTimer.stop (t : QualificationTimer) : QualificationTimer := ⟨false, 0, 0, t.period⟩

/-- The qualification timer started from zero under the configured period (R129). -/
def QualificationTimer.start (period : Nat) : QualificationTimer := ⟨true, 0, 0, period⟩

/-- Enter QUALIFYING (R129). -/
def InputRec.qualify (period : Nat) (x : InputRec) : InputRec :=
  { x with state := .qualifying, strikes := 0, qualification := .start period }

/-- The verdict of a measurement on an input (R129, R130, R131). -/
def InputRec.judge (good : Bool) (period : Nat) (x : InputRec) : InputRec :=
  match x.state with
  | .absent => x
  | .qualifying =>
    if good then x else { x with state := .disqualified, qualification := x.qualification.stop }
  | .valid =>
    if good then { x with strikes := 0 }
    else if x.strikes = 0 then { x with strikes := 1 }
    else { x with state := .disqualified, strikes := 0 }
  | .disqualified => if good then x.qualify period else x

/-- An input after its measurement event: the offset written, the verdict acted on, the next interval begun
(R128). -/
def InputRec.measure (p : Params) (edges : Nat) (x : InputRec) : InputRec :=
  ({ x with offset := some (measuredOffset p.nominal edges), interval := ⟨true, 0⟩ } : InputRec).judge
    (inWindow p.window (measuredOffset p.nominal edges)) p.qualPeriod

/-- An input at activity-start: QUALIFYING, its interval begun (R127, R129). -/
def InputRec.arrive (period : Nat) (x : InputRec) : InputRec :=
  ({ x with interval := ⟨true, 0⟩ } : InputRec).qualify period

/-- An input at activity-loss: ABSENT, its timers stopped, its last offset kept (R132). That the stopped measurement
interval has elapsed 0 is the model's choice (log entry 25). -/
def InputRec.lose (x : InputRec) : InputRec :=
  { x with
    state := .absent, strikes := 0, qualification := x.qualification.stop, interval := ⟨false, 0⟩ }

/-- An input that passed its trial: VALID (R129). -/
def InputRec.pass (x : InputRec) : InputRec :=
  { x with state := .valid, strikes := 0, qualification := x.qualification.stop }

/-- An input at a change of nominal frequency: a new trial from zero, unless it is ABSENT (R140, step 2). That an
ABSENT input keeps its last offset, against the field table of 07 7.2, is the model's choice (log entry 27). -/
def InputRec.retrial (period : Nat) (x : InputRec) : InputRec :=
  match x.state with
  | .absent => x
  | .qualifying => ({ x with offset := none, interval := ⟨true, 0⟩ } : InputRec).qualify period
  | .valid => ({ x with offset := none, interval := ⟨true, 0⟩ } : InputRec).qualify period
  | .disqualified => ({ x with offset := none, interval := ⟨true, 0⟩ } : InputRec).qualify period

/-- One input at a change of nominal frequency, with its notice if its state changes (R140, step 2). -/
def State.retrialInput (r : RefInput) (s : State) : State :=
  let x := (s.input r).retrial s.params.qualPeriod
  if x.state = (s.input r).state then s.setInput r x else (s.setInput r x).raiseRefInput r

/-- What a change of nominal frequency sets in motion (R140, steps 2 and 3). -/
def State.nominalChanged (s : State) : State :=
  ((s.retrialInput .refA).retrialInput .refB).reevaluate

end Sys2Proof.Machine
end

