-- ==== Sys2Proof/Machine/Events.lean ====
section
/-! DEFINITION. The background events: the engine pool's (03), the output selector's (04) and the reference monitor's
(07). An event that reaches a record it does not concern leaves the part as it was (R45; log entry 2). -/

namespace Sys2Proof.Machine

/-! ### Lock events -/

/-- Whether a lock-achieved is acted on (R45): ACQUIRING with its loop closed, or a relock attempt. -/
def EngineRec.mayLock (x : EngineRec) : Bool :=
  match x.state with
  | .acquiring => x.acquisition.standing = .running
  | .holdover => x.relock
  | .off => false
  | .locked => false
  | .lingering => false
  | .faulted => false

/-- Engine `e` becomes LOCKED and is announced to every lease that names it (R47, R52). -/
def State.lockAchieved (e : EngineId) (s : State) : State :=
  if (s.engine e).mayLock then forEach allSlots (onLocked e) (s.setEngine e (s.engine e).lock) else s

/-- LOCK_ACHIEVED (R45). -/
def execLockAchieved (e : EngineId) (s : State) : Host.Outcome State Fault Refusal :=
  .next (event (State.lockAchieved e) s)

/-- A lock-lost by the engine's state (R45): a slip, announced (R49), or OFF (R53). -/
def State.lockLost (e : EngineId) (s : State) : State :=
  match (s.engine e).state with
  | .locked => forEach allSlots (onSlip e) (s.setEngine e ((s.engine e).slip s.params.acqLimit))
  | .lingering => s.setEngine e (s.engine e).turnOff
  | .off => s
  | .acquiring => s
  | .holdover => s
  | .faulted => s

/-- LOCK_LOST (R45). -/
def execLockLost (e : EngineId) (s : State) : Host.Outcome State Fault Refusal :=
  .next (event (State.lockLost e) s)

/-! ### Timers of the pool -/

/-- The fault of an expired acquisition timer, if it runs (R48, R52). -/
def EngineRec.expiryFault (x : EngineRec) : Option FaultReason :=
  match x.state with
  | .acquiring =>
    if x.acquisition.standing = .running then
      some (if x.kind = .first then .lockTimeout else .relockTimeout)
    else none
  | .holdover => if x.relock then some .relockTimeout else none
  | .off => none
  | .locked => none
  | .lingering => none
  | .faulted => none

/-- The acquisition timer of engine `e` expires (R48). -/
def State.acquisitionExpiry (e : EngineId) (s : State) : State :=
  match (s.engine e).expiryFault with
  | some r => s.declareFault e r
  | none => s

/-- ACQUISITION_TIMER_EXPIRY (R48). -/
def execAcquisitionTimerExpiry (e : EngineId) (s : State) : Host.Outcome State Fault Refusal :=
  .next (event (State.acquisitionExpiry e) s)

/-- The holdover timer of engine `e` reaches the holdover limit (R51). A limit raised or set to 0 since faults no engine
(R71). -/
def State.holdoverLimitReached (e : EngineId) (s : State) : State :=
  if (s.engine e).atHoldoverLimit s.params.holdoverLimit then s.declareFault e .holdoverLimit else s

/-- HOLDOVER_TIMER_LIMIT (R51). -/
def execHoldoverTimerLimit (e : EngineId) (s : State) : Host.Outcome State Fault Refusal :=
  .next (event (State.holdoverLimitReached e) s)

/-- The linger timer of engine `e` expires (R53). -/
def State.lingerExpiry (e : EngineId) (s : State) : State :=
  if (s.engine e).state = .lingering then s.setEngine e (s.engine e).turnOff else s

/-- LINGER_TIMER_EXPIRY (R53). -/
def execLingerTimerExpiry (e : EngineId) (s : State) : Host.Outcome State Fault Refusal :=
  .next (event (State.lingerExpiry e) s)

/-! ### Completions -/

/-- Report the completion of output `o` to its holder lease (R78, step 3). -/
def State.reportCompletion (o : OutputId) (s : State) : State :=
  match (s.output o).holder with
  | some i => onCompletion i s
  | none => s

/-- The changeover of output `o` completes (R78). -/
def State.changeoverDone (o : OutputId) (s : State) : State :=
  if (s.output o).state.isChanging then
    (s.setOutput o { s.output o with state := (s.output o).state.complete }).reportCompletion o
  else s

/-- CHANGEOVER_DONE (R78). -/
def execChangeoverDone (o : OutputId) (s : State) : Host.Outcome State Fault Refusal :=
  .next (event (State.changeoverDone o) s)

/-! ### The reference monitor -/

/-- Edges appear on input `r` (R127, R129); the monitor is idle until the part is READY (R125). -/
def State.activityStart (r : RefInput) (s : State) : State :=
  if s.ready && (s.input r).state = .absent then s.updateInput r ((s.input r).arrive s.params.qualPeriod)
  else s

/-- ACTIVITY_START (R127). -/
def execActivityStart (r : RefInput) (s : State) : Host.Outcome State Fault Refusal :=
  .next (event (State.activityStart r) s)

/-- Edges stop on input `r` (R132). -/
def State.activityLoss (r : RefInput) (s : State) : State :=
  if s.ready && (s.input r).state ≠ .absent then s.updateInput r (s.input r).lose else s

/-- ACTIVITY_LOSS (R132). -/
def execActivityLoss (r : RefInput) (s : State) : Host.Outcome State Fault Refusal :=
  .next (event (State.activityLoss r) s)

/-- A measurement interval of input `r` ends, `edges` rising edges having been seen in it (R128). -/
def State.measurement (r : RefInput) (edges : Nat) (s : State) : State :=
  if s.ready && (s.input r).state ≠ .absent then s.updateInput r ((s.input r).measure s.params edges) else s

/-- MEASUREMENT (R128). -/
def execMeasurement (r : RefInput) (edges : Nat) (s : State) : Host.Outcome State Fault Refusal :=
  .next (event (State.measurement r edges) s)

/-- The qualification timer of input `r` expires: the trial is passed (R129). -/
def State.qualificationExpiry (r : RefInput) (s : State) : State :=
  if s.ready && (s.input r).state = .qualifying then s.updateInput r (s.input r).pass else s

/-- QUALIFICATION_TIMER_EXPIRY (R129). -/
def execQualificationTimerExpiry (r : RefInput) (s : State) : Host.Outcome State Fault Refusal :=
  .next (event (State.qualificationExpiry r) s)

end Sys2Proof.Machine
end

