-- ==== Sys2Proof/Machine/Formats.lean ====
section
/-! DEFINITION. The codes of the wire (11): the CRC, the numbers of codes and fields, and how the records are laid
out in response bodies. -/

namespace Sys2Proof.Machine

/-! ### Bytes and the CRC -/

/-- One byte of a number. -/
def byte (n : Nat) : Byte := BitVec.ofNat 8 n

/-- A number in 2 bytes, most significant first (R178). -/
def bytes2 (n : Nat) : List Byte := [byte (n / 256), byte n]

/-- A number in 4 bytes, most significant first (R178). -/
def bytes4 (n : Nat) : List Byte :=
  [byte (n / 16777216), byte (n / 65536), byte (n / 256), byte n]

/-- The number of a list of bytes, most significant first (R178). -/
def number (bs : List Byte) : Nat := bs.foldl (fun n b => n * 256 + b.toNat) 0

/-- One bit as 0 or 1 at bit `k` of a byte. -/
def bitAt (k : Nat) (b : Bool) : Byte := if b then 1#8 <<< k else 0#8

/-- One shift of the CRC register: XORed with 07h if the bit shifted out was 1 (R179). -/
def crcShift (r : Byte) : Byte := if r.msb then (r <<< 1) ^^^ 0x07#8 else r <<< 1

/-- The CRC register after one more byte (R179). -/
def crcByte (r b : Byte) : Byte :=
  crcShift (crcShift (crcShift (crcShift (crcShift (crcShift (crcShift (crcShift (r ^^^ b))))))))

/-- The CRC of a list of bytes, from the initial value FFh (R179). -/
def crc8 (bs : List Byte) : Byte := bs.foldl crcByte 0xFF#8

/-! ### Codes (R178, R180, 11.2) -/

/-- The kind byte of a COMMAND frame. -/
def kindCommand : Byte := 0x5C#8

/-- The kind byte of a FETCH frame. -/
def kindFetch : Byte := 0x3A#8

/-- The kind byte of a RESYNC frame. -/
def kindResync : Byte := 0xC3#8

/-- The kind byte of a NOP frame. -/
def kindNop : Byte := 0x00#8

/-- The check byte of a RESYNC frame. -/
def resyncCheck : Byte := 0x3C#8

/-- The filler byte. -/
def filler : Byte := 0x00#8

/-- The code of a frame error (R178). -/
def FrameError.code : FrameError → BitVec 3
  | .none => 0
  | .crcError => 1
  | .frameShort => 2
  | .portBusy => 3
  | .responseUnread => 4
  | .seqConflict => 5
  | .badKind => 6
  | .notReady => 7

/-- The code of a status (R180). -/
def Status.code : Status → Byte
  | .ok => 0x00#8
  | .okGap => 0x01#8
  | .samePlan => 0x02#8
  | .notFound => 0x03#8
  | .clientDenied => 0x10#8
  | .supervisorOnly => 0x11#8
  | .badCommand => 0x12#8
  | .badArgument => 0x13#8
  | .noSuchLease => 0x14#8
  | .notOwner => 0x15#8
  | .wrongState => 0x16#8
  | .tagInUse => 0x17#8
  | .quota => 0x18#8
  | .tableFull => 0x19#8
  | .planRange => 0x1A#8
  | .outputRange => 0x1B#8
  | .outputHeld => 0x1C#8
  | .noEngine => 0x1D#8
  | .engineBusy => 0x1E#8
  | .configLocked => 0x1F#8

/-- The code of status NONE, carried by the empty response (R150, R180). -/
def statusNone : Byte := 0xFF#8

/-- FFh, where a field is absent or a refusal carries no position. -/
def absentByte : Byte := 0xFF#8

def codeOpen : Byte := 0x01#8
def codeStart : Byte := 0x02#8
def codeRetune : Byte := 0x03#8
def codeRelease : Byte := 0x04#8
def codeRetry : Byte := 0x05#8
def codeQueryLease : Byte := 0x06#8
def codeLookupTag : Byte := 0x07#8
def codeListClient : Byte := 0x08#8
def codeFindOutput : Byte := 0x09#8
def codeQueryEngine : Byte := 0x0A#8
def codeQueryReference : Byte := 0x0B#8
def codeNotices : Byte := 0x0C#8
def codeSetIrq : Byte := 0x0D#8
def codeReadConfig : Byte := 0x0E#8
def codeConfigure : Byte := 0x10#8
def codeSetClients : Byte := 0x11#8
def codeHandover : Byte := 0x12#8
def codeSoftReset : Byte := 0x13#8
def codeEngineClear : Byte := 0x14#8
def codeRevoke : Byte := 0x15#8

/-- The command codes of R180. -/
def knownCodes : List Byte :=
  [codeOpen, codeStart, codeRetune, codeRelease, codeRetry, codeQueryLease, codeLookupTag,
   codeListClient, codeFindOutput, codeQueryEngine, codeQueryReference, codeNotices, codeSetIrq,
   codeReadConfig, codeConfigure, codeSetClients, codeHandover, codeSoftReset, codeEngineClear,
   codeRevoke]

/-- Scope LEASES of SOFT_RESET (R181). -/
def scopeLeases : Byte := 0x01#8

/-- Scope DEVICE of SOFT_RESET (R181). -/
def scopeDevice : Byte := 0x02#8

/-- Port (11.2). -/
def portByte : Port → Byte
  | .A => 0x00#8
  | .B => 0x01#8

/-- Class of a lease (11.2). -/
def LeaseClass.code : LeaseClass → Byte
  | .general => 0x00#8
  | .fine => 0x01#8
  | .any => 0x02#8

/-- Class of an engine (11.2). -/
def EngineClass.code : EngineClass → Byte
  | .general => 0x00#8
  | .fine => 0x01#8

/-- Lease state (11.2). -/
def LeaseState.code : LeaseState → Byte
  | .pending => 0x01#8
  | .ready => 0x02#8
  | .starting => 0x03#8
  | .active => 0x04#8
  | .disturbed => 0x05#8
  | .migrating => 0x06#8
  | .closing => 0x07#8
  | .failed => 0x08#8

/-- The reported state CLOSED (R20, 11.2). -/
def closedCode : Byte := 0x09#8

/-- Reason (11.2). -/
def Reason.code : Reason → Byte
  | .opened => 0x01#8
  | .locked => 0x02#8
  | .started => 0x03#8
  | .slip => 0x04#8
  | .holdover => 0x05#8
  | .relocked => 0x06#8
  | .engineFault => 0x07#8
  | .migrated => 0x08#8
  | .migrationFailed => 0x09#8
  | .retried => 0x0A#8
  | .released => 0x0B#8
  | .revoked => 0x0C#8

/-- Migration mode (11.2). -/
def MigrationMode.code : MigrationMode → Byte
  | .loc => 0x01#8
  | .overlap => 0x02#8
  | .gap => 0x03#8

/-- Engine state (11.2). -/
def EngineState.code : EngineState → Byte
  | .off => 0x00#8
  | .acquiring => 0x01#8
  | .locked => 0x02#8
  | .holdover => 0x03#8
  | .lingering => 0x04#8
  | .faulted => 0x05#8

/-- Fault reason, 00h where absent (11.2). -/
def faultCode : Option FaultReason → Byte
  | none => 0x00#8
  | some .lockTimeout => 0x01#8
  | some .relockTimeout => 0x02#8
  | some .holdoverLimit => 0x03#8

/-- Timer standing (11.2). -/
def TimerStanding.code : TimerStanding → Byte
  | .stopped => 0x00#8
  | .running => 0x01#8
  | .waiting => 0x02#8

/-- The standing of a timer that only runs or stops (11.2). -/
def runningCode (running : Bool) : Byte := if running then 0x01#8 else 0x00#8

/-- Input state (11.2). -/
def InputState.code : InputState → Byte
  | .absent => 0x00#8
  | .qualifying => 0x01#8
  | .valid => 0x02#8
  | .disqualified => 0x03#8

/-- Selection (11.2). -/
def selectionCode : Option RefInput → Byte
  | none => 0x00#8
  | some .refA => 0x01#8
  | some .refB => 0x02#8

/-- REF_MODE (11.2). -/
def RefMode.number : RefMode → Nat
  | .autoRevert => 0
  | .autoHold => 1
  | .forceA => 2
  | .forceB => 3

/-- REF_PRIORITY (11.2). -/
def RefPriority.number : RefPriority → Nat
  | .aFirst => 0
  | .bFirst => 1

/-- Engine, FFh where absent (11.2). -/
def engineByte : Option EngineId → Byte
  | none => absentByte
  | some e => byte e.1

/-- Class of a lease, FFh where absent (11.2). -/
def classByte : Option LeaseClass → Byte
  | none => absentByte
  | some c => c.code

/-! ### Records in response bodies -/

/-- A handle: slot, then generation (11.2). -/
def State.handleBytes (s : State) (i : SlotId) : List Byte := [byte i.1, (s.slot i).gen]

/-- A plan: N in 2 bytes, then D; 0, 0 where absent (11.2, R182). -/
def planBytes : Option Plan → List Byte
  | none => [0#8, 0#8, 0#8]
  | some p => bytes2 p.n ++ [byte p.d]

/-- An output entry: output number, then divider in 2 bytes (11.2). -/
def entryBytes (x : Entry) : List Byte := byte x.output.1 :: bytes2 x.divider

/-- A source, target or pending target: engine then divider, FEh for QUIET with divider 0, FFh with divider 0 where
absent (11.2, R182). -/
def targetBytes : Option Target → List Byte
  | none => [absentByte, 0#8, 0#8]
  | some .quiet => [0xFE#8, 0#8, 0#8]
  | some (.clock e q) => byte e.1 :: bytes2 q

/-- Flags, with start armed in bit 7 (R182). -/
def flagsByte (f : LeaseFlags) (armed : Bool) : Byte :=
  bitAt 0 f.exclusive ||| bitAt 1 f.heldStart ||| bitAt 2 f.slipMute ||| bitAt 3 f.allowGap
    ||| bitAt 7 armed

/-- Home port in bit 7, the owner in bits 2 to 0 (R182). -/
def ownerByte (owner : Nat) (home : Port) : Byte := bitAt 7 (home = .B) ||| byte owner

/-- The migration mode byte, 00h for none (11.2). -/
def Lease.modeByte (l : Lease) : Byte :=
  match l.migration with
  | none => 0x00#8
  | some m => m.mode.code

/-- The migration part of a QUERY_LEASE response (R182); without a record the target byte still carries a closing
target (R113). -/
def Lease.migrationBytes (l : Lease) : List Byte :=
  match l.migration with
  | some m =>
    [m.mode.code, engineByte m.target] ++ planBytes (some m.plan) ++
      [classByte m.cls, engineByte m.pin] ++ m.entries.flatMap (fun x => bytes2 x.divider)
  | none =>
    [0x00#8, engineByte l.closingTarget] ++ planBytes none ++ [absentByte, absentByte] ++
      l.entries.flatMap (fun _ => bytes2 0)

/-- The lease record in a QUERY_LEASE response (R182). -/
def State.leaseBytes (s : State) (i : SlotId) (l : Lease) : List Byte :=
  s.handleBytes i ++ [l.state.code, ownerByte l.owner.1 l.home] ++ bytes2 (l.tag.getD 0) ++
    planBytes (some l.plan) ++
    [l.cls.code, flagsByte l.flags l.armed, engineByte l.pin, engineByte l.engine, l.reason.code,
      byte l.entries.length] ++
    l.entries.flatMap entryBytes ++ l.migrationBytes

/-- A RETIRED slot in a QUERY_LEASE response (R20, R182). -/
def State.retiredBytes (s : State) (i : SlotId) (home : Port) : List Byte :=
  s.handleBytes i ++ [closedCode, ownerByte 0 home]

/-- The state byte of an output (11.2). -/
def OutState.code : OutState → Byte
  | .quiet => 0x00#8
  | .running _ _ => 0x01#8
  | .changing _ _ _ => 0x02#8

/-- The source of an output (R73). -/
def OutState.source : OutState → Option Target
  | .quiet => none
  | .running e q => some (.clock e q)
  | .changing src _ _ => some src

/-- The target of an output (R73). -/
def OutState.target : OutState → Option Target
  | .quiet => none
  | .running _ _ => none
  | .changing _ tgt _ => some tgt

/-- The pending target of an output (R73). -/
def OutState.pendingTarget : OutState → Option Target
  | .quiet => none
  | .running _ _ => none
  | .changing _ _ w => w

/-- The holder's handle in a FIND_OUTPUT response: slot FFh where absent, its generation byte then a free value
(R182, log entry 8). -/
def State.holderBytes (s : State) (h : Option SlotId) : List Byte :=
  match h with
  | some i => s.handleBytes i
  | none => [absentByte, Config.freeByte s.freeCount]

/-- A FIND_OUTPUT response (R88, R182). -/
def State.outputBytes (s : State) (o : OutputId) : List Byte :=
  let x := s.output o
  [byte o.1, x.state.code] ++ targetBytes x.state.source ++ targetBytes x.state.target ++
    targetBytes x.state.pendingTarget ++ s.holderBytes x.holder

/-- A QUERY_ENGINE response (R69, R182). -/
def State.engineBytes (s : State) (e : EngineId) : List Byte :=
  let x := s.engine e
  [byte e.1, (classOf e).code, x.state.code] ++ planBytes x.plan ++
    [byte x.users,
      bitAt 0 x.exclusive ||| bitAt 1 x.reserved ||| bitAt 2 x.relock ||| bitAt 3 (x.kind = .relock),
      x.acquisition.standing.code, byte x.acquisition.elapsed, byte x.acquisition.limit,
      runningCode x.holdover.running] ++
    bytes2 x.holdover.elapsed ++ [runningCode x.linger.running] ++ bytes2 x.linger.elapsed ++
    bytes2 x.linger.time ++ [faultCode x.fault]

/-- The two's complement of an offset, 0 when absent (R182). -/
def offsetBytes (o : Option Int) : List Byte := bytes2 (BitVec.ofInt 16 (o.getD 0)).toNat

/-- One input in a QUERY_REFERENCE response (R182). -/
def InputRec.bytes (x : InputRec) : List Byte :=
  [x.state.code,
    bitAt 0 x.offset.isSome ||| bitAt 1 (x.strikes = 1) ||| bitAt 2 x.qualification.running
      ||| bitAt 3 x.interval.running] ++
    offsetBytes x.offset ++ [byte x.qualification.elapsed, byte x.qualification.period]

/-- A QUERY_REFERENCE response (R137, R182). -/
def State.referenceBytes (s : State) : List Byte :=
  s.refA.bytes ++ s.refB.bytes ++ [selectionCode s.selection]

/-- The eight parameters in parameter-code order, 4 bytes each (R170, R182). -/
def Params.bytes (p : Params) : List Byte :=
  bytes4 p.nominal ++ bytes4 p.window ++ bytes4 p.qualPeriod ++ bytes4 p.mode.number ++
    bytes4 p.priority.number ++ bytes4 p.acqLimit ++ bytes4 p.linger ++ bytes4 p.holdoverLimit

/-- The two enables as in the SET_IRQ command (R181, R182). -/
def enablesByte (notice response : Bool) : Byte := bitAt 0 notice ||| bitAt 1 response

/-- The entries of a lease-notice set with their slots, in ascending slot order (R158). -/
def PortState.noticeList (x : PortState) : List (SlotId × Notice) :=
  allSlots.filterMap fun i => (x.notices[i]).map fun n => (i, n)

/-- One entry of a NOTICES response (R163, R183): handle, change count, reason, and the state at the taking, CLOSED for
a closed entry. -/
def State.noticeBytes (s : State) (x : SlotId × Notice) : List Byte :=
  [byte x.1.1, x.2.gen, byte x.2.count, x.2.reason.code,
    if x.2.closed then closedCode
    else match s.lease? x.1 with
      | some l => l.state.code
      | none => closedCode]

/-- The device part of a NOTICES response (R183). -/
def State.deviceBytes (s : State) (p : Port) : List Byte :=
  if s.supervisor = p then
    let d := s.deviceNotices
    [bitAt 7 true ||| bitAt 0 d.refInputA ||| bitAt 1 d.refInputB ||| bitAt 2 d.refSelection
        ||| bitAt 3 d.engineFault ||| bitAt 4 d.supervisorArrived,
      bitAt 0 d.engines[0] ||| bitAt 1 d.engines[1] ||| bitAt 2 d.engines[2] ||| bitAt 3 d.engines[3]
        ||| bitAt 4 d.engines[4] ||| bitAt 5 d.engines[5]]
  else [0#8, 0#8]

/-- A NOTICES response (R163, R183). -/
def State.noticesBytes (s : State) (p : Port) : List Byte :=
  let l := (s.port p).noticeList
  byte l.length :: l.flatMap s.noticeBytes ++ s.deviceBytes p

/-- The first three bytes of a response frame before its length: sequence, status, flags (R178). -/
def Response.head (r : Response) : List Byte :=
  [byte (r.seq.toNat * 16), r.status.code, bitAt 0 r.replayed]

/-- A response frame (R150, R178): head, length, body and the CRC of all of them. -/
def Response.frame (r : Response) : List Byte :=
  let bs := r.head ++ byte r.body.length :: r.body
  bs ++ [crc8 bs]

/-- The empty response frame (R150, R178). -/
def emptyFrame : List Byte :=
  let bs := [0x00#8, statusNone, 0x00#8, 0x00#8]
  bs ++ [crc8 bs]

end Sys2Proof.Machine
end

