-- ==== Sys2Proof/Machine/Operands.lean ====
section
/-! DEFINITION. The operand forms: the body of every command read by the layouts of R181. A reading answers none where
the body check of R18 refuses with BAD_ARGUMENT: another length, a count or value outside its range, a code of no
field, a set bit that no field defines, a list out of order. -/

namespace Sys2Proof.Machine

/-- A handle as carried: a slot byte, judged at the handle check, and a generation (R181). -/
structure Handle where
  slot : Byte
  gen : Byte
  deriving DecidableEq, Repr

/-- The body of OPEN (R23). -/
structure OpenArgs where
  tag : Option Nat
  plan : Plan
  cls : LeaseClass
  flags : LeaseFlags
  pin : Option EngineId
  entries : List Entry
  deriving DecidableEq, Repr

/-- The body of RETUNE (R89). -/
structure RetuneArgs where
  handle : Handle
  plan : Plan
  cls : Option LeaseClass
  pin : Option EngineId
  entries : List Entry
  deriving DecidableEq, Repr

/-- The body of RETRY (R121). -/
structure RetryArgs where
  handle : Handle
  plan : Option Plan
  cls : Option LeaseClass
  pin : Option EngineId
  entries : Option (List Entry)
  deriving DecidableEq, Repr

/-- The body of SET_CLIENTS (R171). -/
structure ClientArgs where
  maskA : Option Byte
  maskB : Option Byte
  quotas : List (ClientId × Nat)
  deriving DecidableEq, Repr

/-- One parameter written by CONFIGURE, with its value in range (R168). -/
inductive ParamWrite where
  | nominal (v : Nat)
  | window (v : Nat)
  | qualPeriod (v : Nat)
  | mode (m : RefMode)
  | priority (x : RefPriority)
  | acqLimit (v : Nat)
  | linger (v : Nat)
  | holdoverLimit (v : Nat)
  deriving DecidableEq, Repr

/-- A number below `n`. -/
def readFin (n : Nat) (b : Byte) : Option (Fin n) := if h : b.toNat < n then some ⟨b.toNat, h⟩ else none

/-- A class that may not be absent (11.2). -/
def readClass (b : Byte) : Option LeaseClass :=
  if b = 0x00#8 then some .general
  else if b = 0x01#8 then some .fine
  else if b = 0x02#8 then some .any
  else none

/-- A class that may be absent, FFh (11.2); the outer none is a refusal. -/
def readClass? (b : Byte) : Option (Option LeaseClass) :=
  if b = absentByte then some none else (readClass b).map some

/-- A pin, FFh absent (11.2); the outer none is a refusal. -/
def readPin (b : Byte) : Option (Option EngineId) :=
  if b = absentByte then some none else (readFin 6 b).map some

/-- The four flags; a set bit above them is refused (R26). -/
def readFlags (b : Byte) : Option LeaseFlags :=
  if b &&& 0xF0#8 = 0#8 then some ⟨b.getLsbD 0, b.getLsbD 1, b.getLsbD 2, b.getLsbD 3⟩ else none

/-- A plan with N 1 to 4095 and D 1 to 255 (R26). -/
def readPlan (n1 n0 d : Byte) : Option Plan :=
  let n := number [n1, n0]
  if 1 ≤ n ∧ n ≤ 4095 ∧ 1 ≤ d.toNat then some ⟨n, d.toNat⟩ else none

/-- Output entries of 3 bytes: an output 0 to 15 at a divider 1 to 1024 (R26). -/
def readEntries : List Byte → Option (List Entry)
  | [] => some []
  | o :: q1 :: q0 :: rest =>
    match readFin 16 o, readEntries rest with
    | some o, some es =>
      let q := number [q1, q0]
      if 1 ≤ q ∧ q ≤ 1024 then some (⟨o, q⟩ :: es) else none
    | _, _ => none
  | _ => none

/-- Strictly ascending by output number (R11). -/
def ascending : List Entry → Bool
  | [] => true
  | [_] => true
  | x :: y :: rest => decide (x.output < y.output) && ascending (y :: rest)

/-- A count byte `k` up to 4 and `k` entries in order (R26). -/
def readEntryList (k : Byte) (rest : List Byte) : Option (List Entry) :=
  match readEntries rest with
  | some es => if es.length = k.toNat ∧ k.toNat ≤ 4 ∧ ascending es = true then some es else none
  | none => none

/-- An entry list that may not be empty (R26). -/
def readEntryList1 (k : Byte) (rest : List Byte) : Option (List Entry) :=
  match readEntryList k rest with
  | some [] => none
  | r => r

/-- The body of OPEN (R26, R181). -/
def readOpen : List Byte → Option OpenArgs
  | t1 :: t0 :: n1 :: n0 :: d :: c :: f :: p :: k :: rest =>
    match readPlan n1 n0 d, readClass c, readFlags f, readPin p, readEntryList1 k rest with
    | some plan, some cls, some flags, some pin, some es =>
      let t := number [t1, t0]
      some ⟨if t = 0 then none else some t, plan, cls, flags, pin, es⟩
    | _, _, _, _, _ => none
  | _ => none

/-- One handle (R181). -/
def readHandle : List Byte → Option Handle
  | [i, g] => some ⟨i, g⟩
  | _ => none

/-- Handles of 2 bytes each. -/
def readHandles : List Byte → Option (List Handle)
  | [] => some []
  | i :: g :: rest => (readHandles rest).map (⟨i, g⟩ :: ·)
  | _ => none

/-- The body of START: 1 to 4 handles, none named twice (R33). -/
def readStart (body : List Byte) : Option (List Handle) :=
  match readHandles body with
  | some hs => if 1 ≤ hs.length ∧ hs.length ≤ 4 ∧ hs.Nodup then some hs else none
  | none => none

/-- The body of RETUNE (R90, R181). -/
def readRetune : List Byte → Option RetuneArgs
  | i :: g :: n1 :: n0 :: d :: c :: p :: k :: rest =>
    match readPlan n1 n0 d, readClass? c, readPin p, readEntryList1 k rest with
    | some plan, some cls, some pin, some es => some ⟨⟨i, g⟩, plan, cls, pin, es⟩
    | _, _, _, _ => none
  | _ => none

/-- A plan that N = 0 and D = 0 mark as absent; exactly one of them zero is refused (R181). The outer none is a
refusal. -/
def readPlan? (n1 n0 d : Byte) : Option (Option Plan) :=
  if number [n1, n0] = 0 ∧ d = 0#8 then some none else (readPlan n1 n0 d).map some

/-- The body of RETRY (R121, R181). -/
def readRetry : List Byte → Option RetryArgs
  | i :: g :: n1 :: n0 :: d :: c :: p :: k :: rest =>
    match readPlan? n1 n0 d, readClass? c, readPin p, readEntryList k rest with
    | some plan, some cls, some pin, some es =>
      some ⟨⟨i, g⟩, plan, cls, pin, if es = [] then none else some es⟩
    | _, _, _, _ => none
  | _ => none

/-- The body of LOOKUP_TAG: a client and a tag that is not 0 (R21). -/
def readLookupTag : List Byte → Option (ClientId × Nat)
  | [c, t1, t0] =>
    match readFin 8 c with
    | some c => if number [t1, t0] = 0 then none else some (c, number [t1, t0])
    | none => none
  | _ => none

/-- A body of one byte below `n`: a client, an output or an engine (R22, R88, R69, R68). -/
def readOne (n : Nat) : List Byte → Option (Fin n)
  | [b] => readFin n b
  | _ => none

/-- An empty body (R181). -/
def readNothing : List Byte → Option Unit
  | [] => some ()
  | _ => none

/-- The body of SET_IRQ: notice enable, response enable (R165, R181). -/
def readSetIrq : List Byte → Option (Bool × Bool)
  | [b] => if b &&& 0xFC#8 = 0#8 then some (b.getLsbD 0, b.getLsbD 1) else none
  | _ => none

/-- REF_MODE (11.2). -/
def readMode (v : Nat) : Option RefMode :=
  if v = 0 then some .autoRevert
  else if v = 1 then some .autoHold
  else if v = 2 then some .forceA
  else if v = 3 then some .forceB
  else none

/-- REF_PRIORITY (11.2). -/
def readPriority (v : Nat) : Option RefPriority :=
  if v = 0 then some .aFirst else if v = 1 then some .bFirst else none

/-- One parameter with its value, none where the parameter is not in the table or the value is outside its range
(R168, 11.2). -/
def readParam (k : Byte) (v : Nat) : Option ParamWrite :=
  if k = 0x01#8 then (if 1000000 ≤ v ∧ v ≤ 250000000 then some (.nominal v) else none)
  else if k = 0x02#8 then (if 1 ≤ v ∧ v ≤ 200 then some (.window v) else none)
  else if k = 0x03#8 then (if 1 ≤ v ∧ v ≤ 255 then some (.qualPeriod v) else none)
  else if k = 0x04#8 then (readMode v).map .mode
  else if k = 0x05#8 then (readPriority v).map .priority
  else if k = 0x06#8 then (if 1 ≤ v ∧ v ≤ 255 then some (.acqLimit v) else none)
  else if k = 0x07#8 then (if v ≤ 65535 then some (.linger v) else none)
  else if k = 0x08#8 then (if v ≤ 65535 then some (.holdoverLimit v) else none)
  else none

/-- Pairs of a parameter byte and a value of 4 bytes. -/
def readPairs : List Byte → Option (List (Byte × Nat))
  | [] => some []
  | k :: a :: b :: c :: d :: rest => (readPairs rest).map ((k, number [a, b, c, d]) :: ·)
  | _ => none

/-- Whether the pair at position `j` offends: it names no parameter, its value is out of range, or an earlier pair
names the same parameter (R168). -/
def pairOffends (ps : List (Byte × Nat)) (j : Nat) : Bool :=
  match ps[j]? with
  | none => false
  | some (k, v) => (readParam k v).isNone || (ps.take j).any fun x => x.1 = k

/-- The position of the first offending pair (R168). -/
def firstOffending (ps : List (Byte × Nat)) : Option Nat :=
  (List.range ps.length).find? (pairOffends ps)

/-- Pairs of a client and a quota 0 to 24 (R171). -/
def readQuotas : List Byte → Option (List (ClientId × Nat))
  | [] => some []
  | c :: q :: rest =>
    match readFin 8 c, readQuotas rest with
    | some c, some qs => if q.toNat ≤ 24 then some ((c, q.toNat) :: qs) else none
    | _, _ => none
  | _ => none

/-- A mask if its parts bit is set; bit 0 must be clear, and a mask not carried is not read (R181). The outer none is a
refusal. -/
def readMask (carried : Bool) (m : Byte) : Option (Option Byte) :=
  if carried then (if m.getLsbD 0 then none else some (some m)) else some none

/-- The body of SET_CLIENTS (R171, R181). -/
def readSetClients : List Byte → Option ClientArgs
  | parts :: ma :: mb :: q :: rest =>
    match readMask (parts.getLsbD 0) ma, readMask (parts.getLsbD 1) mb, readQuotas rest with
    | some a, some b, some qs =>
      if parts &&& 0xFC#8 = 0#8 ∧ qs.length = q.toNat ∧ (qs.map Prod.fst).Nodup then some ⟨a, b, qs⟩
      else none
    | _, _, _ => none
  | _ => none

/-- The scope of SOFT_RESET: `false` LEASES, `true` DEVICE (R181). -/
def readScope : List Byte → Option Bool
  | [b] => if b = scopeLeases then some false else if b = scopeDevice then some true else none
  | _ => none

end Sys2Proof.Machine
end

