-- ==== Sys2Proof/Machine/Flags.lean ====
section
/-! DEFINITION. The indications computed from the state: NOTE, the port status byte, the IRQ lines, the drive of the
data-out pins, the standing of the oscillator. -/

namespace Sys2Proof.Machine

/-- Whether the port holds a lease-notice entry. -/
def PortState.hasNotice (x : PortState) : Bool := allSlots.any fun i => (x.notices[i]).isSome

/-- Whether a device-notice kind is present (R162). -/
def DeviceNotices.hasKind (d : DeviceNotices) : Bool :=
  d.refInputA || d.refInputB || d.refSelection || d.engineFault || d.supervisorArrived

/-- The NOTE indication of port `p` (R166). -/
def State.note (s : State) (p : Port) : Bool :=
  (s.port p).hasNotice || (s.supervisor = p && s.deviceNotices.hasKind)

/-- Whether a command is held: BUSY (R143). -/
def Exchange.isHeld : Exchange → Bool
  | .held _ => true
  | .empty => false
  | .answered _ => false

/-- Whether a response is present: RESP (R143). -/
def Exchange.isAnswered : Exchange → Bool
  | .answered _ => true
  | .empty => false
  | .held _ => false

/-- The port status byte of port `p` (R143, R178): READY, RESP, BUSY, NOTE, SUP in bits 7 to 3, the frame-error code
below. -/
def State.statusByte (s : State) (p : Port) : Byte :=
  bitAt 7 s.ready ||| bitAt 6 (s.port p).exchange.isAnswered ||| bitAt 5 (s.port p).exchange.isHeld
    ||| bitAt 4 (s.note p) ||| bitAt 3 (s.supervisor = p) ||| (s.port p).frameError.code.setWidth 8

/-- Whether the IRQ line of port `p` is asserted, that is, driven low (R166). -/
def State.irqAsserted (s : State) (p : Port) : Bool :=
  s.ready && (((s.port p).noticeEnable && s.note p)
    || ((s.port p).responseEnable && (s.port p).exchange.isAnswered))

/-- Whether the data-out pin of port `p` is at high impedance: while chip select is high, and while RSTN is low (R142).
In the rest of a chip-select cycle that a reset cut short it counts as driven (log entry 15). -/
def State.sdoHighZ (s : State) (p : Port) : Bool := !(s.port p).csLow || s.rstnLow

/-- The standing of the crystal oscillator (R125). -/
inductive Oscillator where
  | stopped
  | starting
  | settled
  deriving DecidableEq, Repr

/-- The oscillator: stopped while RSTN is low, starting until it has settled (R125). -/
def State.oscillator (s : State) : Oscillator :=
  if s.ready then .settled else if s.rstnLow then .stopped else .starting

end Sys2Proof.Machine
end

