-- ==== Sys2Proof/Machine/Frames.lean ====
section
/-! DEFINITION. The management ports (08): the start of a frame, its end and judgement, FETCH, the retry store and
RESYNC; the rows CHIP_SELECT_FALL, NOP, COMMAND_FRAME, FETCH, RESYNC and UNKNOWN_FRAME_KIND. -/

namespace Sys2Proof.Machine

/-! ### The start of a frame -/

/-- The response a port would deliver (R150). -/
def Exchange.response : Exchange → Option Response
  | .answered r => some r
  | .empty => none
  | .held _ => none

/-- The bytes a FETCH shifts out after the status byte: the response frame, or the empty response (R150). -/
def responseFrame : Option Response → List Byte
  | some r => r.frame
  | none => emptyFrame

/-- What the falling edge of chip select fixes (R143, R150). -/
def State.frameAt (s : State) (p : Port) : Frame :=
  { status := s.statusByte p, delivers := (s.port p).exchange.response,
    out := responseFrame (s.port p).exchange.response }

/-- Chip select of port `p` falls; while RSTN is low no frame begins (R142). A chip select that is low already cannot
fall (log entry 2). -/
def State.chipSelectFall (p : Port) (s : State) : State :=
  if (s.port p).csLow then s
  else s.setPort p { s.port p with csLow := true, frame := if s.rstnLow then none else some (s.frameAt p) }

/-! ### Judgement -/

/-- Write the frame-error code of a port (R145). -/
def State.setFrameError (p : Port) (x : FrameError) (s : State) : State :=
  s.setPort p { s.port p with frameError := x }

/-- The saved response as a replay places it (R152). -/
def Saved.replay (x : Saved) : Response := { x.response with replayed := true }

/-- The command that a COMMAND frame holds: sequence and client from its second byte (R146, R178). -/
def heldFrom (sc code : Byte) (body : List Byte) (k : Byte) : HeldCommand :=
  { seq := sc.extractLsb' 4 4, bit3 := sc.getLsbD 3,
    client := ⟨sc.toNat % 8, Nat.mod_lt _ (by decide)⟩, code := code, body := body, crc := k }

/-- Steps 5 to 8 of R146 for a frame that is whole and whose CRC is right. The exchange standing is the one at the rise of
chip select, so a frame begun while the port was HELD is judged by what the port has become since (R149; the model's
choice, log entry 26). -/
def PortState.acceptCommand (c : HeldCommand) (x : PortState) : PortState :=
  match x.exchange with
  | .held _ => { x with frameError := .portBusy }
  | .answered _ => { x with frameError := .responseUnread }
  | .empty =>
    match x.retry with
    | some sv =>
      if sv.seq = c.seq then
        if sv.crc = c.crc then { x with frameError := .none, exchange := .answered sv.replay }
        else { x with frameError := .seqConflict }
      else { x with frameError := .none, exchange := .held c }
    | none => { x with frameError := .none, exchange := .held c }

/-- The judgement of a COMMAND frame of a READY part (R146, steps 2 to 8); `rest` is what follows the kind byte, and
bytes beyond the frame's format are discarded (R142). -/
def PortState.judgeCommand (rest : List Byte) (x : PortState) : PortState :=
  match rest with
  | sc :: code :: len :: tail =>
    if 60 < len.toNat then { x with frameError := .badKind }
    else
      match tail[len.toNat]? with
      | none => { x with frameError := .frameShort }
      | some k =>
        let body := tail.take len.toNat
        if k = crc8 (kindCommand :: sc :: code :: len :: body) then
          x.acceptCommand (heldFrom sc code body k)
        else { x with frameError := .crcError }
  | _ => { x with frameError := .frameShort }

/-- The retry store after a completed FETCH of `r` (R150). -/
def Response.saved (r : Response) : Saved := ⟨r.seq, r.crc, { r with replayed := false }⟩

/-- The end of a FETCH frame of a READY part: it completes when `n` bytes after the kind byte reached the CRC byte of
the response frame and the buffer still holds the response delivered (R150, R151; log entry 22). -/
def PortState.fetchEnd (f : Frame) (n : Nat) (x : PortState) : PortState :=
  match f.delivers, x.exchange with
  | some r, .answered r' =>
    if r = r' && decide (r.frame.length ≤ n) then
      { x with frameError := .none, exchange := .empty, retry := some r.saved }
    else { x with frameError := .none }
  | _, _ => { x with frameError := .none }

/-- Free a RETIRED slot (R2). -/
def State.freeRetired (i : SlotId) (s : State) : State :=
  match (s.slot i).standing with
  | .retired _ => s.setSlot i ⟨(s.slot i).gen + 1, .free⟩
  | .free => s
  | .live _ => s

/-- Whether slot `i` is RETIRED with home port `p`. -/
def State.isRetiredAt (p : Port) (i : SlotId) (s : State) : Bool := (s.slot i).standing = .retired p

/-- The port resync of port `p` (R155). -/
def State.portResync (p : Port) (s : State) : State :=
  let t := s.setPort p { s.port p with
    exchange := .empty, retry := none, frameError := .none, notices := Vector.replicate 24 none }
  let u := if t.supervisor = p then { t with deviceNotices := DeviceNotices.initial } else t
  forEach allSlots (fun i v => if v.isRetiredAt p i then v.freeRetired i else v) u

/-- The judgement of a RESYNC frame of a READY part (R155). -/
def State.judgeResync (p : Port) (rest : List Byte) (s : State) : State :=
  match rest with
  | [] => s.setFrameError p .frameShort
  | k :: _ => if k = resyncCheck then s.portResync p else s.setFrameError p .crcError

/-- The judgement of a frame by its kind byte (R145). -/
def State.judge (p : Port) (f : Frame) (kind : Byte) (rest : List Byte) (s : State) : State :=
  if kind = kindNop then s.setFrameError p .none
  else if !s.ready then s.setFrameError p .notReady
  else if kind = kindCommand then s.setPort p ((s.port p).judgeCommand rest)
  else if kind = kindFetch then s.setPort p ((s.port p).fetchEnd f rest.length)
  else if kind = kindResync then s.judgeResync p rest
  else s.setFrameError p .badKind

/-! ### The end of a frame -/

/-- The bytes the part shifts out in a frame: the status byte first, then in a FETCH the response frame and filler, in
every other frame filler (R142). -/
def Frame.shifted (f : Frame) (kind : Byte) (rest : List Byte) : List Byte :=
  f.status :: (if kind = kindFetch then
      (f.out ++ List.replicate rest.length filler).take rest.length
    else List.replicate rest.length filler)

/-- Chip select of port `p` rises after `x` was shifted in; the bits of an incomplete byte are discarded (R142). Without a
falling edge before it there is no rise (log entry 2); a cycle in which no frame was begun, or no whole byte exchanged, is
not judged (R142). -/
def State.endFrame (p : Port) (x : ShiftedIn) (s : State) : State :=
  if (s.port p).csLow then
    match (s.port p).frame, x.bytes with
    | some f, kind :: rest =>
      (s.setPort p { s.port p with csLow := false, frame := none, sdo := f.shifted kind rest }).judge p f
        kind rest
    | _, _ => s.setPort p { s.port p with csLow := false, frame := none, sdo := [] }
  else s

/-! ### The rows -/

/-- CHIP_SELECT_FALL (R142, R143, R150). -/
def execChipSelectFall (p : Port) (s : State) : Host.Outcome State Fault Refusal :=
  .next (event (State.chipSelectFall p) s)

/-- NOP (R145). -/
def execNop (p : Port) (rest : ShiftedIn) (s : State) : Host.Outcome State Fault Refusal :=
  .next (event (State.endFrame p ⟨kindNop :: rest.bytes, rest.bits⟩) s)

/-- COMMAND_FRAME (R146). -/
def execCommandFrame (p : Port) (rest : ShiftedIn) (s : State) : Host.Outcome State Fault Refusal :=
  .next (event (State.endFrame p ⟨kindCommand :: rest.bytes, rest.bits⟩) s)

/-- FETCH (R150). -/
def execFetch (p : Port) (rest : ShiftedIn) (s : State) : Host.Outcome State Fault Refusal :=
  .next (event (State.endFrame p ⟨kindFetch :: rest.bytes, rest.bits⟩) s)

/-- RESYNC (R155). -/
def execResync (p : Port) (rest : ShiftedIn) (s : State) : Host.Outcome State Fault Refusal :=
  .next (event (State.endFrame p ⟨kindResync :: rest.bytes, rest.bits⟩) s)

/-- UNKNOWN_FRAME_KIND (R145). -/
def execUnknownFrameKind (p : Port) (bytes : ShiftedIn) (s : State) : Host.Outcome State Fault Refusal :=
  .next (event (State.endFrame p bytes) s)

end Sys2Proof.Machine
end

