-- ==== Sys2Proof/Machine/Taking.lean ====
section
/-! DEFINITION. The taking of a held command (R147, R148): the intake arbiter, the client check, the access checks every
command shares (R17, R18), and the placing of the response. -/

namespace Sys2Proof.Machine

/-- A refusal of a command: its status and its response body, one position byte (R180). -/
structure Denial where
  status : Status
  body : List Byte
  deriving DecidableEq, Repr

/-- A refusal whose check carries no position. -/
def denied (st : Status) : Denial := ⟨st, [absentByte]⟩

/-- A refusal that carries a position. -/
def deniedAt (st : Status) (k : Nat) : Denial := ⟨st, [byte k]⟩

/-- The result of a command that is not refused: the state, the status and body of the response, and whether the
exchange is also written into the retry store (R148, R176). -/
structure Reply where
  state : State
  status : Status
  body : List Byte
  save : Bool
  deriving DecidableEq, Repr

/-- An OK reply. -/
def replyOk (s : State) (body : List Byte) : Reply := ⟨s, .ok, body, false⟩

/-- Pass a check, or refuse. -/
def ensure (b : Bool) (d : Denial) : Except Denial Unit := if b then .ok () else .error d

/-- The value of a reading, or refuse. -/
def need {α : Type} (o : Option α) (d : Denial) : Except Denial α :=
  match o with
  | some x => .ok x
  | none => .error d

/-- Check every element of a list; the first that fails gives its position, counted from `k` (R18). -/
def checkEach {α : Type} (ok : α → Bool) (st : Status) : Nat → List α → Except Denial Unit
  | _, [] => .ok ()
  | k, x :: xs => if ok x then checkEach ok st (k + 1) xs else .error (deniedAt st k)

/-- An answer of the engine pool controller as the command's status (R29). -/
def granted (r : Except Status EngineId) : Except Denial EngineId :=
  match r with
  | .ok e => .ok e
  | .error st => .error (denied st)

/-! ### The arbiter and the client check -/

/-- The port whose command is taken next (R147); none while the part is NOT_READY (R125). -/
def State.arbitrate (s : State) : Option Port :=
  if !s.ready then none
  else
    match s.portA.exchange.isHeld, s.portB.exchange.isHeld with
    | true, true => some s.lastServed.other
    | true, false => some .A
    | false, true => some .B
    | false, false => none

/-- The command that is taken next, with its port (R147). -/
def State.nextTaken (s : State) : Option (Port × HeldCommand) :=
  match s.arbitrate with
  | none => none
  | some p =>
    match (s.port p).exchange with
    | .held c => some (p, c)
    | .empty => none
    | .answered _ => none

/-- Whether port `p` accepts a client (R17). -/
def State.accepts (s : State) (p : Port) (c : ClientId) : Bool :=
  if c = 0 then s.supervisor = p else (s.port p).mask.getLsbD c.1

/-- The state once a command has left port `p`'s slot: the port is the last one served (R147, R148). -/
def State.afterTaking (p : Port) (s : State) : State :=
  { s.setPort p { s.port p with exchange := .empty } with lastServed := p }

/-- The response to a command (R148). -/
def responseTo (c : HeldCommand) (st : Status) (body : List Byte) : Response :=
  ⟨c.seq, c.crc, st, false, body⟩

/-- Place the response in the buffer of port `p`, and with `save` its exchange in the retry store (R148, R176). -/
def State.place (p : Port) (r : Response) (save : Bool) (s : State) : State :=
  s.setPort p { s.port p with
    exchange := .answered r, retry := if save then some r.saved else (s.port p).retry }

/-- The response of a taken command: the client check first (R17), then the command's own checks and changes. A refusal
changes nothing (00_scope 6.5). -/
def State.respond (p : Port) (c : HeldCommand)
    (run : Port → HeldCommand → State → Except Denial Reply) (s : State) : State :=
  if s.accepts p c.client then
    match run p c s with
    | .ok r => r.state.place p (responseTo c r.status r.body) r.save
    | .error d => s.place p (responseTo c d.status d.body) false
  else
    s.place p (responseTo c .clientDenied [absentByte]) false

/-- The taking of the next command, if it is one that the row names; if the next command is another or there is none,
the row's event does not occur (log entry 1). -/
def State.take (mine : HeldCommand → Bool)
    (run : Port → HeldCommand → State → Except Denial Reply) (s : State) : State :=
  match s.nextTaken with
  | none => s
  | some (p, c) => if mine c then (s.afterTaking p).respond p c run else s

/-- The taking of a command by its code, as one event. -/
def takeCode (code : Byte) (run : Port → HeldCommand → State → Except Denial Reply) (s : State) : State :=
  event (State.take (fun c => c.code = code) run) s

/-! ### The access checks (R18) -/

/-- The supervisor right (R18, step 1). -/
def supervisorOnly (c : HeldCommand) : Except Denial Unit :=
  ensure (c.client = 0) (denied .supervisorOnly)

/-- The body check (R18, step 2). -/
def bodyOf {α : Type} (read : List Byte → Option α) (c : HeldCommand) : Except Denial α :=
  need (read c.body) (denied .badArgument)

/-- The live lease that a handle reaches (R5). -/
def State.reach (s : State) (h : Handle) : Option (SlotId × Lease) :=
  match readFin 24 h.slot with
  | none => none
  | some i => if (s.slot i).gen = h.gen then (s.lease? i).map fun l => (i, l) else none

/-- Whether a client may act on a lease: its owner, or client 0 (R18, R19). -/
def Lease.ownedBy (l : Lease) (c : ClientId) : Bool := c = 0 || l.owner = c

/-- The handle and ownership checks of a command that names one handle (R18, steps 3 and 4). -/
def State.owned (s : State) (c : HeldCommand) (h : Handle) : Except Denial (SlotId × Lease) := do
  let x ← need (s.reach h) (deniedAt .noSuchLease 0)
  ensure (x.2.ownedBy c.client) (deniedAt .notOwner 0)
  return x

/-- The reported state of slot `i`: the lease's, or CLOSED (11.2). -/
def State.stateCode (s : State) (i : SlotId) : Byte :=
  match s.lease? i with
  | some l => l.state.code
  | none => closedCode

end Sys2Proof.Machine
end

