-- ==== Sys2Proof/Machine/LeaseCommands.lean ====
section
/-! DEFINITION. The lease commands: OPEN and START (02), RETUNE (05), RELEASE, REVOKE and RETRY (06). Each is run
after the client check, by the checks of its rule in their order. -/

namespace Sys2Proof.Machine

/-! ### What the checks read -/

/-- Whether a live lease of client `c` carries the tag (R7); an OPEN without a tag repeats none. -/
def State.tagInUse (s : State) (c : ClientId) (tag : Option Nat) : Bool :=
  tag.isSome && allSlots.any fun i => (s.lease? i).any fun l => l.owner = c && l.tag = tag

/-- The number of live leases of client `c` (R16). -/
def State.liveCount (s : State) (c : ClientId) : Nat :=
  allSlots.countP fun i => (s.lease? i).any fun l => l.owner = c

/-- The lowest-numbered FREE slot (R30). -/
def State.lowestFree (s : State) : Option SlotId :=
  allSlots.find? fun i => (s.slot i).standing = .free

/-- The range checks of a plan and an output list (R27): the eligible classes, or PLAN_RANGE, or OUTPUT_RANGE with the
first entry over range. -/
def rangeChecks (nominal : Nat) (cls : LeaseClass) (plan : Plan) (es : List Entry) :
    Except Denial (List EngineClass) := do
  let cs := eligible nominal cls plan
  ensure (!cs.isEmpty) (denied .planRange)
  checkEach (fun x => plan.outputInRange nominal x.divider) .outputRange 0 es
  return cs

/-- The first position at which a carried list and the lease's list name different outputs, or one of them has ended
(R90 step 6, R121 step 6). -/
def mismatch : Nat → List Entry → List Entry → Option Nat
  | _, [], [] => none
  | k, x :: xs, y :: ys => if x.output = y.output then mismatch (k + 1) xs ys else some k
  | k, _ :: _, [] => some k
  | k, [], _ :: _ => some k

/-- Refuse a list that does not name the lease's outputs in their order (R90, R121). -/
def sameOutputs (carried own : List Entry) : Except Denial Unit :=
  match mismatch 0 carried own with
  | none => .ok ()
  | some k => .error (deniedAt .badArgument k)

/-- The engine that serves slot `i`, as a response carries it. -/
def State.engineByteOf (s : State) (i : SlotId) : Byte := engineByte ((s.lease? i).bind Lease.engine)

/-! ### OPEN -/

/-- The lease record of an accepted OPEN (R30), before its state is chosen. -/
def OpenArgs.lease (a : OpenArgs) (owner : ClientId) (home : Port) (e : EngineId) : Lease :=
  { owner := owner, home := home, tag := a.tag, state := .pending, plan := a.plan.reduce, cls := a.cls,
    flags := a.flags, pin := a.pin, engine := some e, entries := a.entries, armed := false,
    migration := none, closingTarget := none, reason := .opened }

/-- The allocation request of an OPEN (R29). -/
def OpenArgs.request (a : OpenArgs) (classes : List EngineClass) : AllocRequest :=
  ⟨a.plan.reduce, classes, a.flags.exclusive, a.pin, none⟩

/-- The acceptance of an OPEN on engine `e` in slot `i` (R30, R31). -/
def State.openAccepted (s : State) (p : Port) (c : ClientId) (a : OpenArgs)
    (classes : List EngineClass) (i : SlotId) (e : EngineId) : State :=
  (((s.commit (a.request classes) e).setLease i (a.lease c p e)).setHolders (some i) a.entries).enter i

/-- OPEN: the checks of R25 in their order, then the acceptance of R30. -/
def runOpen (p : Port) (c : HeldCommand) (s : State) : Except Denial Reply := do
  let a ← bodyOf readOpen c
  ensure (!s.tagInUse c.client a.tag) (denied .tagInUse)
  ensure (decide (s.liveCount c.client < s.quota c.client)) (denied .quota)
  let i ← need s.lowestFree (denied .tableFull)
  let cs ← rangeChecks s.params.nominal a.cls a.plan.reduce a.entries
  checkEach (fun x => (s.output x.output).holder.isNone) .outputHeld 0 a.entries
  let e ← granted (s.ask (a.request cs))
  let t := s.openAccepted p c.client a cs i e
  return replyOk t (t.handleBytes i ++ [t.stateCode i, t.engineByteOf i])

/-- OPEN. -/
def execOpenLease (s : State) : Host.Outcome State Fault Refusal := .next (takeCode codeOpen runOpen s)

/-! ### START -/

/-- Resolve every handle of a list, in its order, counting positions from `k` (R33, step 2). -/
def State.resolve (s : State) : Nat → List Handle → Except Denial (List (SlotId × Lease))
  | _, [] => .ok []
  | k, h :: hs => do
    let x ← need (s.reach h) (deniedAt .noSuchLease k)
    let xs ← s.resolve (k + 1) hs
    return x :: xs

/-- Whether START may act on a lease (R33, step 4). -/
def Lease.startable (l : Lease) : Bool :=
  l.flags.heldStart && (l.state = .ready || (l.state = .pending && !l.armed))

/-- START acts on the lease of slot `i` (R34); `told` as in the notices. -/
def State.startOne (p : Port) (i : SlotId) (s : State) : State :=
  match s.lease? i with
  | none => s
  | some l =>
    if l.state = .ready then
      match l.engine with
      | some e =>
        ((s.setLease i { l with state := .starting }).giveEach (wantClock e) l.entries).tell (p = l.home) i
      | none => s
    else s.setLease i { l with armed := true }

/-- START: the checks of R33, then every lease of the list in its order (R34). -/
def runStart (p : Port) (c : HeldCommand) (s : State) : Except Denial Reply := do
  let hs ← bodyOf readStart c
  let xs ← s.resolve 0 hs
  checkEach (fun x => x.2.ownedBy c.client) .notOwner 0 xs
  checkEach (fun x => x.2.startable) .wrongState 0 xs
  let t := forEach (xs.map Prod.fst) (State.startOne p) s
  return replyOk t (xs.map fun x => t.stateCode x.1)

/-- START. -/
def execStart (s : State) : Host.Outcome State Fault Refusal := .next (takeCode codeStart runStart s)

/-! ### RETUNE -/

/-- A RETUNE as it is compared with its lease: the reduced plan, the class carried and the class in force, the pin in
force, the divider list, the eligible classes (R89, R91). -/
structure RetuneRequest where
  plan : Plan
  carried : Option LeaseClass
  cls : LeaseClass
  pin : Option EngineId
  entries : List Entry
  classes : List EngineClass
  deriving DecidableEq, Repr

/-- The states in which a lease accepts RETUNE (R90, step 5). -/
def LeaseState.retunable : LeaseState → Bool
  | .pending => true
  | .ready => true
  | .active => true
  | .disturbed => true
  | .starting => false
  | .migrating => false
  | .closing => false
  | .failed => false

/-- Whether the lease's present engine still serves the request (R91). -/
def Lease.servedUnder (l : Lease) (r : RetuneRequest) : Bool :=
  match l.engine with
  | some e => r.plan = l.plan && r.classes.contains (classOf e) && (r.pin = none || r.pin = some e)
  | none => false

/-- Whether a request that the present engine serves changes nothing (R91). -/
def Lease.unchangedBy (l : Lease) (r : RetuneRequest) : Bool :=
  r.entries = l.entries && r.cls = l.cls && r.pin = l.pin

/-- The lease rewritten from the request, its plan and engine kept (R92). -/
def Lease.rewritten (l : Lease) (r : RetuneRequest) : Lease :=
  { l with cls := r.cls, pin := r.pin, entries := r.entries, armed := false, reason := .migrated }

/-- The allocation request of a RETUNE: it excludes the present engine (R93, R98). -/
def RetuneRequest.alloc (r : RetuneRequest) (l : Lease) : AllocRequest :=
  ⟨r.plan, r.classes, l.flags.exclusive, r.pin, l.engine⟩

/-- The migration record that a request begins (R96, R98, R104). -/
def RetuneRequest.migration (r : RetuneRequest) (mode : MigrationMode) (target : Option EngineId) : Migration :=
  ⟨mode, target, r.plan, r.carried, r.pin, r.entries⟩

/-- The engine that a RETUNE response carries: the target of an OVERLAP migration, the lease's engine otherwise
(R89). -/
def Lease.reportedEngine (l : Lease) : Option EngineId :=
  match l.migrationTarget with
  | some t => some t
  | none => l.engine

/-- The reply of a RETUNE that is not refused: state, migration mode, engine (R89, R182). -/
def retuneReply (st : Status) (i : SlotId) (s : State) : Reply :=
  match s.lease? i with
  | some l => ⟨s, st, [l.state.code, l.modeByte, engineByte l.reportedEngine], false⟩
  | none => ⟨s, st, [closedCode, 0#8, absentByte], false⟩

/-- Write a migration record and enter MIGRATING (R96, R98, R104). -/
def State.beginMigration (i : SlotId) (l : Lease) (m : Migration) (s : State) : State :=
  s.setLease i { l with state := .migrating, migration := some m }

/-- A rewrite in place (R92). -/
def State.retuneInPlace (told : Bool) (i : SlotId) (l : Lease) (r : RetuneRequest) (s : State) : State :=
  (s.setLease i (l.rewritten r)).tell told i

/-- A rebind to engine `e` (R93). -/
def State.rebind (told : Bool) (i : SlotId) (l : Lease) (r : RetuneRequest) (e : EngineId) (s : State) :
    State :=
  ((((s.commit (r.alloc l) e).dropUser l.engine).setLease i
    { l.rewritten r with plan := r.plan, engine := some e }).enter i).tell told i

/-- A LOCAL migration on engine `e` (R96). -/
def State.retuneLocal (told : Bool) (i : SlotId) (l : Lease) (r : RetuneRequest) (e : EngineId)
    (s : State) : State :=
  (((s.beginMigration i l (r.migration .loc none)).giveEach (wantNewDivider e l.entries) r.entries).tell
    told i).settle told i

/-- An OVERLAP migration to engine `t` (R98). -/
def State.retuneOverlap (told : Bool) (i : SlotId) (l : Lease) (r : RetuneRequest) (t : EngineId)
    (s : State) : State :=
  let u := (s.commit (r.alloc l) t).beginMigration i l (r.migration .overlap (some t))
  ((if u.isLocked t then u.giveEach (wantClock t) r.entries else u).tell told i).settle told i

/-- Mark engine `e` reprogram reserved (R64). -/
def State.reserve (e : EngineId) (s : State) : State :=
  s.setEngine e { s.engine e with reserved := true }

/-- A GAP migration on engine `e` (R104). -/
def State.retuneGap (told : Bool) (i : SlotId) (l : Lease) (r : RetuneRequest) (e : EngineId) (s : State) :
    State :=
  ((((s.reserve e).beginMigration i l (r.migration .gap none)).giveEach wantQuiet l.entries).tell
    told i).settle told i

/-- The GAP test on engine `e` (R104). -/
def State.gapAllowed (l : Lease) (r : RetuneRequest) (e : EngineId) (s : State) : Bool :=
  l.flags.allowGap && decide ((s.engine e).users = 1) && r.classes.contains (classOf e)
    && (r.pin = none || r.pin = some e)

/-- The GAP test and its outcome; `st` is the status of a refusal (R104). -/
def State.gapOrRefuse (told : Bool) (i : SlotId) (l : Lease) (r : RetuneRequest) (e : EngineId)
    (st : Status) (s : State) : Except Denial Reply := do
  ensure (s.gapAllowed l r e) (denied st)
  return retuneReply .okGap i (s.retuneGap told i l r e)

/-- A RETUNE of a running lease off its engine `e`: OVERLAP, or the GAP test where the pin names `e` or no engine is
found (R98). -/
def State.moveOff (told : Bool) (i : SlotId) (l : Lease) (r : RetuneRequest) (e : EngineId) (s : State) :
    Except Denial Reply :=
  if r.pin = some e then s.gapOrRefuse told i l r e .engineBusy
  else
    match s.ask (r.alloc l) with
    | .ok t => .ok (retuneReply .ok i (s.retuneOverlap told i l r t))
    | .error .noEngine => s.gapOrRefuse told i l r e .noEngine
    | .error st => .error (denied st)

/-- The case of a RETUNE that passed its checks up to step 8 (R91). -/
def State.retuneCase (told : Bool) (i : SlotId) (l : Lease) (r : RetuneRequest) (s : State) :
    Except Denial Reply :=
  if l.servedUnder r && l.unchangedBy r then .ok (retuneReply .samePlan i s)
  else if l.state = .pending || l.state = .ready then
    if l.servedUnder r then .ok (retuneReply .ok i (s.retuneInPlace told i l r))
    else do
      let e ← granted (s.ask (r.alloc l))
      return retuneReply .ok i (s.rebind told i l r e)
  else
    match l.engine with
    | none => .error (denied .wrongState)
    | some e =>
      if l.servedUnder r then .ok (retuneReply .ok i (s.retuneLocal told i l r e))
      else s.moveOff told i l r e

/-- RETUNE: the checks of R90 in their order, then its case (R91). -/
def runRetune (p : Port) (c : HeldCommand) (s : State) : Except Denial Reply := do
  let a ← bodyOf readRetune c
  let (i, l) ← s.owned c a.handle
  ensure l.state.retunable (denied .wrongState)
  sameOutputs a.entries l.entries
  let cls := a.cls.getD l.cls
  let cs ← rangeChecks s.params.nominal cls a.plan.reduce a.entries
  s.retuneCase (p = l.home) i l ⟨a.plan.reduce, a.cls, cls, a.pin, a.entries, cs⟩

/-- RETUNE. -/
def execRetune (s : State) : Host.Outcome State Fault Refusal := .next (takeCode codeRetune runRetune s)

/-! ### RELEASE and REVOKE -/

/-- The slot standing in a RELEASE or REVOKE response (R182). -/
def Standing.code : Standing → Byte
  | .live _ => 0x00#8
  | .free => 0x01#8
  | .retired _ => 0x02#8

/-- The reply of a RELEASE or REVOKE: the handle, the state, the slot's standing (R110, R182). -/
def endReply (h : Handle) (i : SlotId) (s : State) : Reply :=
  replyOk s [h.slot, h.gen, s.stateCode i, (s.slot i).standing.code]

/-- RELEASE: the checks of R110, then R111. -/
def runRelease (p : Port) (c : HeldCommand) (s : State) : Except Denial Reply := do
  let h ← bodyOf readHandle c
  let (i, l) ← s.owned c h
  ensure (decide (l.state ≠ .closing)) (denied .wrongState)
  return endReply h i (s.endLease (p = l.home) .released i l)

/-- RELEASE. -/
def execRelease (s : State) : Host.Outcome State Fault Refusal :=
  .next (takeCode codeRelease runRelease s)

/-- REVOKE: the checks of R110, then R111; the home port is never told in the response (R159). -/
def runRevoke (_p : Port) (c : HeldCommand) (s : State) : Except Denial Reply := do
  supervisorOnly c
  let h ← bodyOf readHandle c
  let (i, l) ← need (s.reach h) (deniedAt .noSuchLease 0)
  ensure (decide (l.state ≠ .closing)) (denied .wrongState)
  return endReply h i (s.endLease false .revoked i l)

/-- REVOKE. -/
def execRevoke (s : State) : Host.Outcome State Fault Refusal := .next (takeCode codeRevoke runRevoke s)

/-! ### RETRY -/

/-- The lease of an accepted RETRY, before its state is chosen (R122). -/
def Lease.retriedOn (l : Lease) (plan : Plan) (cls : LeaseClass) (pin : Option EngineId)
    (es : List Entry) (e : EngineId) : Lease :=
  { l with
    plan := plan, cls := cls, pin := pin, entries := es, engine := some e, armed := false,
    reason := .retried }

/-- RETRY: the checks of R121 in their order, then the acceptance of R122. -/
def runRetry (p : Port) (c : HeldCommand) (s : State) : Except Denial Reply := do
  let a ← bodyOf readRetry c
  let (i, l) ← s.owned c a.handle
  ensure (decide (l.state = .failed)) (denied .wrongState)
  let es := a.entries.getD l.entries
  sameOutputs es l.entries
  let plan := (a.plan.map Plan.reduce).getD l.plan
  let cls := a.cls.getD l.cls
  let cs ← rangeChecks s.params.nominal cls plan es
  let r : AllocRequest := ⟨plan, cs, l.flags.exclusive, a.pin, none⟩
  let e ← granted (s.ask r)
  let t := (((s.commit r e).setLease i (l.retriedOn plan cls a.pin es e)).enter i).tell (p = l.home) i
  return replyOk t [t.stateCode i, t.engineByteOf i]

/-- RETRY. -/
def execRetry (s : State) : Host.Outcome State Fault Refusal := .next (takeCode codeRetry runRetry s)

end Sys2Proof.Machine
end

