-- ==== Sys2Proof/Machine/LookupCommands.lean ====
section
/-! DEFINITION. The commands that read: QUERY_LEASE, LOOKUP_TAG, LIST_CLIENT (01), FIND_OUTPUT (04), QUERY_ENGINE (03),
QUERY_REFERENCE (07), READ_CONFIG (10). -/

namespace Sys2Proof.Machine

/-- The report of QUERY_LEASE on a handle: the lease's record, CLOSED for a RETIRED slot, none where the handle reaches
nothing (R20). -/
def State.leaseReport (s : State) (h : Handle) : Option (List Byte) :=
  match readFin 24 h.slot with
  | none => none
  | some i =>
    if (s.slot i).gen = h.gen then
      match (s.slot i).standing with
      | .live l => some (s.leaseBytes i l)
      | .retired home => some (s.retiredBytes i home)
      | .free => none
    else none

/-- QUERY_LEASE (R20). -/
def runQueryLease (_p : Port) (c : HeldCommand) (s : State) : Except Denial Reply := do
  let h ← bodyOf readHandle c
  let bs ← need (s.leaseReport h) (deniedAt .noSuchLease 0)
  return replyOk s bs

/-- QUERY_LEASE. -/
def execQueryLease (s : State) : Host.Outcome State Fault Refusal :=
  .next (takeCode codeQueryLease runQueryLease s)

/-- The live lease of client `c` that carries tag `t` (R21). -/
def State.taggedSlot (s : State) (c : ClientId) (t : Nat) : Option SlotId :=
  allSlots.find? fun i => (s.lease? i).any fun l => l.owner = c && l.tag = some t

/-- LOOKUP_TAG (R21). -/
def runLookupTag (_p : Port) (c : HeldCommand) (s : State) : Except Denial Reply := do
  let a ← bodyOf readLookupTag c
  match s.taggedSlot a.1 a.2 with
  | some i => return replyOk s (s.handleBytes i)
  | none => return ⟨s, .notFound, [], false⟩

/-- LOOKUP_TAG. -/
def execLookupTag (s : State) : Host.Outcome State Fault Refusal :=
  .next (takeCode codeLookupTag runLookupTag s)

/-- The slots of the live leases of client `c`, ascending (R22). -/
def State.slotsOf (s : State) (c : ClientId) : List SlotId :=
  allSlots.filter fun i => (s.lease? i).any fun l => l.owner = c

/-- LIST_CLIENT (R22). -/
def runListClient (_p : Port) (c : HeldCommand) (s : State) : Except Denial Reply := do
  let x ← bodyOf (readOne 8) c
  ensure (decide (c.client = x ∨ c.client = 0)) (denied .notOwner)
  let l := s.slotsOf x
  return replyOk s (byte l.length :: l.flatMap s.handleBytes)

/-- LIST_CLIENT. -/
def execListClient (s : State) : Host.Outcome State Fault Refusal :=
  .next (takeCode codeListClient runListClient s)

/-- The state after a FIND_OUTPUT: an absent holder draws one free value (log entry 8). -/
def State.afterFind (s : State) (o : OutputId) : State :=
  if (s.output o).holder.isNone then s.drawFree else s

/-- FIND_OUTPUT (R88). -/
def runFindOutput (_p : Port) (c : HeldCommand) (s : State) : Except Denial Reply := do
  let o ← bodyOf (readOne 16) c
  return replyOk (s.afterFind o) (s.outputBytes o)

/-- FIND_OUTPUT. -/
def execFindOutput (s : State) : Host.Outcome State Fault Refusal :=
  .next (takeCode codeFindOutput runFindOutput s)

/-- QUERY_ENGINE (R69). -/
def runQueryEngine (_p : Port) (c : HeldCommand) (s : State) : Except Denial Reply := do
  let e ← bodyOf (readOne 6) c
  return replyOk s (s.engineBytes e)

/-- QUERY_ENGINE. -/
def execQueryEngine (s : State) : Host.Outcome State Fault Refusal :=
  .next (takeCode codeQueryEngine runQueryEngine s)

/-- QUERY_REFERENCE (R137). -/
def runQueryReference (_p : Port) (c : HeldCommand) (s : State) : Except Denial Reply := do
  bodyOf readNothing c
  return replyOk s s.referenceBytes

/-- QUERY_REFERENCE. -/
def execQueryReference (s : State) : Host.Outcome State Fault Refusal :=
  .next (takeCode codeQueryReference runQueryReference s)

/-- READ_CONFIG (R170). -/
def runReadConfig (_p : Port) (c : HeldCommand) (s : State) : Except Denial Reply := do
  bodyOf readNothing c
  return replyOk s s.params.bytes

/-- READ_CONFIG. -/
def execReadConfig (s : State) : Host.Outcome State Fault Refusal :=
  .next (takeCode codeReadConfig runReadConfig s)

end Sys2Proof.Machine
end

