-- ==== Sys2Proof/Machine/Resets.lean ====
section
/-! DEFINITION. The resets: power-on and pin reset with the rows POWER_ON_RESET, PIN_RESET_ASSERT, PIN_RESET_RELEASE and
OSCILLATOR_STABLE (07 R125, R141, 08 R157), and the lease and device resets (10 R174, R175). -/

namespace Sys2Proof.Machine

/-- The port that a level of SUPSEL names (R154). -/
def strapPort : Level → Port
  | .low => .A
  | .high => .B

/-- A port after a power-on or pin reset: every field at its reset value, the level of its chip select kept, the frame in
progress dropped (R157, R167; log entry 15). -/
def PortState.cold (x : PortState) : PortState := { PortState.initial with csLow := x.csLow }

/-- The whole part at its power-on values, the levels of its pins, the SUPSEL port and the role kept (R4, R72, R86, R141,
R157, R167, R177). -/
def State.coldReset (s : State) : State :=
  { State.reset with
    rstnLow := s.rstnLow, supselPort := s.supselPort, supervisor := s.supervisor,
    portA := s.portA.cold, portB := s.portB.cold, touched := s.touched, freeCount := s.freeCount,
    pending := s.pending }

/-- Latch SUPSEL and give its port the supervisor role (R154). -/
def State.sampleSupsel (v : Level) (s : State) : State :=
  { s with supselPort := strapPort v, supervisor := strapPort v }

/-- POWER_ON_RESET: the power-on values, with SUPSEL sampled; the level of RSTN is an outside input (R125, R154; log
entry 20). -/
def execPowerOnReset (supsel : Level) (s : State) : Host.Outcome State Fault Refusal :=
  .next (event (fun t => t.coldReset.sampleSupsel supsel) s)

/-- RSTN falls: the part holds the pin-reset values from then on (R125); a low RSTN cannot fall (log entry 2). -/
def State.pinReset (s : State) : State :=
  if s.rstnLow then s else { s.coldReset with rstnLow := true }

/-- PIN_RESET_ASSERT (R125). -/
def execPinResetAssert (s : State) : Host.Outcome State Fault Refusal := .next (event State.pinReset s)

/-- RSTN rises: SUPSEL is sampled and the oscillator starts (R125, R154); a high RSTN cannot rise (log entry 2). -/
def State.pinRelease (v : Level) (s : State) : State :=
  if s.rstnLow then { s.sampleSupsel v with rstnLow := false } else s

/-- PIN_RESET_RELEASE (R125, R154). -/
def execPinResetRelease (supsel : Level) (s : State) : Host.Outcome State Fault Refusal :=
  .next (event (State.pinRelease supsel) s)

/-- The oscillator has settled: READY (R125). It settles once after a reset, and not while RSTN is low (log entry 2). -/
def State.oscillatorStable (s : State) : State :=
  if s.rstnLow then s else { s with ready := true }

/-- OSCILLATOR_STABLE (R125). -/
def execOscillatorStable (s : State) : Host.Outcome State Fault Refusal :=
  .next (event State.oscillatorStable s)

/-! ### The resets of SOFT_RESET -/

/-- A port with its lease-notice set emptied (R167). -/
def PortState.emptied (x : PortState) : PortState := { x with notices := Vector.replicate 24 none }

/-- The lease reset (R174): outputs quiet without holders, engines OFF, every slot that is not FREE made FREE, both
lease-notice sets emptied. -/
def State.leaseReset (s : State) : State :=
  let t := forEach allSlots State.freeSlot s
  { t with
    outputs := Vector.replicate 16 OutputRec.initial, engines := Vector.replicate 6 EngineRec.initial,
    portA := t.portA.emptied, portB := t.portB.emptied }

/-- An exchange standing without an unfetched response: a held command stays held (R175, step 5). -/
def Exchange.dropResponse : Exchange → Exchange
  | .empty => .empty
  | .held c => .held c
  | .answered _ => .empty

/-- A port at a device reset: mask and enables at their defaults (R175, steps 1 and 6). -/
def PortState.defaults (x : PortState) : PortState :=
  { x with mask := 0xFE#8, noticeEnable := true, responseEnable := false }

/-- The port that did not issue a device reset loses its response and its retry store (R175, step 5). -/
def PortState.bystander (x : PortState) : PortState :=
  { x with exchange := x.exchange.dropResponse, retry := none }

/-- The device reset, commanded on port `p` (R175). -/
def State.deviceReset (p : Port) (s : State) : State :=
  let t := s.leaseReset
  let u : State :=
    { t with
      params := Params.initial, quotas := Vector.replicate 8 24,
      portA := t.portA.defaults, portB := t.portB.defaults,
      refA := InputRec.initial, refB := InputRec.initial, selection := none,
      deviceNotices := DeviceNotices.initial, supervisor := t.supselPort }
  u.setPort p.other (u.port p.other).bystander

end Sys2Proof.Machine
end

