-- ==== Sys2Proof/Machine/PortCommands.lean ====
section
/-! DEFINITION. The commands about ports, notices and configuration: NOTICES and SET_IRQ (09); CONFIGURE, SET_CLIENTS,
HANDOVER and SOFT_RESET (10); ENGINE_CLEAR (03); a command code that names no command (11). -/

namespace Sys2Proof.Machine

/-! ### NOTICES and SET_IRQ -/

/-- Whether the entry of slot `i` in port `p`'s set is closed (R158). -/
def State.noticeClosed (s : State) (p : Port) (i : SlotId) : Bool :=
  ((s.port p).notices[i]).any Notice.closed

/-- Clear what a NOTICES of port `p` reported: every slot whose entry is closed becomes FREE, the set is emptied, and
on the supervisor port the device-notice set too (R163). -/
def State.clearNotices (p : Port) (s : State) : State :=
  let t := forEach allSlots (fun i u => if s.noticeClosed p i then u.freeRetired i else u) s
  let u := t.setPort p (t.port p).emptied
  if s.supervisor = p then { u with deviceNotices := DeviceNotices.initial } else u

/-- NOTICES (R163). -/
def runNotices (p : Port) (c : HeldCommand) (s : State) : Except Denial Reply := do
  bodyOf readNothing c
  return replyOk (s.clearNotices p) (s.noticesBytes p)

/-- NOTICES. -/
def execNotices (s : State) : Host.Outcome State Fault Refusal := .next (takeCode codeNotices runNotices s)

/-- SET_IRQ (R165). -/
def runSetIrq (p : Port) (c : HeldCommand) (s : State) : Except Denial Reply := do
  let a ← bodyOf readSetIrq c
  return replyOk (s.setPort p { s.port p with noticeEnable := a.1, responseEnable := a.2 })
    [enablesByte a.1 a.2]

/-- SET_IRQ. -/
def execSetIrq (s : State) : Host.Outcome State Fault Refusal := .next (takeCode codeSetIrq runSetIrq s)

/-! ### CONFIGURE -/

/-- Write one parameter (R169). -/
def Params.write (x : Params) : ParamWrite → Params
  | .nominal v => { x with nominal := v }
  | .window v => { x with window := v }
  | .qualPeriod v => { x with qualPeriod := v }
  | .mode m => { x with mode := m }
  | .priority y => { x with priority := y }
  | .acqLimit v => { x with acqLimit := v }
  | .linger v => { x with linger := v }
  | .holdoverLimit v => { x with holdoverLimit := v }

/-- The refusal of a CONFIGURE whose first offending pair stands at `k`: it carries the positions 0 to 7 (R168, step
1; that the ninth pair's is not carried is the model's reading, log entry 10). -/
def deniedPair (k : Nat) : Denial := if k < 8 then deniedAt .badArgument k else denied .badArgument

/-- The pairs of a CONFIGURE body, or a refusal: with the position of the first offending pair, however long the list;
without one where no pair offends (R168, step 1; log entry 10). A list in which none offends has no more than eight
pairs, since it repeats none of the eight parameters. -/
def readConfigure (body : List Byte) : Except Denial (List (Byte × Nat)) := do
  let ps ← need (readPairs body) (denied .badArgument)
  match firstOffending ps with
  | some k => .error (deniedPair k)
  | none =>
    ensure (decide (1 ≤ ps.length ∧ ps.length ≤ 8)) (denied .badArgument)
    return ps

/-- The parameters that a list of pairs writes. -/
def paramWrites (ps : List (Byte × Nat)) : List ParamWrite := ps.filterMap fun x => readParam x.1 x.2

/-- Whether any engine is ACQUIRING, LOCKED, HOLDOVER or LINGERING (R139). -/
def State.poolInUse (s : State) : Bool := allEngines.any fun e => (s.engine e).state.inUse

/-- Whether a pair breaks the interlock of the nominal frequency (R168, step 2). -/
def State.lockedPair (s : State) (x : Byte × Nat) : Bool :=
  x.1 = 0x01#8 && decide (x.2 ≠ s.params.nominal) && s.poolInUse

/-- The holdover limit checked against every running holdover, in ascending order (R71; log entry 12). All the faults
stand in the one event of the CONFIGURE, so a lease that names two of the engines has one change counted in its notice
(R160; the model's choice, log entry 23). -/
def State.checkHoldovers (s : State) : State :=
  forEach allEngines (fun e t =>
    if (t.engine e).atHoldoverLimit t.params.holdoverLimit then t.declareFault e .holdoverLimit else t) s

/-- Whether a write sets a nonzero holdover limit (R169, step 3). -/
def ParamWrite.setsLimit : ParamWrite → Bool
  | .holdoverLimit v => v ≠ 0
  | .nominal _ => false
  | .window _ => false
  | .qualPeriod _ => false
  | .mode _ => false
  | .priority _ => false
  | .acqLimit _ => false
  | .linger _ => false

/-- An accepted CONFIGURE: the writes, then what they set in motion (R169). A nonzero holdover limit is compared at
every write of it, also of the value in force, so such a CONFIGURE faults an engine whose timer stands at that limit
and whose own row is still to come (the model's choice between step 3 and the last sentence of R169, log entry 28). -/
def State.configure (ws : List ParamWrite) (s : State) : State :=
  let t : State := { s with params := ws.foldl Params.write s.params }
  let u := if t.params.nominal = s.params.nominal then t else t.nominalChanged
  let v := if t.params.mode = s.params.mode && t.params.priority = s.params.priority then u
    else u.reevaluate
  if ws.any ParamWrite.setsLimit then v.checkHoldovers else v

/-- CONFIGURE: the supervisor right, the list judged whole, the interlock (R168), then R169. -/
def runConfigure (_p : Port) (c : HeldCommand) (s : State) : Except Denial Reply := do
  supervisorOnly c
  let ps ← readConfigure c.body
  checkEach (fun x => !s.lockedPair x) .configLocked 0 ps
  return replyOk (s.configure (paramWrites ps)) []

/-- CONFIGURE. -/
def execConfigure (s : State) : Host.Outcome State Fault Refusal :=
  .next (takeCode codeConfigure runConfigure s)

/-! ### SET_CLIENTS and HANDOVER -/

/-- Write a mask that is carried (R171). -/
def State.setMask (p : Port) (m : Option Byte) (s : State) : State :=
  match m with
  | some m => s.setPort p { s.port p with mask := m }
  | none => s

/-- Write one quota (R171). -/
def State.setQuota (x : ClientId × Nat) (s : State) : State :=
  { s with quotas := s.quotas.set x.1.1 x.2 x.1.2 }

/-- An accepted SET_CLIENTS (R171). -/
def State.setClients (a : ClientArgs) (s : State) : State :=
  forEach a.quotas State.setQuota ((s.setMask .A a.maskA).setMask .B a.maskB)

/-- The client table in a SET_CLIENTS response (R182). -/
def State.clientBytes (s : State) : List Byte :=
  [s.portA.mask, s.portB.mask] ++ (List.finRange 8).map fun c => byte (s.quota c)

/-- SET_CLIENTS (R171). -/
def runSetClients (_p : Port) (c : HeldCommand) (s : State) : Except Denial Reply := do
  supervisorOnly c
  let a ← bodyOf readSetClients c
  let t := s.setClients a
  return replyOk t t.clientBytes

/-- SET_CLIENTS. -/
def execSetClients (s : State) : Host.Outcome State Fault Refusal :=
  .next (takeCode codeSetClients runSetClients s)

/-- HANDOVER (R172): the device-notice set is the role's, so it moves with it. -/
def runHandover (p : Port) (c : HeldCommand) (s : State) : Except Denial Reply := do
  supervisorOnly c
  bodyOf readNothing c
  let t := ({ s with supervisor := p.other } : State).raiseSupervisorArrived
  return replyOk t [portByte p.other]

/-- HANDOVER. -/
def execHandover (s : State) : Host.Outcome State Fault Refusal :=
  .next (takeCode codeHandover runHandover s)

/-! ### SOFT_RESET -/

/-- Whether a command is a SOFT_RESET whose body is not the scope `other`: the row of one scope also takes a body that
names no scope, which either row refuses alike (R180, R181; log entry 11). -/
def isSoftReset (other : Byte) (c : HeldCommand) : Bool := c.code = codeSoftReset && decide (c.body ≠ [other])

/-- The reply of a performed SOFT_RESET: the scope and the supervisor port after it, saved in the retry store at once
(R176). -/
def resetReply (scope : Byte) (s : State) : Reply := ⟨s, .ok, [scope, portByte s.supervisor], true⟩

/-- SOFT_RESET (R174, R175). -/
def runSoftReset (p : Port) (c : HeldCommand) (s : State) : Except Denial Reply := do
  supervisorOnly c
  let device ← bodyOf readScope c
  return if device then resetReply scopeDevice (s.deviceReset p) else resetReply scopeLeases s.leaseReset

/-- SOFT_RESET with scope LEASES (R174). -/
def execSoftResetLeases (s : State) : Host.Outcome State Fault Refusal :=
  .next (event (State.take (isSoftReset scopeDevice) runSoftReset) s)

/-- SOFT_RESET with scope DEVICE (R175). -/
def execSoftResetDevice (s : State) : Host.Outcome State Fault Refusal :=
  .next (event (State.take (isSoftReset scopeLeases) runSoftReset) s)

/-! ### ENGINE_CLEAR and unknown codes -/

/-- The refusal of an ENGINE_CLEAR of an engine that is not FAULTED: it adds the engine's state (R68, R180). -/
def notFaulted (x : EngineRec) : Denial := ⟨.wrongState, [absentByte, x.state.code]⟩

/-- ENGINE_CLEAR (R68). -/
def runEngineClear (_p : Port) (c : HeldCommand) (s : State) : Except Denial Reply := do
  supervisorOnly c
  let e ← bodyOf (readOne 6) c
  ensure (decide ((s.engine e).state = .faulted)) (notFaulted (s.engine e))
  let t := s.setEngine e (s.engine e).turnOff
  return replyOk t [(t.engine e).state.code]

/-- ENGINE_CLEAR. -/
def execEngineClear (s : State) : Host.Outcome State Fault Refusal :=
  .next (takeCode codeEngineClear runEngineClear s)

/-- A command whose code names no command (R180). -/
def runUnknownCode (_p : Port) (_c : HeldCommand) (_s : State) : Except Denial Reply :=
  .error (denied .badCommand)

/-- UNKNOWN_COMMAND_CODE (R180). -/
def execUnknownCommandCode (s : State) : Host.Outcome State Fault Refusal :=
  .next (event (State.take (fun c => !knownCodes.contains c.code) runUnknownCode) s)

end Sys2Proof.Machine
end

