-- ==== Sys2Proof/Machine/Dispatch.lean ====
section
/-! DEFINITION. One arm for each command of the block: the command's meaning, called by its full name. -/

namespace Sys2Proof.Machine

/-- The effect of a command on everything but the queue. -/
def exec (i : Instr) (s : State) : Host.Outcome State Fault Refusal :=
  match i with
  | .powerOnReset supsel => Sys2Proof.Machine.execPowerOnReset supsel s
  | .pinResetAssert => Sys2Proof.Machine.execPinResetAssert s
  | .pinResetRelease supsel => Sys2Proof.Machine.execPinResetRelease supsel s
  | .oscillatorStable => Sys2Proof.Machine.execOscillatorStable s
  | .nop p rest => Sys2Proof.Machine.execNop p rest s
  | .commandFrame p rest => Sys2Proof.Machine.execCommandFrame p rest s
  | .fetch p rest => Sys2Proof.Machine.execFetch p rest s
  | .resync p rest => Sys2Proof.Machine.execResync p rest s
  | .openLease => Sys2Proof.Machine.execOpenLease s
  | .start => Sys2Proof.Machine.execStart s
  | .retune => Sys2Proof.Machine.execRetune s
  | .release => Sys2Proof.Machine.execRelease s
  | .revoke => Sys2Proof.Machine.execRevoke s
  | .retry => Sys2Proof.Machine.execRetry s
  | .queryLease => Sys2Proof.Machine.execQueryLease s
  | .lookupTag => Sys2Proof.Machine.execLookupTag s
  | .listClient => Sys2Proof.Machine.execListClient s
  | .findOutput => Sys2Proof.Machine.execFindOutput s
  | .queryEngine => Sys2Proof.Machine.execQueryEngine s
  | .queryReference => Sys2Proof.Machine.execQueryReference s
  | .notices => Sys2Proof.Machine.execNotices s
  | .setIrq => Sys2Proof.Machine.execSetIrq s
  | .readConfig => Sys2Proof.Machine.execReadConfig s
  | .configure => Sys2Proof.Machine.execConfigure s
  | .setClients => Sys2Proof.Machine.execSetClients s
  | .handover => Sys2Proof.Machine.execHandover s
  | .softResetLeases => Sys2Proof.Machine.execSoftResetLeases s
  | .softResetDevice => Sys2Proof.Machine.execSoftResetDevice s
  | .engineClear => Sys2Proof.Machine.execEngineClear s
  | .unknownCommandCode => Sys2Proof.Machine.execUnknownCommandCode s
  | .lockAchieved e => Sys2Proof.Machine.execLockAchieved e s
  | .lockLost e => Sys2Proof.Machine.execLockLost e s
  | .acquisitionTimerExpiry e => Sys2Proof.Machine.execAcquisitionTimerExpiry e s
  | .holdoverTimerLimit e => Sys2Proof.Machine.execHoldoverTimerLimit e s
  | .lingerTimerExpiry e => Sys2Proof.Machine.execLingerTimerExpiry e s
  | .changeoverDone o => Sys2Proof.Machine.execChangeoverDone o s
  | .activityStart r => Sys2Proof.Machine.execActivityStart r s
  | .activityLoss r => Sys2Proof.Machine.execActivityLoss r s
  | .measurement r edges => Sys2Proof.Machine.execMeasurement r edges s
  | .qualificationTimerExpiry r => Sys2Proof.Machine.execQualificationTimerExpiry r s
  | .chipSelectFall p => Sys2Proof.Machine.execChipSelectFall p s
  | .unknownFrameKind p bytes => Sys2Proof.Machine.execUnknownFrameKind p bytes s

end Sys2Proof.Machine
end

