-- ==== Sys2Proof/Machine/Tick.lean ====
section
/-! DEFINITION. A tick of 1 ms, which an empty queue lets pass (DESIGN CHOICE, log entry 3). A timer that has run as
long as its limit waits there for its own event of the table (log entry 4). -/

namespace Sys2Proof.Machine

/-- One ms of a timer that stands at its limit once it has reached it. -/
def countTo (limit elapsed : Nat) : Nat := if elapsed < limit then elapsed + 1 else elapsed

/-- One ms of the acquisition timer (R46, R48). -/
def AcquisitionTimer.tick (t : AcquisitionTimer) : AcquisitionTimer :=
  match t.standing with
  | .running => { t with elapsed := countTo t.limit t.elapsed }
  | .waiting => t
  | .stopped => t

/-- One ms of the holdover timer: whole seconds, up to 65535 (R51), and no further than a nonzero limit in force. -/
def HoldoverTimer.tick (limit : Nat) (t : HoldoverTimer) : HoldoverTimer :=
  let top := if limit = 0 then 65535 else min limit 65535
  if t.running && decide (t.elapsed < top) then
    if t.ms < 999 then { t with ms := t.ms + 1 } else { t with elapsed := t.elapsed + 1, ms := 0 }
  else t

/-- One ms of the linger timer (R53). -/
def LingerTimer.tick (t : LingerTimer) : LingerTimer :=
  if t.running then { t with elapsed := countTo t.time t.elapsed } else t

/-- One ms of an engine's timers. -/
def EngineRec.tick (holdoverLimit : Nat) (x : EngineRec) : EngineRec :=
  { x with
    acquisition := x.acquisition.tick, holdover := x.holdover.tick holdoverLimit,
    linger := x.linger.tick }

/-- One ms of the qualification timer: whole intervals of 100 ms (R129). -/
def QualificationTimer.tick (t : QualificationTimer) : QualificationTimer :=
  if t.running && decide (t.elapsed < t.period) then
    if t.ms < 99 then { t with ms := t.ms + 1 } else { t with elapsed := t.elapsed + 1, ms := 0 }
  else t

/-- One ms of the measurement interval (R128). -/
def MeasurementInterval.tick (t : MeasurementInterval) : MeasurementInterval :=
  if t.running then { t with elapsed := countTo 100 t.elapsed } else t

/-- One ms of an input's timers. -/
def InputRec.tick (x : InputRec) : InputRec :=
  { x with qualification := x.qualification.tick, interval := x.interval.tick }

/-- A tick of 1 ms: every timer of the part is timed by the local oscillator, so none runs while the part is
NOT_READY (R125). -/
def State.tick (s : State) : State :=
  if s.ready then
    let t := forEach allEngines (fun e u =>
      u.setEngine e ((u.engine e).tick s.params.holdoverLimit)) s
    { t with refA := t.refA.tick, refB := t.refB.tick }
  else s

end Sys2Proof.Machine
end

