-- ==== Sys2Proof/Machine/Waveform.lean ====
section
/-! DEFINITION. The pins of the outputs (R73, R80 to R82): what a record shows at each moment, given the VCO clocks of the
engines. State holds the records and not the edges, so the clocks and the moment at which a changeover began are
arguments (log entry 19). Times are whole numbers of any one unit. -/

namespace Sys2Proof.Machine

/-- A clock that runs at a pin: the length of its high or low phase, and a moment at which it falls. The length is one
for the whole of a changeover, also of a clock whose engine is ACQUIRING or in HOLDOVER, whose VCO may move (R80; the
model's choice, log entry 24). -/
structure Wave where
  half : Nat
  fall : Nat
  deriving DecidableEq, Repr

/-- The period of a clock. -/
def Wave.period (w : Wave) : Nat := 2 * w.half

/-- How long before `t` the clock last fell. -/
def Wave.since (w : Wave) (t : Nat) : Nat := (t + (w.period - w.fall % w.period)) % w.period

/-- Whether the clock is high at `t`: the second half of each period after a falling edge. -/
def Wave.high (w : Wave) (t : Nat) : Bool := decide (w.half ≤ w.since t)

/-- The first falling edge at or after `t`. -/
def Wave.fallFrom (w : Wave) (t : Nat) : Nat := if w.since t = 0 then t else t + (w.period - w.since t)

/-- The first falling edge after `t`. -/
def Wave.fallAfter (w : Wave) (t : Nat) : Nat := t + (w.period - w.since t)

/-- The clock of an engine's VCO divided by `q`, with edges fixed by the VCO and the divider alone (R82). All dividers
share one moment at which they fall, also two of which neither divides the other: R82 says so of dividers of which one
divides the other, and each of the two is divided by their greatest common divisor (the model's reading, log entry
29). -/
def Wave.divided (vco : Wave) (q : Nat) : Wave := ⟨vco.half * q, vco.fall⟩

/-- The end of leaving, from a changeover begun at `t`: the next falling edge of the source, at once from quiet
(R80). -/
def leavingEnds (source : Option Wave) (t : Nat) : Nat :=
  match source with
  | some w => w.fallAfter t
  | none => t

/-- The end of holding, the changeover-done: the first falling edge of the target at or after the end of leaving, at
once toward quiet (R80). -/
def holdingEnds (source target : Option Wave) (t : Nat) : Nat :=
  match target with
  | some w => w.fallFrom (leavingEnds source t)
  | none => leavingEnds source t

/-- The true leg of the pin at `u`, for a changeover begun at `t` (R80). -/
def pinDuring (source target : Option Wave) (t u : Nat) : Bool :=
  if u < leavingEnds source t then source.any fun w => w.high u
  else if u < holdingEnds source target t then false
  else target.any fun w => w.high u

/-- The first rising edge of the target clock after a changeover (R80). -/
def firstRise (source : Option Wave) (target : Wave) (t : Nat) : Nat :=
  holdingEnds source (some target) t + target.half

/-! ### The pin of a record -/

/-- The VCO clocks of the six engines, as they run while the pins are looked at (R80). No rule fixes their phases, so
nothing is chosen: what is said of the pins holds for every such clocks. -/
abbrev VcoClocks := EngineId → Wave

/-- The clock of a source or a target: the VCO of its engine divided by its divider, none for QUIET (R73, R80). It is
the same for every output at one (engine, divider) (R82). -/
def Target.wave (vco : VcoClocks) : Target → Option Wave
  | .quiet => none
  | .clock e q => some ((vco e).divided q)

/-- The true leg of an output's pin at `u`, a changeover in flight having begun at `began`: low when QUIET, the clock
of the source when RUNNING, the phases of R80 when CHANGING (R73). A pending target plays no part before the
changeover-done (R80). -/
def OutState.pinAt (vco : VcoClocks) (began u : Nat) : OutState → Bool
  | .quiet => false
  | .running e q => ((vco e).divided q).high u
  | .changing source target _ => pinDuring (source.wave vco) (target.wave vco) began u

/-- The complement leg of an output's pin (R73). -/
def OutState.complementAt (vco : VcoClocks) (began u : Nat) (x : OutState) : Bool := !x.pinAt vco began u

/-- The moment of the changeover-done of a changeover begun at `began`, if one is in flight (R78, R80). -/
def OutState.doneAt (vco : VcoClocks) (began : Nat) : OutState → Option Nat
  | .quiet => none
  | .running _ _ => none
  | .changing source target _ => some (holdingEnds (source.wave vco) (target.wave vco) began)

/-- The true leg of output `o` at `u`, its changeover, if any, having begun at `began` (R73, R80). -/
def State.pinAt (vco : VcoClocks) (began u : Nat) (o : OutputId) (s : State) : Bool :=
  (s.output o).state.pinAt vco began u

end Sys2Proof.Machine
end

