-- ==== Sys2Proof/Safety.lean ====
section
/-! DEFINITION. What the statements call a sound state: the invariants the spec gives, block by block, and the shapes
that the statements about commands share. -/

namespace Sys2Proof.Machine

/-! ### Selector and configuration -/

/-- The selection is NONE or an input in state VALID (R134). -/
def State.SelectionValid (s : State) : Prop :=
  ∀ r, s.selection = some r → (s.input r).state = .valid

/-- An input's timers and strike count in its state (R126). -/
structure InputRec.Sound (x : InputRec) : Prop where
  interval : x.interval.running = true ↔ x.state ≠ .absent
  qualification : x.qualification.running = true ↔ x.state = .qualifying
  strikes : x.strikes ≠ 0 → x.state = .valid

/-- Both input records are sound (R126). -/
def State.InputsSound (s : State) : Prop := ∀ r, (s.input r).Sound

/-- Every parameter lies in its range (10 10.1). -/
structure Params.InRange (p : Params) : Prop where
  nominal : 1000000 ≤ p.nominal ∧ p.nominal ≤ 250000000
  window : 1 ≤ p.window ∧ p.window ≤ 200
  qualPeriod : 1 ≤ p.qualPeriod ∧ p.qualPeriod ≤ 255
  acqLimit : 1 ≤ p.acqLimit ∧ p.acqLimit ≤ 255
  linger : p.linger ≤ 65535
  holdoverLimit : p.holdoverLimit ≤ 65535

/-- The configuration, the quotas and the masks lie in their ranges (10 10.1, R16, R171). -/
structure State.ConfigInRange (s : State) : Prop where
  params : s.params.InRange
  quotas : ∀ c, s.quota c ≤ 24
  masks : ∀ p, (s.port p).mask.getLsbD 0 = false

/-! ### Outputs -/

/-- A CHANGING output's target differs from its source, and its pending target from its target (R73). -/
def OutState.Sound : OutState → Prop
  | .quiet => True
  | .running _ _ => True
  | .changing source target waiting => target ≠ source ∧ waiting ≠ some target

/-- Every output record is sound (R73). -/
def State.OutputsSound (s : State) : Prop := ∀ o, (s.output o).state.Sound

/-! ### Engines and the selection -/

/-- How an engine stands to the selection: LOCKED and LINGERING only with a reference selected, an acquisition timer
running only then and waiting only without, a relock attempt exactly in a HOLDOVER with a reference selected (R45,
R46, R52). -/
structure EngineRec.Follows (selected : Bool) (x : EngineRec) : Prop where
  locked : x.state = .locked → selected = true
  lingering : x.state = .lingering → selected = true
  acquiring : x.state = .acquiring → x.acquisition.standing = if selected then .running else .waiting
  holdover : x.state = .holdover → x.relock = selected
  relock : x.relock = true → x.state = .holdover

/-- Every engine follows the selection. -/
def State.EnginesFollow (s : State) : Prop := ∀ e, (s.engine e).Follows s.selection.isSome

/-! ### Leases and the accounts of engines and outputs -/

/-- The outputs of an entry list, in its order. -/
def outputsOf (es : List Entry) : List OutputId := es.map Entry.output

/-- A list of one to four entries in strictly ascending order, each divider in range (R11). -/
structure EntriesOk (es : List Entry) : Prop where
  length : 1 ≤ es.length ∧ es.length ≤ 4
  order : ascending es = true
  dividers : ∀ x ∈ es, 1 ≤ x.divider ∧ x.divider ≤ 1024

/-- A migration record beside the lease that carries it (R13). -/
structure Migration.Wf (l : Lease) (m : Migration) : Prop where
  target : m.target.isSome = true ↔ m.mode = .overlap
  distinct : m.target.isSome = true → m.target ≠ l.engine
  outputs : outputsOf m.entries = outputsOf l.entries
  entries : EntriesOk m.entries
  plan : m.mode = .loc → m.plan = l.plan

/-- The fields of a lease in its state (R10 to R13, R15, R113, R117). -/
structure Lease.Wf (l : Lease) : Prop where
  entries : EntriesOk l.entries
  migrating : l.migration.isSome = true ↔ l.state = .migrating
  record : ∀ m, l.migration = some m → m.Wf l
  closing : l.closingTarget.isSome = true → l.state = .closing ∧ l.closingTarget ≠ l.engine
  failed : l.state = .failed → l.engine = none
  engine : l.engine = none →
    l.state = .failed ∨ l.state = .closing ∨ l.migrationTarget.isSome = true
  armed : l.armed = true → l.state = .pending ∧ l.flags.heldStart = true
  ready : l.state = .ready → l.flags.heldStart = true

/-- The number of times the live leases count on engine `e` (R55). -/
def State.usersOf (s : State) (e : EngineId) : Nat :=
  (allSlots.map fun i => match s.lease? i with
    | some l => l.countOn e
    | none => 0).sum

/-- An engine's user count and what follows from it: none in OFF, LINGERING and FAULTED and one at least in the other
states, a mark only on an engine with one user (R44, R55, R56, R57, R64, R66). -/
structure EngineRec.CountOk (x : EngineRec) : Prop where
  idle : x.users = 0 ↔ (x.state = .off ∨ x.state = .lingering ∨ x.state = .faulted)
  exclusive : x.exclusive = true → x.users = 1
  reserved : x.reserved = true → x.users = 1

/-- The books of the lease table and the engine pool (R15, R55). -/
structure State.Books (s : State) : Prop where
  leases : ∀ i l, s.lease? i = some l → l.Wf
  users : ∀ e, (s.engine e).users = s.usersOf e
  engines : ∀ e, (s.engine e).CountOk

/-- Holders and leases name each other, and an output without a holder is QUIET (R74). -/
structure State.HoldersOk (s : State) : Prop where
  held : ∀ o i, (s.output o).holder = some i → ∃ l, s.lease? i = some l ∧ o ∈ outputsOf l.entries
  listed : ∀ i l, s.lease? i = some l → ∀ o ∈ outputsOf l.entries, (s.output o).holder = some i
  free : ∀ o, (s.output o).holder = none → (s.output o).state = .quiet

/-- Every engine an output is tied to is named by the lease that holds the output (R75); the outputs of a lease that
is PENDING, READY or FAILED are QUIET (R15, R118). -/
structure State.TiesOk (s : State) : Prop where
  tied : ∀ o e, (s.output o).state.tiedTo e = true →
    ∃ i l, (s.output o).holder = some i ∧ s.lease? i = some l ∧ 0 < l.countOn e
  quiet : ∀ i l, s.lease? i = some l → (l.state = .pending ∨ l.state = .ready ∨ l.state = .failed) →
    ∀ o ∈ outputsOf l.entries, (s.output o).state = .quiet

/-- The lease table, the engine pool and the output selector agree with one another. -/
structure State.Sound (s : State) : Prop where
  targets : s.OutputsSound
  books : s.Books
  holders : s.HoldersOk
  ties : s.TiesOk

/-- A lease's state beside its engine and its outputs: PENDING on an engine that is not LOCKED; READY, STARTING and
ACTIVE on one that is; ACTIVE with every output RUNNING at its listed divider; in a GAP migration on an engine that is
reprogram reserved (R15, R30, R36, R64). -/
structure State.LeaseFollows (s : State) (l : Lease) : Prop where
  pending : l.state = .pending → ∃ e, l.engine = some e ∧ s.isLocked e = false
  locked : l.state = .ready ∨ l.state = .starting ∨ l.state = .active →
    ∃ e, l.engine = some e ∧ s.isLocked e = true
  active : l.state = .active → ∃ e, l.engine = some e ∧ s.outputsAll (runsAt e) l.entries = true
  gap : ∀ m, l.migration = some m → m.mode = .gap →
    ∃ e, l.engine = some e ∧ (s.engine e).reserved = true

/-- A sound part in which every lease follows its engine. -/
structure State.SoundRun (s : State) : Prop where
  sound : s.Sound
  leases : ∀ i l, s.lease? i = some l → s.LeaseFollows l

/-- No two live leases of one client carry the same tag (R7). -/
def State.TagsUnique (s : State) : Prop :=
  ∀ i j l m, s.lease? i = some l → s.lease? j = some m → l.owner = m.owner → l.tag.isSome = true →
    l.tag = m.tag → i = j

/-! ### Notices -/

/-- What a lease-notice entry of port `p` for slot `i` says (R158): a count from 1 to 15, the slot's generation, and a
live lease homed at `p`, or, closed, a slot RETIRED there. -/
structure State.NoticeOk (s : State) (p : Port) (i : SlotId) (n : Notice) : Prop where
  count : 1 ≤ n.count ∧ n.count ≤ 15
  gen : n.gen = (s.slot i).gen
  live : n.closed = false → ∃ l, s.lease? i = some l ∧ l.home = p
  closed : n.closed = true → (s.slot i).standing = .retired p

/-- Every entry is right, and every RETIRED slot has its closed entry at its home port (R158, R161). -/
structure State.NoticesOk (s : State) : Prop where
  entries : ∀ p (i : SlotId) n, (s.port p).notices[i] = some n → s.NoticeOk p i n
  retired : ∀ p (i : SlotId), (s.slot i).standing = .retired p →
    ∃ n, (s.port p).notices[i] = some n ∧ n.closed = true

/-! ### Readiness -/

/-- While the part is NOT_READY nothing is held or answered, no input is watched, and the lease table, the engine
table and the output records stand at their power-on values (R125). -/
structure State.Dormant (s : State) : Prop where
  exchanges : ∀ p, (s.port p).exchange = .empty
  inputs : ∀ r, s.input r = InputRec.initial
  selection : s.selection = none
  slots : ∀ i, s.slot i = Slot.initial
  engines : ∀ e, s.engine e = EngineRec.initial
  outputs : ∀ o, s.output o = OutputRec.initial

/-- A part that is NOT_READY is dormant (R125). -/
def State.DormantUntilReady (s : State) : Prop := s.ready = false → s.Dormant

/-! ### The shapes of the statements about commands -/

/-- What work on leases, engines and outputs leaves as it was, from `s` to `t`: the pins, the readiness, the roles,
the configuration, the inputs, the queue and, on each port, everything but the lease notices. -/
structure LeaseWork (s t : State) : Prop where
  rstnLow : t.rstnLow = s.rstnLow
  ready : t.ready = s.ready
  supselPort : t.supselPort = s.supselPort
  supervisor : t.supervisor = s.supervisor
  lastServed : t.lastServed = s.lastServed
  quotas : t.quotas = s.quotas
  refA : t.refA = s.refA
  refB : t.refB = s.refB
  selection : t.selection = s.selection
  params : t.params = s.params
  freeCount : t.freeCount = s.freeCount
  pending : t.pending = s.pending
  ports : ∀ p, t.port p = { s.port p with notices := (t.port p).notices }

/-- A plan as a body carries it: N 1 to 4095, D 1 to 255 (R26). -/
def Plan.Carried (p : Plan) : Prop := 1 ≤ p.n ∧ p.n ≤ 4095 ∧ 1 ≤ p.d ∧ p.d ≤ 255

/-- `c` is the command taken next, from port `p`, and the port accepts its client (R17, R147). -/
structure State.Takes (s : State) (p : Port) (c : HeldCommand) : Prop where
  next : s.nextTaken = some (p, c)
  client : s.accepts p c.client = true

/-- The state after the taking of `c` from port `p`, the command itself having made the state into `t`: the port is
ANSWERED, and it is the last one served (R147, R148). -/
def State.answered (t : State) (p : Port) (c : HeldCommand) (st : Status) (body : List Byte) : State :=
  { t.setPort p { t.port p with exchange := .answered (responseTo c st body) } with
    lastServed := p, touched := [] }

/-- The row of the table whose event the taking of a command is. -/
def rowOf (c : HeldCommand) : Instr :=
  if c.code = codeOpen then .openLease
  else if c.code = codeStart then .start
  else if c.code = codeRetune then .retune
  else if c.code = codeRelease then .release
  else if c.code = codeRetry then .retry
  else if c.code = codeQueryLease then .queryLease
  else if c.code = codeLookupTag then .lookupTag
  else if c.code = codeListClient then .listClient
  else if c.code = codeFindOutput then .findOutput
  else if c.code = codeQueryEngine then .queryEngine
  else if c.code = codeQueryReference then .queryReference
  else if c.code = codeNotices then .notices
  else if c.code = codeSetIrq then .setIrq
  else if c.code = codeReadConfig then .readConfig
  else if c.code = codeConfigure then .configure
  else if c.code = codeSetClients then .setClients
  else if c.code = codeHandover then .handover
  else if c.code = codeSoftReset then
    (if c.body = [scopeDevice] then .softResetDevice else .softResetLeases)
  else if c.code = codeEngineClear then .engineClear
  else if c.code = codeRevoke then .revoke
  else .unknownCommandCode

/-- The statuses of a refusal, 10h to 1Fh (R180). -/
def Status.isRefusal (st : Status) : Bool := decide (0x10 ≤ st.code.toNat)

/-- A frame `f` is in progress on port `p` (R142). -/
structure State.InFrame (s : State) (p : Port) (f : Frame) : Prop where
  low : (s.port p).csLow = true
  frame : (s.port p).frame = some f

/-- The state at the end of frame `f` on port `p`, before its judgement: chip select is high, and SDO has shown what
the frame fixed at its start (R142, R143, R150). -/
def State.frameEnded (s : State) (p : Port) (f : Frame) (kind : Byte) (rest : List Byte) : State :=
  { s.setPort p { s.port p with csLow := false, frame := none, sdo := f.shifted kind rest } with
    touched := [] }

/-- A RETUNE that has passed steps 1 to 8 of R90: `a` its body, `l` the lease of slot `i`, `r` the request as it is
compared with the lease (R91). -/
structure State.RetuneChecked (s : State) (p : Port) (c : HeldCommand) (a : RetuneArgs) (i : SlotId)
    (l : Lease) (r : RetuneRequest) : Prop where
  takes : s.Takes p c
  code : c.code = codeRetune
  body : readRetune c.body = some a
  handle : s.reach a.handle = some (i, l)
  owner : l.ownedBy c.client = true
  state : l.state = .pending ∨ l.state = .ready ∨ l.state = .active ∨ l.state = .disturbed
  outputs : outputsOf a.entries = outputsOf l.entries
  request : r = ⟨a.plan.reduce, a.cls, a.cls.getD l.cls, a.pin, a.entries,
    eligible s.params.nominal (a.cls.getD l.cls) a.plan.reduce⟩
  classes : r.classes ≠ []
  range : ∀ x ∈ a.entries, a.plan.reduce.outputInRange s.params.nominal x.divider = true

/-- The state that a lease on an engine enters when it is opened, rebound or retried (R30, R93, R122). -/
def startState (locked heldStart : Bool) : LeaseState :=
  if locked then (if heldStart then .ready else .starting) else .pending

/-- An output record with the target `t` given to it (R76, R77); the holder is kept (R74). -/
def OutputRec.given (t : Target) (x : OutputRec) : OutputRec := { x with state := x.state.give t }

/-- The record of an output with the changeover and the pending target to `e` abandoned, if it is tied to `e` (R83).
-/
def OutputRec.forced (e : EngineId) (x : OutputRec) : OutputRec :=
  { x with state := if x.state.tiedTo e then .quiet else x.state }

/-- A FAULTED engine as its fault leaves it: the plan is kept, the users are gone, every timer is stopped (R66, R55).
The limit in force of the stopped acquisition timer is `limit`, and the linger timer keeps its time (log entry 17). -/
def EngineRec.faultedWith (r : FaultReason) (limit : Nat) (x : EngineRec) : EngineRec :=
  { x with
    state := .faulted, users := 0, exclusive := false, reserved := false, acquisition := ⟨.stopped, 0, limit⟩,
    holdover := ⟨false, 0, 0⟩, relock := false, linger := ⟨false, 0, x.linger.time⟩, fault := some r }

/-- A lease as the fault of its engine leaves it (R117). -/
def Lease.failedByFault (l : Lease) : Lease :=
  { l with engine := none, armed := false, migration := none, state := .failed, reason := .engineFault }

/-- The outputs of lease `l` stand where its migration takes them: at (E, new divider), or quiet while E is not
LOCKED, in LOCAL; at (T, new divider) in OVERLAP; quiet in GAP (R97, R101, R105). -/
def State.AtGoal (s : State) (l : Lease) (m : Migration) : Prop :=
  match m.mode with
  | .loc => ∃ e, l.engine = some e ∧ ∀ x ∈ m.entries, (s.output x.output).state = .running e x.divider ∨
      ((s.output x.output).state = .quiet ∧ (s.engine e).state ≠ .locked)
  | .overlap => ∃ g, m.target = some g ∧ ∀ x ∈ m.entries, (s.output x.output).state = .running g x.divider
  | .gap => ∀ x ∈ l.entries, (s.output x.output).state = .quiet

/-- Lease `l` once its migration has settled, `locked` telling whether the engine that serves it is LOCKED (R97, R101,
R105). -/
def Lease.migrated (l : Lease) (m : Migration) (locked : Bool) : Lease :=
  { l with
    plan := m.plan, cls := m.cls.getD l.cls, pin := m.pin, entries := m.entries, migration := none,
    engine := if m.mode = .overlap then m.target else l.engine, reason := .migrated,
    armed := if m.mode = .gap then l.flags.heldStart else l.armed,
    state := if m.mode = .gap then .pending else if locked then .active else .disturbed }

/-- No OVERLAP or GAP migration of a lease whose engine is `f` has settled between `s` and `t`, which would take a
user from `f` or reprogram it (R101, R105): the outputs of each such lease are not yet at their goal. -/
def State.NoneSettledOff (s t : State) (f : EngineId) : Prop :=
  ∀ i l m, s.lease? i = some l → l.state = .migrating → l.migration = some m → l.engine = some f →
    m.mode = .loc ∨ ¬ t.AtGoal l m

/-- How many CLOSING leases that count on engine `f` the fault of engine `e` frees: those that name `e` as their
engine or closing target and whose outputs are all quiet once those tied to `e` have been forced so (R119). -/
def State.freedWith (s : State) (e f : EngineId) : Nat :=
  allSlots.countP fun i => match s.lease? i with
    | some l => decide (l.state = .closing ∧ (l.engine = some e ∨ l.closingTarget = some e) ∧ 0 < l.countOn f ∧
        ∀ x ∈ l.entries, ((s.output x.output).forced e).state = .quiet)
    | none => false

/-- The entry that the home port of `t` holds for the lease `l` of slot `i` is the one that one raise with `r` makes
of its entry in `s`, and the other port's is the one it was (R159, R160). -/
def State.Raised (s t : State) (i : SlotId) (l : Lease) (r : Reason) (closed : Bool) : Prop :=
  (t.port l.home).notices[i] = some (raisedNotice (s.port l.home).notices[i] false (s.slot i).gen r closed) ∧
  (t.port l.home.other).notices[i] = (s.port l.home.other).notices[i]

/-- Slot `i` and its notices at both ports are in `t` what they were in `s`. -/
def State.SlotKept (s t : State) (i : SlotId) : Prop :=
  t.slot i = s.slot i ∧ ∀ p, (t.port p).notices[i] = (s.port p).notices[i]

/-! ### A change of selection -/

/-- The selection of `t` is the one that the table of 07 7.5 gives for its mode, its priority and its inputs, `now`
being the selection before. -/
structure State.SelectedBy (t : State) (now : Option RefInput) : Prop where
  valid : ∀ r, t.selection = some r → (t.input r).state = .valid
  forced : ∀ r, (t.params.mode = .forceA ∧ r = .refA) ∨ (t.params.mode = .forceB ∧ r = .refB) →
    t.selection = if (t.input r).state = .valid then some r else none
  priority : ∀ r, r = t.params.priority.first →
    t.params.mode = .autoRevert ∨
      (t.params.mode = .autoHold ∧ ∀ q, now = some q → (t.input q).state ≠ .valid) →
    t.selection = if (t.input r).state = .valid then some r
      else if (t.input r.other).state = .valid then some r.other else none
  hold : t.params.mode = .autoHold → ∀ r, now = some r → (t.input r).state = .valid → t.selection = some r

/-- `y` is what a change of selection makes of engine `x`, `selected` telling whether an input is selected then (R50).
That an acquisition timer that is stopped or WAITING keeps its limit, and a linger timer its time, is the model's
reading (log entry 17). -/
def EngineRec.Reselected (selected : Bool) (limit : Nat) (x y : EngineRec) : Prop :=
  match x.state with
  | .locked => y = { x with
      state := .holdover, holdover := ⟨true, 0, 0⟩, relock := selected,
      acquisition := if selected then ⟨.running, 0, limit⟩ else ⟨.stopped, 0, x.acquisition.limit⟩ }
  | .holdover => y = { x with
      relock := selected,
      acquisition := if selected then ⟨.running, 0, limit⟩ else ⟨.stopped, 0, x.acquisition.limit⟩ }
  | .acquiring => y = { x with
      acquisition := if selected then ⟨.running, 0, limit⟩ else ⟨.waiting, 0, x.acquisition.limit⟩ }
  | .lingering => y = { x with
      state := .off, plan := none, exclusive := false, reserved := false, kind := .first,
      acquisition := ⟨.stopped, 0, x.acquisition.limit⟩, holdover := ⟨false, 0, 0⟩, relock := false,
      linger := ⟨false, 0, x.linger.time⟩, fault := none }
  | .off => y = x
  | .faulted => y = x

/-- `t` is `s` after its selection has been re-evaluated: the selection is the one of the table; where it is the old
one nothing else changes; where it differs REF_SELECTION is raised, every engine reacts by R50, and every lease that
names an engine which was LOCKED reacts to its HOLDOVER by R38, or, MIGRATING, by R97, R100 and R105 (R135). No output
is given a target. The record of an engine is not spoken of where an OVERLAP or GAP migration off it settles, which
writes it too. -/
structure State.Reselects (s t : State) : Prop where
  work : LeaseWork { s with selection := t.selection } t
  selected : t.SelectedBy s.selection
  same : t.selection = s.selection → t = s
  outputs : t.outputs = s.outputs
  raised : t.selection ≠ s.selection → t.deviceNotices = { s.deviceNotices with refSelection := true }
  engines : t.selection ≠ s.selection → ∀ e, s.NoneSettledOff t e →
    (s.engine e).Reselected t.selection.isSome s.params.acqLimit (t.engine e)
  leases : t.selection ≠ s.selection → ∀ i l e, s.lease? i = some l → l.engine = some e →
    (s.engine e).state = .locked →
    l.state = .ready ∨ l.state = .starting ∨ l.state = .active ∨ l.state = .disturbed →
    t.slot i = ⟨(s.slot i).gen, .live { l with
      state := if l.state = .ready then .pending else .disturbed, reason := .holdover }⟩ ∧
    s.Raised t i l .holdover false
  migrations : t.selection ≠ s.selection → ∀ i l m e, s.lease? i = some l → l.state = .migrating →
    l.migration = some m → l.engine = some e ∨ m.target = some e → (s.engine e).state = .locked →
    (¬ t.AtGoal l m → t.slot i = ⟨(s.slot i).gen, .live { l with reason := .holdover }⟩ ∧
      s.Raised t i l .holdover false) ∧
    (t.AtGoal l m → m.mode = .loc → m.target = none →
      t.slot i = ⟨(s.slot i).gen, .live (l.migrated m false)⟩ ∧ s.Raised t i l .migrated false)
  others : ∀ i, (∀ l, s.lease? i = some l →
      (∀ e, l.engine = some e ∨ l.migrationTarget = some e → (s.engine e).state ≠ .locked) ∨
      l.state = .pending ∨ l.state = .closing ∨ l.state = .failed) →
    s.SlotKept t i

/-- `t` is what the rows HOLDOVER_TIMER_LIMIT of the engines of a list make of `s`, one after another. -/
def State.LimitsReached : List EngineId → State → State → Prop
  | [], s, t => t = s
  | e :: es, s, t => ∃ u, exec (.holdoverTimerLimit e) s = .next u ∧ State.LimitsReached es u t

/-- The entry `new` that an event made of the entry `old`, its count raised by one up to 15, however many of the
changes it holds are the event's (R160). -/
def countedOnce (old new : Option Notice) : Option Notice :=
  if new = old then old
  else new.map fun n => { n with count := match old with
    | none => 1
    | some o => min 15 (o.count + 1) }

/-- A CONFIGURE of the pairs `ps` sets a limit that engine `e` has already spent in HOLDOVER (R71). -/
def State.Overdue (s : State) (ps : List (Byte × Nat)) (e : EngineId) : Prop :=
  (s.engine e).state = .holdover ∧ ∃ v, (0x08#8, v) ∈ ps ∧ v ≠ 0 ∧ v ≤ (s.engine e).holdover.elapsed

end Sys2Proof.Machine
end

