-- ==== Sys2Proof/WellFormed.lean ====
section
/-! DEFINITION. The static check of a command: what its operand types do not already say. -/

namespace Sys2Proof

/-- The four kind bytes of R178. -/
def knownKinds : List Byte := [0x00#8, 0x5C#8, 0x3A#8, 0xC3#8]

/-- A byte left incomplete has fewer than eight bits (R142). -/
def ShiftedIn.wellFormed (x : ShiftedIn) : Bool := decide (x.bits.length < 8)

/-- A command is well formed when its row's name fits its operands: a frame of UNKNOWN_FRAME_KIND does not
begin with one of the four kinds (R145), and the bits beyond a frame's whole bytes make no byte (R142). Every other
operand is bounded by its type. -/
def Instr.wellFormed : Instr → Bool
  | .unknownFrameKind _ x => x.wellFormed && match x.bytes with
    | [] => true
    | kind :: _ => !knownKinds.contains kind
  | .powerOnReset _ | .pinResetAssert | .pinResetRelease _ | .oscillatorStable => true
  | .nop _ rest | .commandFrame _ rest | .fetch _ rest | .resync _ rest => rest.wellFormed
  | .openLease | .start | .retune | .release | .revoke | .retry => true
  | .queryLease | .lookupTag | .listClient | .findOutput | .queryEngine | .queryReference => true
  | .notices | .setIrq | .readConfig | .configure | .setClients | .handover => true
  | .softResetLeases | .softResetDevice | .engineClear | .unknownCommandCode => true
  | .lockAchieved _ | .lockLost _ | .acquisitionTimerExpiry _ | .holdoverTimerLimit _ => true
  | .lingerTimerExpiry _ | .changeoverDone _ | .activityStart _ | .activityLoss _ => true
  | .measurement _ _ | .qualificationTimerExpiry _ | .chipSelectFall _ => true

end Sys2Proof
end

