-- ==== Sys2Proof/Certificates/Slice0/Obligations.lean ====
section
/-! DEFINITION. The statements: the queue and its time, the taking of commands, every command and event, the shared
operations, and the invariants that every step keeps. -/

open Sys2Proof Sys2Proof.Machine

/-! ### The queue -/

/-- A step takes the command at the front of the queue and runs it with the queue's rest. -/
def Obligations.StepTakesFrontCommand : Prop :=
  ∀ (c : Instr) (rest : List Instr) (s : State), s.pending = c :: rest →
    step s = exec c { s with pending := rest }

/-- An empty queue lets 1 ms pass (the model's choice, log entry 3): of a READY part every running timer counts it and
stands once it has run as long as its limit in force (log entry 5), a timer that does not run stays as it was, and
nothing else changes; a NOT_READY part stays as it was. The holdover timer counts seconds up to 65535 and the
qualification timer intervals of 100 ms, each with the ms of the one under way (log entry 3); the measurement interval
counts 100 ms. -/
def Obligations.EmptyQueueTicks : Prop :=
  ∀ s : State, s.pending = [] →
    ∃ t, step s = .next t ∧ (s.ready = false → t = s) ∧
      t = { s with engines := t.engines, refA := t.refA, refB := t.refB } ∧
      (s.ready = true →
        (∀ e x a h l, x = s.engine e → a = x.acquisition → h = x.holdover → l = x.linger →
          ∃ a' h' l', t.engine e = { x with acquisition := a', holdover := h', linger := l' } ∧
          a' = (if a.standing = .running ∧ a.elapsed < a.limit then { a with elapsed := a.elapsed + 1 } else a) ∧
          (h.running = true → h.elapsed < 65535 →
            s.params.holdoverLimit = 0 ∨ h.elapsed < s.params.holdoverLimit →
            h' = if h.ms < 999 then ⟨true, h.elapsed, h.ms + 1⟩ else ⟨true, h.elapsed + 1, 0⟩) ∧
          (h.running = false ∨ 65535 ≤ h.elapsed ∨
              (s.params.holdoverLimit ≠ 0 ∧ s.params.holdoverLimit ≤ h.elapsed) → h' = h) ∧
          l' = if l.running = true ∧ l.elapsed < l.time then { l with elapsed := l.elapsed + 1 } else l) ∧
        ∀ r x q m, x = s.input r → q = x.qualification → m = x.interval →
          ∃ q' m', t.input r = { x with qualification := q', interval := m' } ∧
          (q.running = true → q.elapsed < q.period →
            q' = if q.ms < 99 then { q with ms := q.ms + 1 } else { q with elapsed := q.elapsed + 1, ms := 0 }) ∧
          (q.running = false ∨ q.period ≤ q.elapsed → q' = q) ∧
          m' = if m.running = true ∧ m.elapsed < 100 then { m with elapsed := m.elapsed + 1 } else m)

/-- Every command answers a next state, changes nothing of the queue, and leaves no mark of the notices it raised. -/
def Obligations.EveryCommandAnswersNext : Prop :=
  ∀ (c : Instr) (s : State), ∃ t, exec c s = .next t ∧ t.pending = s.pending ∧
    (s.touched = [] → t.touched = [])

/-! ### The taking of commands -/

/-- The arbiter takes the one held command, or, with two, that of the port not served last; none while the part is
NOT_READY. -/
def Obligations.ArbiterChoosesPort : Prop :=
  ∀ s : State,
    (s.ready = false → s.nextTaken = none) ∧
    (∀ p c, s.ready = true → (s.port p).exchange = .held c →
      (∀ d, (s.port p.other).exchange ≠ .held d) → s.nextTaken = some (p, c)) ∧
    (∀ a b, s.ready = true → s.portA.exchange = .held a → s.portB.exchange = .held b →
      s.nextTaken = some (if s.lastServed = .A then (.B, b) else (.A, a))) ∧
    ((∀ p c, (s.port p).exchange ≠ .held c) → s.nextTaken = none)

/-- A taken command is answered in its own event, on the port it came from, whatever its row makes of it (the rows of
takings: log entry 1); a refusal changes nothing else. That a refused SOFT_RESET is not saved in the retry store at
once is the model's reading (log entry 21). -/
def Obligations.TakenCommandAnswered : Prop :=
  ∀ (s : State) (p : Port) (c : HeldCommand), s.nextTaken = some (p, c) →
    ∃ t st body, exec (rowOf c) s = .next t ∧
      (t.port p).exchange = .answered (responseTo c st body) ∧ t.lastServed = p ∧
      (st.isRefusal = true → t = s.answered p c st body)

/-- A command whose client the port does not accept is refused with CLIENT_DENIED; one whose client is accepted and
whose code names no command, with BAD_COMMAND. Client 0 is accepted on the supervisor port alone, the others by the
mask (R17, R180). That a SOFT_RESET naming no scope is the row LEASES is the model's choice (log entry 11), and that a
refused SOFT_RESET is not saved in the retry store at once its reading (log entry 21). -/
def Obligations.ClientAndCodeChecked : Prop :=
  ∀ (s : State) (p : Port) (c : HeldCommand), s.nextTaken = some (p, c) →
    s.accepts p c.client =
      (if c.client = 0 then decide (s.supervisor = p) else (s.port p).mask.getLsbD c.client.1) ∧
    (s.accepts p c.client = false →
      exec (rowOf c) s = .next (s.answered p c .clientDenied [0xFF#8])) ∧
    (s.accepts p c.client = true → c.code ∉ knownCodes →
      exec .unknownCommandCode s = .next (s.answered p c .badCommand [0xFF#8]))

/-- A supervisor command of another client is refused with SUPERVISOR_ONLY, and any command whose body does not read
by its layout with BAD_ARGUMENT and no position. Before that, the layouts of R181, reader by reader: the bytes that
each accepts, for which values, and nothing else; a mask byte that is not carried is any byte. That the body of a
CONFIGURE that is empty or not made of whole pairs carries no position, nor one of more than eight pairs whose first
eight all pass, is the model's reading (log entry 10; where one of the first eight offends, ConfigureRefused); that a
SOFT_RESET naming no scope is the row LEASES is the model's choice (log entry 11), and that a refused SOFT_RESET is
not saved at once its reading (log entry 21). -/
def Obligations.RightAndBodyChecked : Prop :=
  (∀ body a, readOpen body = some a ↔
    body = [byte (a.tag.getD 0 / 256), byte (a.tag.getD 0), byte (a.plan.n / 256), byte a.plan.n, byte a.plan.d,
        a.cls.code,
        (if a.flags.exclusive then 0x01#8 else 0x00#8) ||| (if a.flags.heldStart then 0x02#8 else 0x00#8) |||
          (if a.flags.slipMute then 0x04#8 else 0x00#8) ||| (if a.flags.allowGap then 0x08#8 else 0x00#8),
        (a.pin.map fun e => byte e.1).getD 0xFF#8, byte a.entries.length] ++
      a.entries.flatMap (fun x => [byte x.output.1, byte (x.divider / 256), byte x.divider]) ∧
    (∀ t, a.tag = some t → 1 ≤ t ∧ t ≤ 65535) ∧ a.plan.Carried ∧ EntriesOk a.entries) ∧
  (∀ body hs, readStart body = some hs ↔
    body = hs.flatMap (fun h => [h.slot, h.gen]) ∧ 1 ≤ hs.length ∧ hs.length ≤ 4 ∧ hs.Nodup) ∧
  (∀ body a, readRetune body = some a ↔
    body = [a.handle.slot, a.handle.gen, byte (a.plan.n / 256), byte a.plan.n, byte a.plan.d,
        (a.cls.map fun k => k.code).getD 0xFF#8, (a.pin.map fun e => byte e.1).getD 0xFF#8,
        byte a.entries.length] ++
      a.entries.flatMap (fun x => [byte x.output.1, byte (x.divider / 256), byte x.divider]) ∧
    a.plan.Carried ∧ EntriesOk a.entries) ∧
  (∀ body a, readRetry body = some a ↔
    body = [a.handle.slot, a.handle.gen, byte ((a.plan.map Plan.n).getD 0 / 256),
        byte ((a.plan.map Plan.n).getD 0), byte ((a.plan.map Plan.d).getD 0),
        (a.cls.map fun k => k.code).getD 0xFF#8, (a.pin.map fun e => byte e.1).getD 0xFF#8,
        byte (a.entries.getD []).length] ++
      (a.entries.getD []).flatMap (fun x => [byte x.output.1, byte (x.divider / 256), byte x.divider]) ∧
    (∀ plan, a.plan = some plan → plan.Carried) ∧ (∀ es, a.entries = some es → EntriesOk es)) ∧
  (∀ body h, readHandle body = some h ↔ body = [h.slot, h.gen]) ∧
  (∀ body (x : ClientId) (t : Nat), readLookupTag body = some (x, t) ↔
    body = [byte x.1, byte (t / 256), byte t] ∧ 1 ≤ t ∧ t ≤ 65535) ∧
  (∀ n, n ≤ 256 → ∀ body (x : Fin n), readOne n body = some x ↔ body = [byte x.1]) ∧
  (∀ body notice response, readSetIrq body = some (notice, response) ↔
    body = [(if notice then 0x01#8 else 0x00#8) ||| (if response then 0x02#8 else 0x00#8)]) ∧
  (∀ body a, readSetClients body = some a ↔ ∃ ma mb,
    body = [(if a.maskA.isSome then 0x01#8 else 0x00#8) ||| (if a.maskB.isSome then 0x02#8 else 0x00#8), ma, mb,
        byte a.quotas.length] ++ a.quotas.flatMap (fun x => [byte x.1.1, byte x.2]) ∧
    (∀ m, a.maskA = some m → ma = m ∧ m.getLsbD 0 = false) ∧
    (∀ m, a.maskB = some m → mb = m ∧ m.getLsbD 0 = false) ∧
    a.quotas.length ≤ 8 ∧ (∀ x ∈ a.quotas, x.2 ≤ 24) ∧ (a.quotas.map Prod.fst).Nodup) ∧
  (∀ body device, readScope body = some device ↔ body = [if device then 0x02#8 else 0x01#8]) ∧
  (∀ body ps, readPairs body = some ps ↔
    body = ps.flatMap (fun x => [x.1, byte (x.2 / 16777216), byte (x.2 / 65536), byte (x.2 / 256), byte x.2]) ∧
    ∀ x ∈ ps, x.2 < 4294967296) ∧
  (∀ k v w, readParam k v = some w ↔
    (k = 0x01#8 ∧ 1000000 ≤ v ∧ v ≤ 250000000 ∧ w = .nominal v) ∨
    (k = 0x02#8 ∧ 1 ≤ v ∧ v ≤ 200 ∧ w = .window v) ∨
    (k = 0x03#8 ∧ 1 ≤ v ∧ v ≤ 255 ∧ w = .qualPeriod v) ∨
    (k = 0x04#8 ∧ ((v = 0 ∧ w = .mode .autoRevert) ∨ (v = 1 ∧ w = .mode .autoHold) ∨
      (v = 2 ∧ w = .mode .forceA) ∨ (v = 3 ∧ w = .mode .forceB))) ∨
    (k = 0x05#8 ∧ ((v = 0 ∧ w = .priority .aFirst) ∨ (v = 1 ∧ w = .priority .bFirst))) ∨
    (k = 0x06#8 ∧ 1 ≤ v ∧ v ≤ 255 ∧ w = .acqLimit v) ∨
    (k = 0x07#8 ∧ v ≤ 65535 ∧ w = .linger v) ∨
    (k = 0x08#8 ∧ v ≤ 65535 ∧ w = .holdoverLimit v)) ∧
  ∀ (s : State) (p : Port) (c : HeldCommand), s.Takes p c →
    (c.code ∈ [codeConfigure, codeSetClients, codeHandover, codeSoftReset, codeEngineClear, codeRevoke] →
      c.client ≠ 0 → exec (rowOf c) s = .next (s.answered p c .supervisorOnly [0xFF#8])) ∧
    ((c.code = codeOpen ∧ readOpen c.body = none) ∨ (c.code = codeStart ∧ readStart c.body = none) ∨
      (c.code = codeRetune ∧ readRetune c.body = none) ∨ (c.code = codeRetry ∧ readRetry c.body = none) ∨
      (c.code ∈ [codeRelease, codeQueryLease] ∧ readHandle c.body = none) ∨
      (c.code = codeRevoke ∧ c.client = 0 ∧ readHandle c.body = none) ∨
      (c.code = codeLookupTag ∧ readLookupTag c.body = none) ∨
      (c.code = codeListClient ∧ readOne 8 c.body = none) ∨
      (c.code = codeFindOutput ∧ readOne 16 c.body = none) ∨
      (c.code = codeQueryEngine ∧ readOne 6 c.body = none) ∨
      (c.code = codeEngineClear ∧ c.client = 0 ∧ readOne 6 c.body = none) ∨
      (c.code ∈ [codeQueryReference, codeNotices, codeReadConfig] ∧ c.body ≠ []) ∨
      (c.code = codeHandover ∧ c.client = 0 ∧ c.body ≠ []) ∨
      (c.code = codeSetIrq ∧ readSetIrq c.body = none) ∨
      (c.code = codeSetClients ∧ c.client = 0 ∧ readSetClients c.body = none) ∨
      (c.code = codeSoftReset ∧ c.client = 0 ∧ readScope c.body = none) ∨
      (c.code = codeConfigure ∧ c.client = 0 ∧
        ∀ ps, readPairs c.body = some ps → ps = [] ∨ (8 < ps.length ∧
          (∀ x ∈ ps.take 8, readParam x.1 x.2 ≠ none) ∧ ((ps.take 8).map Prod.fst).Nodup)) →
      exec (rowOf c) s = .next (s.answered p c .badArgument [0xFF#8]))

/-- A handle that reaches no live lease refuses with NO_SUCH_LEASE, a lease of another client with NOT_OWNER, each
with the handle's position (0 for a single handle, log entry 10); START judges all its handles, then all owners, then
all states; RETUNE judges, after the owner, the state, the outputs named, the plan's range and the outputs' range. -/
def Obligations.HandleOwnerStateChecked : Prop :=
  ∀ (s : State) (p : Port) (c : HeldCommand), s.Takes p c →
    (∀ h, ((c.code = codeRelease ∧ readHandle c.body = some h) ∨
        (c.code = codeRevoke ∧ c.client = 0 ∧ readHandle c.body = some h) ∨
        (c.code = codeRetune ∧ ∃ a, readRetune c.body = some a ∧ a.handle = h) ∨
        (c.code = codeRetry ∧ ∃ a, readRetry c.body = some a ∧ a.handle = h)) →
      (s.reach h = none → exec (rowOf c) s = .next (s.answered p c .noSuchLease [0#8])) ∧
      (∀ i l, s.reach h = some (i, l) → c.client ≠ 0 → l.owner ≠ c.client →
        exec (rowOf c) s = .next (s.answered p c .notOwner [0#8]))) ∧
    (∀ hs (k : Nat) h, c.code = codeStart → readStart c.body = some hs → hs[k]? = some h →
      ((∀ (j : Nat) g, j < k → hs[j]? = some g → s.reach g ≠ none) → s.reach h = none →
        exec .start s = .next (s.answered p c .noSuchLease [byte k])) ∧
      (∀ xs : List (SlotId × Lease), xs.map some = hs.map s.reach → ∀ x, xs[k]? = some x →
        ((∀ (j : Nat) y, j < k → xs[j]? = some y → y.2.ownedBy c.client = true) →
          x.2.ownedBy c.client = false → exec .start s = .next (s.answered p c .notOwner [byte k])) ∧
        ((∀ y ∈ xs, y.2.ownedBy c.client = true) →
          (∀ (j : Nat) y, j < k → xs[j]? = some y → y.2.startable = true) → x.2.startable = false →
          exec .start s = .next (s.answered p c .wrongState [byte k])))) ∧
    (∀ a i l, c.code = codeRetune → readRetune c.body = some a → s.reach a.handle = some (i, l) →
      l.ownedBy c.client = true →
      (¬ (l.state = .pending ∨ l.state = .ready ∨ l.state = .active ∨ l.state = .disturbed) →
        exec .retune s = .next (s.answered p c .wrongState [0xFF#8])) ∧
      (l.state = .pending ∨ l.state = .ready ∨ l.state = .active ∨ l.state = .disturbed →
        (∀ k, mismatch 0 a.entries l.entries = some k →
          exec .retune s = .next (s.answered p c .badArgument [byte k])) ∧
        (outputsOf a.entries = outputsOf l.entries →
          (eligible s.params.nominal (a.cls.getD l.cls) a.plan.reduce = [] →
            exec .retune s = .next (s.answered p c .planRange [0xFF#8])) ∧
          (eligible s.params.nominal (a.cls.getD l.cls) a.plan.reduce ≠ [] → ∀ (k : Nat) x,
            a.entries[k]? = some x → a.plan.reduce.outputInRange s.params.nominal x.divider = false →
            (∀ (j : Nat) y, j < k → a.entries[j]? = some y →
              a.plan.reduce.outputInRange s.params.nominal y.divider = true) →
            exec .retune s = .next (s.answered p c .outputRange [byte k])))))

/-! ### The commands that read -/

/-- QUERY_LEASE reports the record of a live lease, CLOSED and the home port of a RETIRED slot, and NO_SUCH_LEASE
where the handle reaches neither, with position 0 (the model's reading, log entry 10); it changes nothing. The bytes
of the record are laid out as R182 gives them, those of an absent migration record reading as absent but for the
closing target. Bits that no field defines are 0 (the model's reading, log entry 9). -/
def Obligations.QueryLeaseReports : Prop :=
  ∀ (s : State) (p : Port) (c : HeldCommand) (h : Handle), s.Takes p c → c.code = codeQueryLease →
    readHandle c.body = some h →
    (∀ (i : SlotId) l, h.slot.toNat = i.1 → h.gen = (s.slot i).gen → (s.slot i).standing = .live l →
      exec .queryLease s = .next (s.answered p c .ok (s.leaseBytes i l)) ∧
      s.leaseBytes i l =
        [byte i.1, (s.slot i).gen, l.state.code, (if l.home = .B then 0x80#8 else 0x00#8) ||| byte l.owner.1,
          byte (l.tag.getD 0 / 256), byte (l.tag.getD 0), byte (l.plan.n / 256), byte l.plan.n, byte l.plan.d,
          l.cls.code,
          (if l.flags.exclusive then 0x01#8 else 0x00#8) ||| (if l.flags.heldStart then 0x02#8 else 0x00#8) |||
            (if l.flags.slipMute then 0x04#8 else 0x00#8) ||| (if l.flags.allowGap then 0x08#8 else 0x00#8) |||
            (if l.armed then 0x80#8 else 0x00#8),
          (l.pin.map fun e => byte e.1).getD 0xFF#8, (l.engine.map fun e => byte e.1).getD 0xFF#8, l.reason.code,
          byte l.entries.length] ++
        l.entries.flatMap (fun x => [byte x.output.1, byte (x.divider / 256), byte x.divider]) ++
        match l.migration with
        | some m => [m.mode.code, (m.target.map fun e => byte e.1).getD 0xFF#8, byte (m.plan.n / 256),
              byte m.plan.n, byte m.plan.d, (m.cls.map fun k => k.code).getD 0xFF#8,
              (m.pin.map fun e => byte e.1).getD 0xFF#8] ++
            m.entries.flatMap fun x => [byte (x.divider / 256), byte x.divider]
        | none => [0x00#8, (l.closingTarget.map fun e => byte e.1).getD 0xFF#8, 0x00#8, 0x00#8, 0x00#8, 0xFF#8,
              0xFF#8] ++ l.entries.flatMap fun _ => [0x00#8, 0x00#8]) ∧
    (∀ (i : SlotId) q, h.slot.toNat = i.1 → h.gen = (s.slot i).gen → (s.slot i).standing = .retired q →
      exec .queryLease s = .next (s.answered p c .ok [h.slot, h.gen, 0x09#8, if q = .B then 0x80#8 else 0#8])) ∧
    ((∀ i : SlotId, h.slot.toNat = i.1 → h.gen = (s.slot i).gen → (s.slot i).standing = .free) →
      exec .queryLease s = .next (s.answered p c .noSuchLease [0#8]))

/-- LOOKUP_TAG answers the handle of the one live lease of the client with the tag, or NOT_FOUND; LIST_CLIENT answers
the handles of the client's live leases in slot order, to the client itself and to client 0. A client above 7 and a
tag of 0 are refused with BAD_ARGUMENT (R21, R22), another client's LIST_CLIENT with NOT_OWNER; that it carries no
position is the model's reading (log entry 10). -/
def Obligations.LookupsAnswer : Prop :=
  ∀ (s : State) (p : Port) (c : HeldCommand), s.Takes p c →
    (∀ x t, c.code = codeLookupTag → readLookupTag c.body = some (x, t) → s.TagsUnique →
      (∀ i l, s.lease? i = some l → l.owner = x → l.tag = some t →
        exec .lookupTag s = .next (s.answered p c .ok [byte i.1, (s.slot i).gen])) ∧
      ((∀ i l, s.lease? i = some l → ¬ (l.owner = x ∧ l.tag = some t)) →
        exec .lookupTag s = .next (s.answered p c .notFound []))) ∧
    (∀ x t1 t0 : Byte, c.code = codeLookupTag → c.body = [x, t1, t0] →
      7 < x.toNat ∨ t1.toNat * 256 + t0.toNat = 0 →
      exec .lookupTag s = .next (s.answered p c .badArgument [0xFF#8])) ∧
    (∀ x : Byte, c.code = codeListClient → c.body = [x] → 7 < x.toNat →
      exec .listClient s = .next (s.answered p c .badArgument [0xFF#8])) ∧
    (∀ x, c.code = codeListClient → readOne 8 c.body = some x →
      (c.client = x ∨ c.client = 0 →
        ∃ is : List SlotId, is.Pairwise (· < ·) ∧
          (∀ i, i ∈ is ↔ ∃ l, s.lease? i = some l ∧ l.owner = x) ∧
          exec .listClient s = .next (s.answered p c .ok
            (byte is.length :: is.flatMap fun i => [byte i.1, (s.slot i).gen]))) ∧
      (c.client ≠ x → c.client ≠ 0 → exec .listClient s = .next (s.answered p c .notOwner [0xFF#8])))

/-- FIND_OUTPUT reports the output's record and its holder's handle, and changes nothing; for an absent holder the
byte after FFh is one free value (the model's own, log entry 8). -/
def Obligations.FindOutputReports : Prop :=
  ∀ (s : State) (p : Port) (c : HeldCommand) (o : OutputId), s.Takes p c → c.code = codeFindOutput →
    readOne 16 c.body = some o →
    (∀ i, (s.output o).holder = some i →
      exec .findOutput s = .next (s.answered p c .ok
        ([byte o.1, (s.output o).state.code] ++ targetBytes (s.output o).state.source ++
          targetBytes (s.output o).state.target ++ targetBytes (s.output o).state.pendingTarget ++
          [byte i.1, (s.slot i).gen]))) ∧
    ((s.output o).holder = none →
      ∃ g, exec .findOutput s = .next (State.answered { s with freeCount := s.freeCount + 1 } p c .ok
        ([byte o.1, (s.output o).state.code] ++ targetBytes (s.output o).state.source ++
          targetBytes (s.output o).state.target ++ targetBytes (s.output o).state.pendingTarget ++
          [0xFF#8, g])))

/-- QUERY_ENGINE reports the engine's record in 20 bytes, QUERY_REFERENCE both inputs and the selection in 13,
READ_CONFIG the eight parameters in 32 and refuses a body that is not empty; none of them changes anything. The bytes
are laid out as R182 gives them. Bits that no field defines are 0 (the model's reading, log entry 9). -/
def Obligations.StandingQueriesReport : Prop :=
  (∀ (s : State) (e : EngineId) (x : EngineRec), x = s.engine e → s.engineBytes e =
    [byte e.1, if e.1 < 4 then 0x00#8 else 0x01#8, x.state.code,
      byte ((x.plan.map Plan.n).getD 0 / 256), byte ((x.plan.map Plan.n).getD 0),
      byte ((x.plan.map Plan.d).getD 0), byte x.users,
      (if x.exclusive then 0x01#8 else 0x00#8) ||| (if x.reserved then 0x02#8 else 0x00#8) |||
        (if x.relock then 0x04#8 else 0x00#8) ||| (if x.kind = .relock then 0x08#8 else 0x00#8),
      x.acquisition.standing.code, byte x.acquisition.elapsed, byte x.acquisition.limit,
      if x.holdover.running then 0x01#8 else 0x00#8, byte (x.holdover.elapsed / 256), byte x.holdover.elapsed,
      if x.linger.running then 0x01#8 else 0x00#8, byte (x.linger.elapsed / 256), byte x.linger.elapsed,
      byte (x.linger.time / 256), byte x.linger.time, faultCode x.fault]) ∧
  (∀ x : InputRec, x.bytes =
    [x.state.code,
      (if x.offset.isSome then 0x01#8 else 0x00#8) ||| (if x.strikes = 1 then 0x02#8 else 0x00#8) |||
        (if x.qualification.running then 0x04#8 else 0x00#8) ||| (if x.interval.running then 0x08#8 else 0x00#8),
      byte ((BitVec.ofInt 16 (x.offset.getD 0)).toNat / 256), byte (BitVec.ofInt 16 (x.offset.getD 0)).toNat,
      byte x.qualification.elapsed, byte x.qualification.period]) ∧
  ∀ (s : State) (p : Port) (c : HeldCommand), s.Takes p c →
    (∀ e, c.code = codeQueryEngine → readOne 6 c.body = some e →
      (s.engineBytes e).length = 20 ∧
      exec .queryEngine s = .next (s.answered p c .ok (s.engineBytes e))) ∧
    (c.code = codeQueryReference → c.body = [] →
      (s.refA.bytes ++ s.refB.bytes ++ [selectionCode s.selection]).length = 13 ∧
      exec .queryReference s =
        .next (s.answered p c .ok (s.refA.bytes ++ s.refB.bytes ++ [selectionCode s.selection]))) ∧
    (c.code = codeReadConfig → c.body = [] →
      exec .readConfig s = .next (s.answered p c .ok
        (bytes4 s.params.nominal ++ bytes4 s.params.window ++ bytes4 s.params.qualPeriod ++
          bytes4 s.params.mode.number ++ bytes4 s.params.priority.number ++ bytes4 s.params.acqLimit ++
          bytes4 s.params.linger ++ bytes4 s.params.holdoverLimit))) ∧
    (c.code = codeReadConfig → c.body ≠ [] →
      exec .readConfig s = .next (s.answered p c .badArgument [0xFF#8]))

/-! ### Notices, interrupts, configuration -/

/-- NOTICES answers the report of its port, laid out as R183 gives it, its entries in ascending slot order (09h is
also the state of an open entry without a lease, which NoticesOk rules out), removes every entry, frees every slot
whose closed entry it reported, and on the supervisor port clears the device notices; leases, engines and outputs
stay. Bits of the report that no field defines are 0 (the model's reading, log entry 9). -/
def Obligations.NoticesReportAndClear : Prop :=
  ∀ (s : State) (p : Port) (c : HeldCommand), s.Takes p c → c.code = codeNotices → c.body = [] →
    (∃ es : List (SlotId × Notice), (es.map Prod.fst).Pairwise (· < ·) ∧
      (∀ (i : SlotId) n, (i, n) ∈ es ↔ (s.port p).notices[i] = some n) ∧
      s.noticesBytes p = byte es.length ::
        es.flatMap (fun x => [byte x.1.1, x.2.gen, byte x.2.count, x.2.reason.code,
          if x.2.closed then 0x09#8 else ((s.lease? x.1).map fun l => l.state.code).getD 0x09#8]) ++
        if s.supervisor = p then
          [0x80#8 ||| (if s.deviceNotices.refInputA then 0x01#8 else 0x00#8) |||
            (if s.deviceNotices.refInputB then 0x02#8 else 0x00#8) |||
            (if s.deviceNotices.refSelection then 0x04#8 else 0x00#8) |||
            (if s.deviceNotices.engineFault then 0x08#8 else 0x00#8) |||
            (if s.deviceNotices.supervisorArrived then 0x10#8 else 0x00#8),
          byte ((List.finRange 6).map fun e : EngineId =>
            if s.deviceNotices.engines[e] = true then 2 ^ e.1 else 0).sum]
        else [0x00#8, 0x00#8]) ∧
    ∃ t, exec .notices s = .next t ∧
      t = { s.answered p c .ok (s.noticesBytes p) with
        portA := t.portA, portB := t.portB, slots := t.slots, deviceNotices := t.deviceNotices } ∧
      t.port p = { (s.answered p c .ok (s.noticesBytes p)).port p with
        notices := Vector.replicate 24 none } ∧
      t.port p.other = s.port p.other ∧
      t.deviceNotices = (if s.supervisor = p then DeviceNotices.initial else s.deviceNotices) ∧
      ∀ i : SlotId, t.slot i =
        (match (s.slot i).standing, (s.port p).notices[i] with
          | .retired _, some n => if n.closed then ⟨(s.slot i).gen + 1, .free⟩ else s.slot i
          | _, _ => s.slot i)

/-- SET_IRQ writes both enables of its own port and nothing else. -/
def Obligations.SetIrqWritesEnables : Prop :=
  ∀ (s : State) (p : Port) (c : HeldCommand) (b : Byte), s.Takes p c → c.code = codeSetIrq →
    c.body = [b] → b.toNat < 4 →
    exec .setIrq s = .next (State.answered
      (s.setPort p { s.port p with noticeEnable := b.getLsbD 0, responseEnable := b.getLsbD 1 })
      p c .ok [b])

/-- A CONFIGURE whose pairs name distinct parameters in range, past the interlock, is answered OK with its parameters
written. A changed nominal frequency begins a new trial of every input that is not ABSENT, with its notice if its
state changes (R140); it, a changed mode and a changed priority re-evaluate the selection under the new values (R136),
which is NONE after the first; where none of the three changes the selection stays. A nonzero holdover limit then
faults every engine that has already run as long in HOLDOVER, with its leases and its notice, and no other engine
(R71); where it faults none, what the re-evaluation hands on is all that changes. Whatever leases count on them, the
engines fault as the rows HOLDOVER_TIMER_LIMIT that FaultDeclared speaks of would have them, one after another in
ascending number (log entry 12: an engine freed by the fault of a lower-numbered one does not fault), but for the
count of a notice, raised once in the one event (log entry 23). That a stopped timer keeps its limit and its time is
the model's reading (log entry 17); that an ABSENT input keeps its last offset, and that a write of the limit in force
is compared too, are its choices (log entries 27 and 28). -/
def Obligations.ConfigureWrites : Prop :=
  ∀ (s : State) (p : Port) (c : HeldCommand) (ps : List (Byte × Nat)), s.Takes p c →
    c.code = codeConfigure → c.client = 0 → readPairs c.body = some ps → 1 ≤ ps.length → ps.length ≤ 8 →
    (∀ x ∈ ps, readParam x.1 x.2 ≠ none) → (ps.map Prod.fst).Nodup →
    ((∀ v, (0x01#8, v) ∈ ps → v = s.params.nominal) ∨ ∀ e, (s.engine e).state.inUse = false) →
    ∃ t b, exec .configure s = .next t ∧
      b = { s.answered p c .ok [] with
        params := t.params, refA := t.refA, refB := t.refB,
        deviceNotices := { s.deviceNotices with
          refInputA := s.deviceNotices.refInputA || decide (t.refA.state ≠ s.refA.state),
          refInputB := s.deviceNotices.refInputB || decide (t.refB.state ≠ s.refB.state) } } ∧
      LeaseWork { b with selection := t.selection } t ∧
      t.params = (paramWrites ps).foldl Params.write s.params ∧
      ((∀ v, (0x01#8, v) ∈ ps → t.params.nominal = v) ∧ (∀ v, (0x02#8, v) ∈ ps → t.params.window = v) ∧
        (∀ v, (0x03#8, v) ∈ ps → t.params.qualPeriod = v) ∧ (∀ v, (0x04#8, v) ∈ ps → t.params.mode.number = v) ∧
        (∀ v, (0x05#8, v) ∈ ps → t.params.priority.number = v) ∧
        (∀ v, (0x06#8, v) ∈ ps → t.params.acqLimit = v) ∧ (∀ v, (0x07#8, v) ∈ ps → t.params.linger = v) ∧
        (∀ v, (0x08#8, v) ∈ ps → t.params.holdoverLimit = v)) ∧
      ((0x01#8 ∉ ps.map Prod.fst → t.params.nominal = s.params.nominal) ∧
        (0x02#8 ∉ ps.map Prod.fst → t.params.window = s.params.window) ∧
        (0x03#8 ∉ ps.map Prod.fst → t.params.qualPeriod = s.params.qualPeriod) ∧
        (0x04#8 ∉ ps.map Prod.fst → t.params.mode = s.params.mode) ∧
        (0x05#8 ∉ ps.map Prod.fst → t.params.priority = s.params.priority) ∧
        (0x06#8 ∉ ps.map Prod.fst → t.params.acqLimit = s.params.acqLimit) ∧
        (0x07#8 ∉ ps.map Prod.fst → t.params.linger = s.params.linger) ∧
        (0x08#8 ∉ ps.map Prod.fst → t.params.holdoverLimit = s.params.holdoverLimit)) ∧
      (∀ r, t.input r =
        if t.params.nominal = s.params.nominal ∨ (s.input r).state = .absent then s.input r
        else { state := .qualifying, offset := none, strikes := 0,
               qualification := ⟨true, 0, 0, t.params.qualPeriod⟩, interval := ⟨true, 0⟩ }) ∧
      (t.params.nominal ≠ s.params.nominal → t.selection = none) ∧
      (t.params.nominal = s.params.nominal → t.params.mode = s.params.mode →
        t.params.priority = s.params.priority →
        t.selection = s.selection ∧ ((∀ e, ¬ s.Overdue ps e) → t = b)) ∧
      (t.params.nominal ≠ s.params.nominal ∨ t.params.mode ≠ s.params.mode ∨
          t.params.priority ≠ s.params.priority →
        t.SelectedBy s.selection ∧ ((∀ e, ¬ s.Overdue ps e) → b.Reselects t)) ∧
      (∀ e, (t.engine e).state = .faulted → (s.engine e).state = .faulted ∨ s.Overdue ps e) ∧
      (s.Sound → ∀ e, s.Overdue ps e →
        (∀ i l, s.lease? i = some l → l.state = .closing ∨ l.state = .migrating → l.countOn e = 0) →
        t.engine e = (s.engine e).faultedWith .holdoverLimit
          (if t.selection ≠ s.selection ∧ t.selection ≠ none then t.params.acqLimit
            else (s.engine e).acquisition.limit) ∧
        t.deviceNotices.engineFault = true ∧ t.deviceNotices.engines[e] = true ∧
        ∀ i l, s.lease? i = some l → l.engine = some e →
          t.slot i = ⟨(s.slot i).gen, .live l.failedByFault⟩ ∧ s.Raised t i l .engineFault false ∧
          ∀ x ∈ l.entries, t.output x.output = { s.output x.output with state := .quiet }) ∧
      ∃ u w : State, u.touched = [] ∧
        (t.params.nominal = s.params.nominal → t.params.mode = s.params.mode →
          t.params.priority = s.params.priority → u = b) ∧
        (t.params.nominal ≠ s.params.nominal ∨ t.params.mode ≠ s.params.mode ∨
          t.params.priority ≠ s.params.priority → b.Reselects u) ∧
        ((∀ v, (0x08#8, v) ∈ ps → v = 0) → w = u) ∧
        (∀ v, (0x08#8, v) ∈ ps → v ≠ 0 → State.LimitsReached (List.finRange 6) u w) ∧
        t = { w with portA := t.portA, portB := t.portB } ∧
        ∀ q, t.port q = { w.port q with notices := (t.port q).notices } ∧
          ∀ i : SlotId, (t.port q).notices[i] = countedOnce (s.port q).notices[i] (w.port q).notices[i]

/-- A CONFIGURE whose first offending pair stands at a position 0 to 7 is refused with it, however long the list, and
one that would change the nominal frequency while an engine is in use with CONFIG_LOCKED and the position of that
pair. -/
def Obligations.ConfigureRefused : Prop :=
  ∀ (s : State) (p : Port) (c : HeldCommand) (ps : List (Byte × Nat)) (k : Nat) (x : Byte × Nat),
    s.Takes p c → c.code = codeConfigure → c.client = 0 → readPairs c.body = some ps → ps[k]? = some x →
    (k < 8 → (∀ (j : Nat) y, j < k → ps[j]? = some y → readParam y.1 y.2 ≠ none) →
      ((ps.take k).map Prod.fst).Nodup →
      (readParam x.1 x.2 = none ∨ x.1 ∈ (ps.take k).map Prod.fst) →
      exec .configure s = .next (s.answered p c .badArgument [byte k])) ∧
    (ps.length ≤ 8 → (∀ y ∈ ps, readParam y.1 y.2 ≠ none) → (ps.map Prod.fst).Nodup → x.1 = 0x01#8 →
      x.2 ≠ s.params.nominal → (∃ e, (s.engine e).state.inUse = true) →
      exec .configure s = .next (s.answered p c .configLocked [byte k]))

/-- SET_CLIENTS writes the masks and the quotas it carries, and answers the client table as it then stands. -/
def Obligations.SetClientsWrites : Prop :=
  ∀ (s : State) (p : Port) (c : HeldCommand) (a : ClientArgs), s.Takes p c → c.code = codeSetClients →
    c.client = 0 → readSetClients c.body = some a →
    ∃ t, exec .setClients s = .next t ∧
      t = State.answered { s with
          portA := { s.portA with mask := a.maskA.getD s.portA.mask },
          portB := { s.portB with mask := a.maskB.getD s.portB.mask }, quotas := t.quotas } p c .ok
        ([a.maskA.getD s.portA.mask, a.maskB.getD s.portB.mask] ++
          (List.finRange 8).map fun d => byte (t.quota d)) ∧
      (∀ x ∈ a.quotas, t.quota x.1 = x.2) ∧
      ∀ d, (∀ x ∈ a.quotas, x.1 ≠ d) → t.quota d = s.quota d

/-- HANDOVER moves the supervisor role, and with it the device-notice set, to the other port, raises
SUPERVISOR_ARRIVED there, answers on the old port, and changes nothing else; client 0 is accepted on the new port
alone from then on. Another client is refused with SUPERVISOR_ONLY, and a body that is not empty with BAD_ARGUMENT
(R172). -/
def Obligations.HandoverMovesRole : Prop :=
  ∀ (s : State) (p : Port) (c : HeldCommand), s.Takes p c → c.code = codeHandover →
    (c.client ≠ 0 → exec .handover s = .next (s.answered p c .supervisorOnly [0xFF#8])) ∧
    (c.client = 0 → c.body ≠ [] → exec .handover s = .next (s.answered p c .badArgument [0xFF#8])) ∧
    (c.client = 0 → c.body = [] → ∃ t, exec .handover s = .next t ∧
      t = State.answered { s with
        supervisor := p.other, deviceNotices := { s.deviceNotices with supervisorArrived := true } } p c .ok
        [if p = .A then 0x01#8 else 0x00#8] ∧
      t.accepts p.other 0 = true ∧ t.accepts p 0 = false)

/-- A SOFT_RESET of either scope frees every slot that is not FREE under its next generation, turns every engine OFF,
makes every output QUIET without a holder and empties both lease-notice sets; scope DEVICE also restores the defaults,
the role, the inputs and the enables, and empties the other port's response and retry store. The response is saved at
once (R176). That the stopped timers of an input have elapsed 0 after scope DEVICE is the model's choice (log entry
25). -/
def Obligations.SoftResetsReset : Prop :=
  ∀ (s : State) (p : Port) (c : HeldCommand), s.Takes p c → c.code = codeSoftReset → c.client = 0 →
    (c.body = [scopeLeases] → ∃ t, exec .softResetLeases s = .next t ∧
      t = { s with
        lastServed := p, touched := [], slots := t.slots, engines := Vector.replicate 6 EngineRec.initial,
        outputs := Vector.replicate 16 OutputRec.initial, portA := t.portA, portB := t.portB } ∧
      (∀ i, t.slot i = if (s.slot i).standing = .free then s.slot i else ⟨(s.slot i).gen + 1, .free⟩) ∧
      t.port p = { s.port p with
        notices := Vector.replicate 24 none,
        exchange := .answered (responseTo c .ok [scopeLeases, portByte s.supervisor]),
        retry := some (responseTo c .ok [scopeLeases, portByte s.supervisor]).saved } ∧
      t.port p.other = { s.port p.other with notices := Vector.replicate 24 none }) ∧
    (c.body = [scopeDevice] → ∃ t, exec .softResetDevice s = .next t ∧
      t = { State.reset with
        rstnLow := s.rstnLow, ready := s.ready, supselPort := s.supselPort, supervisor := s.supselPort,
        lastServed := p, freeCount := s.freeCount, pending := s.pending, slots := t.slots,
        portA := t.portA, portB := t.portB } ∧
      (∀ i, t.slot i = if (s.slot i).standing = .free then s.slot i else ⟨(s.slot i).gen + 1, .free⟩) ∧
      t.port p = { s.port p with
        mask := 0xFE#8, noticeEnable := true, responseEnable := false, notices := Vector.replicate 24 none,
        exchange := .answered (responseTo c .ok [scopeDevice, portByte s.supselPort]),
        retry := some (responseTo c .ok [scopeDevice, portByte s.supselPort]).saved } ∧
      t.port p.other = { s.port p.other with
        mask := 0xFE#8, noticeEnable := true, responseEnable := false, notices := Vector.replicate 24 none,
        exchange := (match (s.port p.other).exchange with
          | .held d => .held d
          | _ => .empty),
        retry := none })

/-- ENGINE_CLEAR makes a FAULTED engine OFF and changes nothing else; in any other state it is refused with
WRONG_STATE and carries the engine's state. Another client is refused with SUPERVISOR_ONLY, and a number above 5 with
BAD_ARGUMENT (R68). That the stopped acquisition timer keeps its limit and the linger timer its time is the model's
reading (log entry 17). -/
def Obligations.EngineClearActsOnFaulted : Prop :=
  ∀ (s : State) (p : Port) (c : HeldCommand) (n : Byte), s.Takes p c → c.code = codeEngineClear →
    c.body = [n] →
    (c.client ≠ 0 → exec .engineClear s = .next (s.answered p c .supervisorOnly [0xFF#8])) ∧
    (c.client = 0 → 5 < n.toNat → exec .engineClear s = .next (s.answered p c .badArgument [0xFF#8])) ∧
    ∀ e : EngineId, c.client = 0 → n.toNat = e.1 →
    ((s.engine e).state = .faulted → ∃ t x, exec .engineClear s = .next t ∧
      t = State.answered (s.setEngine e x) p c .ok [0x00#8] ∧ x.state = .off ∧ x.plan = none ∧
      x.fault = none ∧ x.kind = .first ∧ x.users = (s.engine e).users ∧ x.exclusive = false ∧
      x.reserved = false ∧ x.relock = false ∧ x.holdover = ⟨false, 0, 0⟩ ∧
      x.acquisition = ⟨.stopped, 0, (s.engine e).acquisition.limit⟩ ∧
      x.linger = ⟨false, 0, (s.engine e).linger.time⟩) ∧
    ((s.engine e).state ≠ .faulted →
      exec .engineClear s = .next (s.answered p c .wrongState [0xFF#8, (s.engine e).state.code]))

/-! ### The lease commands -/

/-- An OPEN that passes its nine checks fills the lowest FREE slot, commits the engine found, sets the holders, gives
the outputs their targets where the lease starts at once, and raises no notice. -/
def Obligations.OpenAccepted : Prop :=
  ∀ (s : State) (p : Port) (c : HeldCommand) (a : OpenArgs) (i : SlotId) (e : EngineId)
    (cs : List EngineClass), s.Takes p c → c.code = codeOpen → readOpen c.body = some a →
    s.tagInUse c.client a.tag = false → s.liveCount c.client < s.quota c.client →
    (s.slot i).standing = .free → (∀ j : SlotId, j < i → (s.slot j).standing ≠ .free) →
    cs = eligible s.params.nominal a.cls a.plan.reduce → cs ≠ [] →
    (∀ x ∈ a.entries, a.plan.reduce.outputInRange s.params.nominal x.divider = true) →
    (∀ x ∈ a.entries, (s.output x.output).holder = none) →
    s.ask ⟨a.plan.reduce, cs, a.flags.exclusive, a.pin, none⟩ = .ok e →
    ∃ t st, st = startState (t.isLocked e) a.flags.heldStart ∧ exec .openLease s = .next t ∧
      LeaseWork (s.answered p c .ok [byte i.1, (s.slot i).gen, st.code, byte e.1]) t ∧
      t.deviceNotices = s.deviceNotices ∧ (∀ q, (t.port q).notices = (s.port q).notices) ∧
      t.touched = [] ∧
      t.slot i = ⟨(s.slot i).gen, .live
        { owner := c.client, home := p, tag := a.tag, state := st, plan := a.plan.reduce, cls := a.cls,
          flags := a.flags, pin := a.pin, engine := some e, entries := a.entries, armed := false,
          migration := none, closingTarget := none, reason := .opened }⟩ ∧
      (∀ j, j ≠ i → t.slot j = s.slot j) ∧
      t.engine e = (s.engine e).commit ⟨a.plan.reduce, cs, a.flags.exclusive, a.pin, none⟩
        s.selection.isSome s.params.acqLimit ∧
      (∀ f, f ≠ e → t.engine f = s.engine f) ∧
      (∀ x ∈ a.entries, t.output x.output =
        if st = .starting then { holder := some i, state := (s.output x.output).state.give (.clock e x.divider) }
        else { s.output x.output with holder := some i }) ∧
      ∀ o, o ∉ outputsOf a.entries → t.output o = s.output o

/-- The first check of OPEN that fails gives the status, in the order of R25, with the position of the first entry
that fails. -/
def Obligations.OpenRefusedInOrder : Prop :=
  ∀ (s : State) (p : Port) (c : HeldCommand) (a : OpenArgs), s.Takes p c → c.code = codeOpen →
    readOpen c.body = some a →
    (s.tagInUse c.client a.tag = true →
      exec .openLease s = .next (s.answered p c .tagInUse [0xFF#8])) ∧
    (s.tagInUse c.client a.tag = false →
      (s.quota c.client ≤ s.liveCount c.client →
        exec .openLease s = .next (s.answered p c .quota [0xFF#8])) ∧
      (s.liveCount c.client < s.quota c.client →
        ((∀ i, (s.slot i).standing ≠ .free) →
          exec .openLease s = .next (s.answered p c .tableFull [0xFF#8])) ∧
        ((∃ i, (s.slot i).standing = .free) →
          (eligible s.params.nominal a.cls a.plan.reduce = [] →
            exec .openLease s = .next (s.answered p c .planRange [0xFF#8])) ∧
          (eligible s.params.nominal a.cls a.plan.reduce ≠ [] →
            (∀ (k : Nat) x, a.entries[k]? = some x →
              a.plan.reduce.outputInRange s.params.nominal x.divider = false →
              (∀ (j : Nat) y, j < k → a.entries[j]? = some y →
                a.plan.reduce.outputInRange s.params.nominal y.divider = true) →
              exec .openLease s = .next (s.answered p c .outputRange [byte k])) ∧
            ((∀ x ∈ a.entries, a.plan.reduce.outputInRange s.params.nominal x.divider = true) →
              (∀ (k : Nat) x, a.entries[k]? = some x → (s.output x.output).holder ≠ none →
                (∀ (j : Nat) y, j < k → a.entries[j]? = some y → (s.output y.output).holder = none) →
                exec .openLease s = .next (s.answered p c .outputHeld [byte k])) ∧
              ((∀ x ∈ a.entries, (s.output x.output).holder = none) → ∀ st,
                s.ask ⟨a.plan.reduce, eligible s.params.nominal a.cls a.plan.reduce, a.flags.exclusive,
                  a.pin, none⟩ = .error st →
                exec .openLease s = .next (s.answered p c st [0xFF#8])))))))

/-- An accepted START takes every READY lease of its list to STARTING with its outputs given their listed targets, and
arms every PENDING one; it answers each lease's state, writes no reason, and raises a notice only for a lease started
from another port than its home port. -/
def Obligations.StartMovesLeases : Prop :=
  ∀ (s : State) (p : Port) (c : HeldCommand) (hs : List Handle) (xs : List (SlotId × Lease)),
    s.SoundRun → s.Takes p c → c.code = codeStart → readStart c.body = some hs →
    xs.map some = hs.map s.reach → (∀ x ∈ xs, x.2.ownedBy c.client = true) →
    (∀ x ∈ xs, x.2.startable = true) →
    ∃ t, exec .start s = .next t ∧
      LeaseWork (s.answered p c .ok (xs.map fun x =>
        if x.2.state = .ready then LeaseState.starting.code else LeaseState.pending.code)) t ∧
      t.deviceNotices = s.deviceNotices ∧ t.touched = [] ∧ t.engines = s.engines ∧
      (∀ x ∈ xs, t.lease? x.1 = some (if x.2.state = .ready then { x.2 with state := .starting }
        else { x.2 with armed := true })) ∧
      (∀ i, (t.slot i).gen = (s.slot i).gen) ∧
      (∀ i, (∀ x ∈ xs, x.1 ≠ i) → t.slot i = s.slot i) ∧
      (∀ x ∈ xs, x.2.state = .ready → ∀ y ∈ x.2.entries, ∀ e, x.2.engine = some e →
        t.output y.output = (s.output y.output).given (.clock e y.divider)) ∧
      (∀ o, (∀ x ∈ xs, x.2.state = .ready → o ∉ outputsOf x.2.entries) → t.output o = s.output o) ∧
      (∀ q (i : SlotId), (∀ x ∈ xs, x.1 = i → x.2.state = .ready → x.2.home = q → q = p) →
        (t.port q).notices[i] = (s.port q).notices[i]) ∧
      (∀ x ∈ xs, x.2.state = .ready → x.2.home ≠ p →
        (t.port x.2.home).notices[x.1] =
          some (raisedNotice (s.port x.2.home).notices[x.1] false (s.slot x.1).gen x.2.reason false))

/-- A RETUNE that changes nothing returns SAME_PLAN; on a PENDING or READY lease whose engine still serves, it
rewrites the class, the pin and the divider list, disarms, and keeps state, plan, engine and outputs. -/
def Obligations.RetuneInPlace : Prop :=
  ∀ (s : State) (p : Port) (c : HeldCommand) (a : RetuneArgs) (i : SlotId) (l : Lease) (r : RetuneRequest),
    s.RetuneChecked p c a i l r → l.servedUnder r = true → l.migration = none →
    (l.unchangedBy r = true →
      exec .retune s = .next (s.answered p c .samePlan [l.state.code, 0#8, engineByte l.engine])) ∧
    (l.unchangedBy r = false → l.state = .pending ∨ l.state = .ready →
      ∃ t, exec .retune s = .next t ∧
        LeaseWork (s.answered p c .ok [l.state.code, 0#8, engineByte l.engine]) t ∧
        t.deviceNotices = s.deviceNotices ∧ t.engines = s.engines ∧ t.outputs = s.outputs ∧
        t.touched = [] ∧
        t.slot i = ⟨(s.slot i).gen, .live
          { l with cls := r.cls, pin := r.pin, entries := r.entries, armed := false, reason := .migrated }⟩ ∧
        (∀ j, j ≠ i → t.slot j = s.slot j) ∧
        (∀ q (j : SlotId), l.home = p ∨ q ≠ l.home ∨ j ≠ i →
          (t.port q).notices[j] = (s.port q).notices[j]) ∧
        (l.home ≠ p → (t.port l.home).notices[i] =
          some (raisedNotice (s.port l.home).notices[i] false (s.slot i).gen .migrated false)))

/-- A RETUNE of a PENDING or READY lease off its engine rebinds it to the engine the allocation finds, or is refused
with the allocation's answer. -/
def Obligations.RetuneRebinds : Prop :=
  ∀ (s : State) (p : Port) (c : HeldCommand) (a : RetuneArgs) (i : SlotId) (l : Lease) (r : RetuneRequest)
    (old : EngineId),
    s.RetuneChecked p c a i l r → l.servedUnder r = false → l.state = .pending ∨ l.state = .ready →
    l.migration = none → l.engine = some old →
    (∀ st, s.ask ⟨r.plan, r.classes, l.flags.exclusive, r.pin, some old⟩ = .error st →
      exec .retune s = .next (s.answered p c st [0xFF#8])) ∧
    (∀ e, s.ask ⟨r.plan, r.classes, l.flags.exclusive, r.pin, some old⟩ = .ok e →
      ∃ t st, st = startState (t.isLocked e) l.flags.heldStart ∧ exec .retune s = .next t ∧
        LeaseWork (s.answered p c .ok [st.code, 0#8, byte e.1]) t ∧
        t.deviceNotices = s.deviceNotices ∧ t.touched = [] ∧
        t.slot i = ⟨(s.slot i).gen, .live
          { l with
            state := st, plan := r.plan, cls := r.cls, pin := r.pin, entries := r.entries,
            engine := some e, armed := false, reason := .migrated }⟩ ∧
        (∀ j, j ≠ i → t.slot j = s.slot j) ∧ e ≠ old ∧
        t.engine e = (s.engine e).commit ⟨r.plan, r.classes, l.flags.exclusive, r.pin, some old⟩
          s.selection.isSome s.params.acqLimit ∧
        t.engine old = (s.engine old).dropUser s.params.linger ∧
        (∀ f, f ≠ e → f ≠ old → t.engine f = s.engine f) ∧
        (∀ x ∈ r.entries, t.output x.output =
          if st = .starting then (s.output x.output).given (.clock e x.divider) else s.output x.output) ∧
        (∀ o, o ∉ outputsOf r.entries → t.output o = s.output o) ∧
        (∀ q (j : SlotId), l.home = p ∨ q ≠ l.home ∨ j ≠ i →
          (t.port q).notices[j] = (s.port q).notices[j]) ∧
        (l.home ≠ p → (t.port l.home).notices[i] =
          some (raisedNotice (s.port l.home).notices[i] false (s.slot i).gen .migrated false)))

/-- A RETUNE of an ACTIVE or DISTURBED lease on an engine that still serves begins a LOCAL migration: every output
whose divider changes and that does not head QUIET is given its new divider. It settles in the command where the
settling condition holds at once, and stays MIGRATING otherwise. -/
def Obligations.RetuneLocal : Prop :=
  ∀ (s : State) (p : Port) (c : HeldCommand) (a : RetuneArgs) (i : SlotId) (l : Lease) (r : RetuneRequest)
    (e : EngineId),
    s.RetuneChecked p c a i l r → l.servedUnder r = true → l.unchangedBy r = false →
    l.state = .active ∨ l.state = .disturbed → l.engine = some e →
    ∃ t l', exec .retune s = .next t ∧ t.slot i = ⟨(s.slot i).gen, .live l'⟩ ∧
      LeaseWork (s.answered p c .ok [l'.state.code, l'.modeByte, byte e.1]) t ∧
      t.deviceNotices = s.deviceNotices ∧ t.touched = [] ∧ t.engines = s.engines ∧
      (∀ j, j ≠ i → t.slot j = s.slot j) ∧
      (∀ x ∈ r.entries, t.output x.output =
        if x ∉ l.entries ∧ (s.output x.output).state.heading ≠ .quiet then
          (s.output x.output).given (.clock e x.divider)
        else s.output x.output) ∧
      (∀ o, o ∉ outputsOf r.entries → t.output o = s.output o) ∧
      ((∀ x ∈ r.entries, (t.output x.output).state = .running e x.divider ∨
          ((t.output x.output).state = .quiet ∧ s.isLocked e = false)) →
        l' = { l with
          state := if s.isLocked e then .active else .disturbed, plan := r.plan, cls := r.cls, pin := r.pin,
          entries := r.entries, migration := none, reason := .migrated }) ∧
      ((∃ x ∈ r.entries, (t.output x.output).state ≠ .running e x.divider ∧
          ((t.output x.output).state = .quiet → s.isLocked e = true)) →
        l' = { l with
          state := .migrating, migration := some ⟨.loc, none, r.plan, a.cls, r.pin, r.entries⟩ }) ∧
      (∀ q (j : SlotId), l.home = p ∨ q ≠ l.home ∨ j ≠ i →
        (t.port q).notices[j] = (s.port q).notices[j]) ∧
      (l.home ≠ p → (t.port l.home).notices[i] =
        some (raisedNotice (s.port l.home).notices[i] false (s.slot i).gen l'.reason false))

/-- A RETUNE of an ACTIVE or DISTURBED lease off its engine, where the allocation finds a second engine, begins an
OVERLAP migration to it; the outputs are given their targets there at once if it is LOCKED, and stay as they stand
otherwise. An answer other than NO_ENGINE refuses it. -/
def Obligations.RetuneOverlap : Prop :=
  ∀ (s : State) (p : Port) (c : HeldCommand) (a : RetuneArgs) (i : SlotId) (l : Lease) (r : RetuneRequest)
    (e : EngineId),
    s.Sound → s.RetuneChecked p c a i l r → l.servedUnder r = false →
    l.state = .active ∨ l.state = .disturbed → l.engine = some e → r.pin ≠ some e →
    (∀ st, s.ask ⟨r.plan, r.classes, l.flags.exclusive, r.pin, some e⟩ = .error st → st ≠ .noEngine →
      exec .retune s = .next (s.answered p c st [0xFF#8])) ∧
    ∀ t₀, s.ask ⟨r.plan, r.classes, l.flags.exclusive, r.pin, some e⟩ = .ok t₀ →
    ∃ t, exec .retune s = .next t ∧
      LeaseWork (s.answered p c .ok [0x06#8, 0x02#8, byte t₀.1]) t ∧
      t.deviceNotices = s.deviceNotices ∧ t.touched = [] ∧ t₀ ≠ e ∧
      t.slot i = ⟨(s.slot i).gen, .live { l with
        state := .migrating,
        migration := some ⟨.overlap, some t₀, r.plan, a.cls, r.pin, r.entries⟩ }⟩ ∧
      (∀ j, j ≠ i → t.slot j = s.slot j) ∧
      t.engine t₀ = (s.engine t₀).commit ⟨r.plan, r.classes, l.flags.exclusive, r.pin, some e⟩
        s.selection.isSome s.params.acqLimit ∧
      (∀ f, f ≠ t₀ → t.engine f = s.engine f) ∧
      (∀ x ∈ r.entries, t.output x.output =
        if t.isLocked t₀ then (s.output x.output).given (.clock t₀ x.divider) else s.output x.output) ∧
      (∀ o, o ∉ outputsOf r.entries → t.output o = s.output o) ∧
      (∀ q (j : SlotId), l.home = p ∨ q ≠ l.home ∨ j ≠ i →
        (t.port q).notices[j] = (s.port q).notices[j]) ∧
      (l.home ≠ p → (t.port l.home).notices[i] =
        some (raisedNotice (s.port l.home).notices[i] false (s.slot i).gen l.reason false))

/-- A RETUNE that finds no second engine, or is pinned to its own, is accepted as GAP where the lease may reprogram
its own engine: the engine is reserved and every output given QUIET, or, where all are quiet already, the engine is
reprogrammed at once. Elsewhere it is refused. -/
def Obligations.RetuneGap : Prop :=
  ∀ (s : State) (p : Port) (c : HeldCommand) (a : RetuneArgs) (i : SlotId) (l : Lease) (r : RetuneRequest)
    (e : EngineId),
    s.RetuneChecked p c a i l r → l.servedUnder r = false →
    l.state = .active ∨ l.state = .disturbed → l.engine = some e →
    (r.pin = some e ∨
      s.ask ⟨r.plan, r.classes, l.flags.exclusive, r.pin, some e⟩ = .error .noEngine) →
    (¬ (l.flags.allowGap = true ∧ (s.engine e).users = 1 ∧ classOf e ∈ r.classes ∧
        (r.pin = none ∨ r.pin = some e)) →
      exec .retune s =
        .next (s.answered p c (if r.pin = some e then .engineBusy else .noEngine) [0xFF#8])) ∧
    (l.flags.allowGap = true → (s.engine e).users = 1 → classOf e ∈ r.classes →
      (r.pin = none ∨ r.pin = some e) → EntriesOk l.entries →
      ∃ t l', exec .retune s = .next t ∧ t.slot i = ⟨(s.slot i).gen, .live l'⟩ ∧
        LeaseWork (s.answered p c .okGap [l'.state.code, l'.modeByte, byte e.1]) t ∧
        t.deviceNotices = s.deviceNotices ∧ t.touched = [] ∧ (∀ j, j ≠ i → t.slot j = s.slot j) ∧
        (∀ f, f ≠ e → t.engine f = s.engine f) ∧
        (∀ x ∈ l.entries, t.output x.output = (s.output x.output).given .quiet) ∧
        (∀ o, o ∉ outputsOf l.entries → t.output o = s.output o) ∧
        ((∀ x ∈ l.entries, (s.output x.output).state = .quiet) →
          l' = { l with
            state := .pending, plan := r.plan, cls := r.cls, pin := r.pin, entries := r.entries,
            armed := l.flags.heldStart, migration := none, reason := .migrated } ∧
          t.engine e = (s.engine e).program s.selection.isSome s.params.acqLimit r.plan) ∧
        ((∃ x ∈ l.entries, (s.output x.output).state ≠ .quiet) →
          l' = { l with
            state := .migrating, migration := some ⟨.gap, none, r.plan, a.cls, r.pin, r.entries⟩ } ∧
          t.engine e = { s.engine e with reserved := true }) ∧
        (∀ q (j : SlotId), l.home = p ∨ q ≠ l.home ∨ j ≠ i →
          (t.port q).notices[j] = (s.port q).notices[j]) ∧
        (l.home ≠ p → (t.port l.home).notices[i] =
          some (raisedNotice (s.port l.home).notices[i] false (s.slot i).gen l'.reason false)))

/-- A RELEASE or REVOKE of a lease with every output QUIET frees it at once: the holders clear, each engine it counts
on loses a user, and the slot becomes FREE where a RELEASE came from the home port, RETIRED with a closed notice
elsewhere. -/
def Obligations.QuietLeaseFreed : Prop :=
  ∀ (s : State) (p : Port) (c : HeldCommand) (h : Handle) (i : SlotId) (l : Lease), s.Takes p c →
    readHandle c.body = some h → s.reach h = some (i, l) → l.state ≠ .closing →
    (∀ x ∈ l.entries, (s.output x.output).state = .quiet) →
    ∀ (row : Instr) (r : Reason) (told : Bool),
    ((c.code = codeRelease ∧ l.ownedBy c.client = true ∧ row = .release ∧ r = .released ∧
        told = decide (l.home = p)) ∨
      (c.code = codeRevoke ∧ c.client = 0 ∧ row = .revoke ∧ r = .revoked ∧ told = false)) →
    ∃ t, exec row s = .next t ∧
      LeaseWork (s.answered p c .ok [h.slot, h.gen, 0x09#8, if told then 0x01#8 else 0x02#8]) t ∧
      t.deviceNotices = s.deviceNotices ∧ t.touched = [] ∧
      (∀ j, j ≠ i → t.slot j = s.slot j) ∧
      (∀ x ∈ l.entries, t.output x.output = ⟨none, .quiet⟩) ∧
      (∀ o, o ∉ outputsOf l.entries → t.output o = s.output o) ∧
      (∀ e, l.countOn e = 0 → t.engine e = s.engine e) ∧
      (∀ e, l.countOn e = 1 → t.engine e = (s.engine e).dropUser s.params.linger) ∧
      (told = true → t.slot i = ⟨(s.slot i).gen + 1, .free⟩ ∧ (t.port l.home).notices[i] = none) ∧
      (told = false → t.slot i = ⟨(s.slot i).gen, .retired l.home⟩ ∧
        (t.port l.home).notices[i] =
          some (raisedNotice (s.port l.home).notices[i] false (s.slot i).gen r true)) ∧
      ∀ q (j : SlotId), (q ≠ l.home ∨ j ≠ i) → (t.port q).notices[j] = (s.port q).notices[j]

/-- A RELEASE or REVOKE of a lease with an output running or changing puts it into CLOSING: its migration is
abandoned, an OVERLAP target stays as its closing target, every output is given QUIET and no engine loses a user; a
CLOSING lease is refused with WRONG_STATE. -/
def Obligations.RunningLeaseCloses : Prop :=
  ∀ (s : State) (p : Port) (c : HeldCommand) (h : Handle) (i : SlotId) (l : Lease), s.Takes p c →
    readHandle c.body = some h → s.reach h = some (i, l) →
    ∀ (row : Instr) (r : Reason) (told : Bool),
    ((c.code = codeRelease ∧ l.ownedBy c.client = true ∧ row = .release ∧ r = .released ∧
        told = decide (l.home = p)) ∨
      (c.code = codeRevoke ∧ c.client = 0 ∧ row = .revoke ∧ r = .revoked ∧ told = false)) →
    (l.state = .closing → exec row s = .next (s.answered p c .wrongState [0xFF#8])) ∧
    (l.state ≠ .closing → (∃ x ∈ l.entries, (s.output x.output).state ≠ .quiet) → EntriesOk l.entries →
      ∃ t, exec row s = .next t ∧
        LeaseWork (s.answered p c .ok [h.slot, h.gen, 0x07#8, 0x00#8]) t ∧
        t.deviceNotices = s.deviceNotices ∧ t.touched = [] ∧ t.engines = s.engines ∧
        t.slot i = ⟨(s.slot i).gen, .live { l with
          state := .closing, reason := r, armed := false, migration := none,
          closingTarget := l.migrationTarget }⟩ ∧
        (∀ j, j ≠ i → t.slot j = s.slot j) ∧
        (∀ x ∈ l.entries, t.output x.output = (s.output x.output).given .quiet) ∧
        (∀ o, o ∉ outputsOf l.entries → t.output o = s.output o) ∧
        (∀ q (j : SlotId), told = true ∨ q ≠ l.home ∨ j ≠ i → (t.port q).notices[j] = (s.port q).notices[j]) ∧
        (told = false → (t.port l.home).notices[i] =
          some (raisedNotice (s.port l.home).notices[i] false (s.slot i).gen r false)))

/-- An accepted RETRY brings a FAILED lease back on the engine found, under the plan, class and dividers in force and
the carried pin; in any other state it is refused with WRONG_STATE, then for its outputs, its ranges, and without an
engine with the allocation's answer. The position of a list that names other outputs is the model's reading (log entry
10). -/
def Obligations.RetryRevivesLease : Prop :=
  ∀ (s : State) (p : Port) (c : HeldCommand) (a : RetryArgs) (i : SlotId) (l : Lease) (plan : Plan)
    (cls : LeaseClass) (es : List Entry) (q : AllocRequest), s.Takes p c → c.code = codeRetry →
    readRetry c.body = some a → s.reach a.handle = some (i, l) → l.ownedBy c.client = true →
    plan = (a.plan.map Plan.reduce).getD l.plan → cls = a.cls.getD l.cls → es = a.entries.getD l.entries →
    q = ⟨plan, eligible s.params.nominal cls plan, l.flags.exclusive, a.pin, none⟩ →
    (l.state ≠ .failed → exec .retry s = .next (s.answered p c .wrongState [0xFF#8])) ∧
    (l.state = .failed →
      (∀ k, mismatch 0 es l.entries = some k → exec .retry s = .next (s.answered p c .badArgument [byte k])) ∧
      (outputsOf es = outputsOf l.entries →
        (q.classes = [] → exec .retry s = .next (s.answered p c .planRange [0xFF#8])) ∧
        (q.classes ≠ [] → ∀ (k : Nat) x, es[k]? = some x →
          plan.outputInRange s.params.nominal x.divider = false →
          (∀ (j : Nat) y, j < k → es[j]? = some y → plan.outputInRange s.params.nominal y.divider = true) →
          exec .retry s = .next (s.answered p c .outputRange [byte k])))) ∧
    (l.state = .failed → outputsOf es = outputsOf l.entries → EntriesOk l.entries → q.classes ≠ [] →
      (∀ x ∈ es, plan.outputInRange s.params.nominal x.divider = true) →
      (∀ st, s.ask q = .error st → exec .retry s = .next (s.answered p c st [0xFF#8])) ∧
      ∀ e, s.ask q = .ok e →
        ∃ t st, st = startState (t.isLocked e) l.flags.heldStart ∧ exec .retry s = .next t ∧
          LeaseWork (s.answered p c .ok [st.code, byte e.1]) t ∧
          t.deviceNotices = s.deviceNotices ∧ t.touched = [] ∧
          t.slot i = ⟨(s.slot i).gen, .live
            { l with
              state := st, plan := plan, cls := cls, pin := a.pin, entries := es, engine := some e,
              armed := false, reason := .retried }⟩ ∧
          (∀ j, j ≠ i → t.slot j = s.slot j) ∧
          t.engine e = (s.engine e).commit q s.selection.isSome s.params.acqLimit ∧
          (∀ f, f ≠ e → t.engine f = s.engine f) ∧
          (∀ x ∈ es, t.output x.output =
            if st = .starting then (s.output x.output).given (.clock e x.divider)
            else s.output x.output) ∧
          (∀ o, o ∉ outputsOf es → t.output o = s.output o) ∧
          (∀ q (j : SlotId), l.home = p ∨ q ≠ l.home ∨ j ≠ i →
            (t.port q).notices[j] = (s.port q).notices[j]) ∧
          (l.home ≠ p → (t.port l.home).notices[i] =
            some (raisedNotice (s.port l.home).notices[i] false (s.slot i).gen .retried false)))

/-! ### Resets at the pins -/

/-- A power-on reset and a fall of RSTN put every record at its reset value and make the part NOT_READY; SUPSEL,
sampled at the power-on reset and as RSTN rises, gives the role; the settled oscillator makes the part READY and
changes nothing else. That a frame in progress is dropped, that the role stays until RSTN rises, and that RSTN keeps
its level are the model's reading (log entries 15, 16, 20); that its own record of what SDO showed is emptied, and
that the stopped timers of an input have elapsed 0, are its choices (log entries 14 and 25). -/
def Obligations.PinsReset : Prop :=
  ∀ (s : State) (v : Level), s.touched = [] →
    exec (.powerOnReset v) s = .next { State.reset with
      rstnLow := s.rstnLow, supselPort := strapPort v, supervisor := strapPort v,
      portA := { PortState.initial with csLow := s.portA.csLow },
      portB := { PortState.initial with csLow := s.portB.csLow },
      freeCount := s.freeCount, pending := s.pending } ∧
    (s.rstnLow = false → exec .pinResetAssert s = .next { State.reset with
      rstnLow := true, supselPort := s.supselPort, supervisor := s.supervisor,
      portA := { PortState.initial with csLow := s.portA.csLow },
      portB := { PortState.initial with csLow := s.portB.csLow },
      freeCount := s.freeCount, pending := s.pending }) ∧
    (s.rstnLow = true → exec (.pinResetRelease v) s = .next { s with
      rstnLow := false, supselPort := strapPort v, supervisor := strapPort v }) ∧
    (s.rstnLow = false → exec .oscillatorStable s = .next { s with ready := true }) ∧
    strapPort .low = .A ∧ strapPort .high = .B

/-! ### Frames -/

/-- The fall of chip select takes the data-out pin out of high impedance and fixes the status byte and what a FETCH
will deliver: the response in the buffer, else the empty response, as a frame laid out by R178 that ends in the CRC of
R179. While RSTN is low no frame begins (the model's reading, log entry 15) and the pin stays at high
impedance. -/
def Obligations.ChipSelectFixesFrame : Prop :=
  (∀ r : Response, ∃ bs : List Byte, bs =
    [r.seq.setWidth 8 <<< 4, r.status.code, if r.replayed then 0x01#8 else 0x00#8, byte r.body.length] ++ r.body ∧
    r.frame = bs ++ [crc8 bs]) ∧
  emptyFrame = [0x00#8, 0xFF#8, 0x00#8, 0x00#8, crc8 [0x00#8, 0xFF#8, 0x00#8, 0x00#8]] ∧
  crc8 [] = 0xFF#8 ∧
  (∀ bs b, crc8 (bs ++ [b]) =
    (fun r : Byte => if r.getLsbD 7 = true then (r <<< 1) ^^^ 0x07#8 else r <<< 1)^[8] (crc8 bs ^^^ b)) ∧
  ∀ (s : State) (p : Port), s.touched = [] → (s.port p).csLow = false → s.sdoHighZ p = true ∧
    (s.rstnLow = true → ∃ t,
      exec (.chipSelectFall p) s = .next t ∧ t = s.setPort p { s.port p with csLow := true, frame := none } ∧
      t.sdoHighZ p = true) ∧
    (s.rstnLow = false → ∃ t f, exec (.chipSelectFall p) s = .next t ∧
      t = s.setPort p { s.port p with csLow := true, frame := some f } ∧ t.sdoHighZ p = false ∧
      f.status.getLsbD 7 = s.ready ∧
      (f.status.getLsbD 6 = true ↔ ∃ r, (s.port p).exchange = .answered r) ∧
      (f.status.getLsbD 5 = true ↔ ∃ c, (s.port p).exchange = .held c) ∧
      f.status.getLsbD 4 = s.note p ∧ f.status.getLsbD 3 = decide (s.supervisor = p) ∧
      f.status.extractLsb' 0 3 = (s.port p).frameError.code ∧
      (∀ r, (s.port p).exchange = .answered r → f.delivers = some r ∧ f.out = r.frame) ∧
      ((∀ r, (s.port p).exchange ≠ .answered r) → f.delivers = none ∧ f.out = emptyFrame))

/-- At the end of a frame: a NOP is accepted in either readiness standing; of a NOT_READY part every other kind is
refused with NOT_READY, and of a READY part a kind that names none with BAD_KIND. The refusal writes the frame-error
code alone, beside the model's own record of what SDO showed (log entry 14). The bits of a byte left incomplete are
discarded; a chip-select cycle in which no whole byte was exchanged, and one in which no frame was begun, is not
judged, nor, by the model's reading, is a frame that a reset dropped (log entry 15). -/
def Obligations.FrameFirstChecks : Prop :=
  ∀ (s : State) (p : Port) (rest : List Byte) (bits : List Bool),
    (∀ f, s.InFrame p f →
      exec (.nop p ⟨rest, bits⟩) s = .next ((s.frameEnded p f 0x00#8 rest).setFrameError p .none) ∧
      (s.ready = false →
        exec (.commandFrame p ⟨rest, bits⟩) s =
          .next ((s.frameEnded p f 0x5C#8 rest).setFrameError p .notReady) ∧
        exec (.fetch p ⟨rest, bits⟩) s =
          .next ((s.frameEnded p f 0x3A#8 rest).setFrameError p .notReady) ∧
        exec (.resync p ⟨rest, bits⟩) s =
          .next ((s.frameEnded p f 0xC3#8 rest).setFrameError p .notReady)) ∧
      ∀ k, k ∉ knownKinds → exec (.unknownFrameKind p ⟨k :: rest, bits⟩) s =
        .next ((s.frameEnded p f k rest).setFrameError p (if s.ready then .badKind else .notReady))) ∧
    ((s.port p).csLow = true → ∀ u,
      u = { s.setPort p { s.port p with csLow := false, frame := none, sdo := [] } with touched := [] } →
      exec (.unknownFrameKind p ⟨[], bits⟩) s = .next u ∧
      ((s.port p).frame = none →
        exec (.nop p ⟨rest, bits⟩) s = .next u ∧ exec (.commandFrame p ⟨rest, bits⟩) s = .next u ∧
        exec (.fetch p ⟨rest, bits⟩) s = .next u ∧ exec (.resync p ⟨rest, bits⟩) s = .next u ∧
        exec (.unknownFrameKind p ⟨rest, bits⟩) s = .next u))

/-- A COMMAND frame is judged by the steps of R146: the readiness, the length byte, the whole frame, the CRC, the
exchange standing, the retry store, which answers a repeated frame by replay; one that passes them all is held. That
the exchange judged is the one standing at the rise of chip select, also for a frame begun while the port was HELD
(R149), is the model's choice (log entry 26). Every end of a frame also writes the model's own record of what SDO
showed (log entry 14). -/
def Obligations.CommandFrameJudged : Prop :=
  ∀ (s : State) (p : Port) (f : Frame) (rest : List Byte) (bits : List Bool), s.InFrame p f →
    (s.ready = false →
      exec (.commandFrame p ⟨rest, bits⟩) s = .next ((s.frameEnded p f 0x5C#8 rest).setFrameError p .notReady)) ∧
    (s.ready = true →
    (∀ sc code len tail, rest = sc :: code :: len :: tail → 60 < len.toNat →
      exec (.commandFrame p ⟨rest, bits⟩) s = .next ((s.frameEnded p f 0x5C#8 rest).setFrameError p .badKind)) ∧
    ((rest.length < 3 ∨ ∃ sc code len tail, rest = sc :: code :: len :: tail ∧ len.toNat ≤ 60 ∧
        tail.length ≤ len.toNat) →
      exec (.commandFrame p ⟨rest, bits⟩) s = .next ((s.frameEnded p f 0x5C#8 rest).setFrameError p .frameShort)) ∧
    ∀ sc code len body k extra, rest = sc :: code :: len :: (body ++ k :: extra) →
      body.length = len.toNat → len.toNat ≤ 60 →
      (k ≠ crc8 (0x5C#8 :: sc :: code :: len :: body) →
        exec (.commandFrame p ⟨rest, bits⟩) s =
          .next ((s.frameEnded p f 0x5C#8 rest).setFrameError p .crcError)) ∧
      (k = crc8 (0x5C#8 :: sc :: code :: len :: body) →
        (∀ d, (s.port p).exchange = .held d → exec (.commandFrame p ⟨rest, bits⟩) s =
          .next ((s.frameEnded p f 0x5C#8 rest).setFrameError p .portBusy)) ∧
        (∀ d, (s.port p).exchange = .answered d → exec (.commandFrame p ⟨rest, bits⟩) s =
          .next ((s.frameEnded p f 0x5C#8 rest).setFrameError p .responseUnread)) ∧
        ((s.port p).exchange = .empty →
          (∀ v, (s.port p).retry = some v → v.seq = sc.extractLsb' 4 4 → v.crc ≠ k →
            exec (.commandFrame p ⟨rest, bits⟩) s =
              .next ((s.frameEnded p f 0x5C#8 rest).setFrameError p .seqConflict)) ∧
          (∀ v, (s.port p).retry = some v → v.seq = sc.extractLsb' 4 4 → v.crc = k →
            exec (.commandFrame p ⟨rest, bits⟩) s = .next ((s.frameEnded p f 0x5C#8 rest).setPort p
              { (s.frameEnded p f 0x5C#8 rest).port p with
                frameError := .none, exchange := .answered { v.response with replayed := true } })) ∧
          ((∀ v, (s.port p).retry = some v → v.seq ≠ sc.extractLsb' 4 4) → ∃ c,
            c.seq = sc.extractLsb' 4 4 ∧ c.bit3 = sc.getLsbD 3 ∧ c.client.1 = sc.toNat % 8 ∧
            c.code = code ∧ c.body = body ∧ c.crc = k ∧
            exec (.commandFrame p ⟨rest, bits⟩) s = .next ((s.frameEnded p f 0x5C#8 rest).setPort p
              { (s.frameEnded p f 0x5C#8 rest).port p with
                frameError := .none, exchange := .held c })))))

/-- A FETCH that runs through the CRC byte of the response it delivers, the buffer still holding it, empties the
buffer and saves the exchange; any other FETCH writes the frame-error code NONE alone. What SDO shows is the frame
fixed at its start (the record is the model's own, log entry 14; that "still holding it" compares the records, log
entry 22). -/
def Obligations.FetchDelivers : Prop :=
  ∀ (s : State) (p : Port) (f : Frame) (rest : List Byte) (bits : List Bool), s.InFrame p f → s.ready = true →
    (∀ r, f.delivers = some r → (s.port p).exchange = .answered r → r.frame.length ≤ rest.length →
      exec (.fetch p ⟨rest, bits⟩) s = .next ((s.frameEnded p f 0x3A#8 rest).setPort p
        { (s.frameEnded p f 0x3A#8 rest).port p with
          frameError := .none, exchange := .empty,
          retry := some ⟨r.seq, r.crc, { r with replayed := false }⟩ })) ∧
    ((∀ r, f.delivers = some r → (s.port p).exchange = .answered r → rest.length < r.frame.length) →
      exec (.fetch p ⟨rest, bits⟩) s = .next ((s.frameEnded p f 0x3A#8 rest).setFrameError p .none)) ∧
    (f.shifted 0x3A#8 rest).length = rest.length + 1 ∧
    ∀ k : Nat, k < rest.length → (f.shifted 0x3A#8 rest)[k + 1]? = some (f.out[k]?.getD 0x00#8)

/-- An accepted RESYNC empties its port's exchange, retry store, frame-error code and notices and frees the slots
RETIRED there; of a NOT_READY part it is refused with NOT_READY, a short one with FRAME_SHORT and a wrong check byte
with CRC_ERROR. The end of the frame also writes the model's own record of what SDO showed (log entry 14). -/
def Obligations.ResyncEmptiesPort : Prop :=
  ∀ (s : State) (p : Port) (f : Frame) (rest : List Byte) (bits : List Bool), s.InFrame p f →
    (s.ready = false →
      exec (.resync p ⟨rest, bits⟩) s = .next ((s.frameEnded p f 0xC3#8 rest).setFrameError p .notReady)) ∧
    (s.ready = true →
    (rest = [] →
      exec (.resync p ⟨rest, bits⟩) s = .next ((s.frameEnded p f 0xC3#8 rest).setFrameError p .frameShort)) ∧
    (∀ k tail, rest = k :: tail → k ≠ 0x3C#8 →
      exec (.resync p ⟨rest, bits⟩) s = .next ((s.frameEnded p f 0xC3#8 rest).setFrameError p .crcError)) ∧
    (∀ tail, rest = 0x3C#8 :: tail → ∃ t, exec (.resync p ⟨rest, bits⟩) s = .next t ∧
      t = { s with
        touched := [], portA := t.portA, portB := t.portB, slots := t.slots,
        deviceNotices := if s.supervisor = p then DeviceNotices.initial else s.deviceNotices } ∧
      t.port p = { (s.frameEnded p f 0xC3#8 rest).port p with
        exchange := .empty, retry := none, frameError := .none, notices := Vector.replicate 24 none } ∧
      t.port p.other = s.port p.other ∧
      ∀ i, t.slot i = if (s.slot i).standing = .retired p then ⟨(s.slot i).gen + 1, .free⟩ else s.slot i))

/-- NOTE is set while the port has a lease notice, or holds the role while a device notice is present; the port's IRQ
line is asserted, of a READY part, while the notice enable is on and NOTE is set or the response enable is on and the
port is ANSWERED, and released otherwise (R166). Both are read from the state, so they follow it in every event. -/
def Obligations.InterruptLinesFollow : Prop :=
  ∀ (s : State) (p : Port),
    (s.note p = true ↔
      (∃ (i : SlotId) (n : Notice), (s.port p).notices[i] = some n) ∨
      (s.supervisor = p ∧ (s.deviceNotices.refInputA = true ∨ s.deviceNotices.refInputB = true ∨
        s.deviceNotices.refSelection = true ∨ s.deviceNotices.engineFault = true ∨
        s.deviceNotices.supervisorArrived = true))) ∧
    (s.irqAsserted p = true ↔
      s.ready = true ∧ (((s.port p).noticeEnable = true ∧ s.note p = true) ∨
        ((s.port p).responseEnable = true ∧ ∃ r, (s.port p).exchange = .answered r)))

/-! ### Background events -/

/-- A lock-achieved of an engine that acquires or relocks makes it LOCKED. It takes every PENDING lease on it to
READY, or to STARTING with its outputs given their listed targets (R35); a DISTURBED lease to ACTIVE with reason
RELOCKED where all its outputs run at their listed sources, and gives those that do not their listed targets
elsewhere, writing no reason (R39); and a MIGRATING lease the targets of R97 and R99, settling it where its outputs
have all arrived (R97, R101). A CLOSING lease, and one that does not name the engine, keeps its slot, its notices and
its outputs (R114). An engine that an OVERLAP or GAP migration leaves as it settles is not spoken of. The premise is
SoundRun, by which a GAP lease's engine is reserved and so has no other user. An engine in any other standing ignores
it, one in OFF, FAULTED or WAITING by the model's choice (log entry 2). That the stopped acquisition timer keeps its
limit is the model's reading (log entry 17). -/
def Obligations.LockStartsPendingLeases : Prop :=
  ∀ (s : State) (e : EngineId), s.SoundRun → s.touched = [] →
    (((s.engine e).state = .acquiring ∧ (s.engine e).acquisition.standing = .running) ∨
        ((s.engine e).state = .holdover ∧ (s.engine e).relock = true) →
      ∃ t, exec (.lockAchieved e) s = .next t ∧ LeaseWork s t ∧ t.deviceNotices = s.deviceNotices ∧
        (∀ f, s.NoneSettledOff t f → t.engine f =
          if f = e then { s.engine e with
            state := .locked, kind := .relock,
            acquisition := ⟨.stopped, 0, (s.engine e).acquisition.limit⟩, holdover := ⟨false, 0, 0⟩,
            relock := false }
          else s.engine f) ∧
        (∀ i l, s.lease? i = some l → l.state = .pending → l.engine = some e →
          t.slot i = ⟨(s.slot i).gen, .live
            (if l.flags.heldStart = true ∧ l.armed = false then { l with state := .ready, reason := .locked }
            else { l with state := .starting, armed := false, reason := .locked })⟩ ∧
          (∀ x ∈ l.entries, t.output x.output =
            if l.flags.heldStart = true ∧ l.armed = false then s.output x.output
            else (s.output x.output).given (.clock e x.divider)) ∧
          s.Raised t i l .locked false) ∧
        (∀ i l, s.lease? i = some l → l.state = .disturbed → l.engine = some e →
          ((∀ x ∈ l.entries, (s.output x.output).state = .running e x.divider) →
            t.slot i = ⟨(s.slot i).gen, .live { l with state := .active, reason := .relocked }⟩ ∧
            s.Raised t i l .relocked false) ∧
          ((∃ x ∈ l.entries, (s.output x.output).state ≠ .running e x.divider) → s.SlotKept t i) ∧
          ∀ x ∈ l.entries, t.output x.output =
            if (s.output x.output).state = .running e x.divider then s.output x.output
            else (s.output x.output).given (.clock e x.divider)) ∧
        (∀ i l m, s.lease? i = some l → l.state = .migrating → l.migration = some m →
          l.engine = some e ∨ m.target = some e →
          (m.mode = .loc → ∀ x ∈ m.entries, t.output x.output =
            if (s.output x.output).state = .running e x.divider then s.output x.output
            else (s.output x.output).given (.clock e x.divider)) ∧
          (m.target = some e → ∀ x ∈ m.entries, t.output x.output =
            if (s.output x.output).state.heading = .clock e x.divider then s.output x.output
            else (s.output x.output).given (.clock e x.divider)) ∧
          (∀ g, m.target = some g → g ≠ e → ∀ x ∈ l.entries, t.output x.output =
            if (s.engine g).state ≠ .locked ∧ (s.output x.output).state.heading = .quiet then
              (s.output x.output).given (.clock e x.divider)
            else s.output x.output) ∧
          (m.mode = .gap → ∀ x ∈ l.entries, t.output x.output = s.output x.output) ∧
          (¬ t.AtGoal l m → s.SlotKept t i) ∧
          (t.AtGoal l m → m.mode = .loc ∨ m.target = some e →
            t.slot i = ⟨(s.slot i).gen, .live (l.migrated m true)⟩ ∧ s.Raised t i l .migrated false)) ∧
        (∀ i, (∀ l, s.lease? i = some l → l.countOn e = 0 ∨ l.state = .closing) → s.SlotKept t i ∧
          ∀ l, s.lease? i = some l → ∀ x ∈ l.entries, t.output x.output = s.output x.output)) ∧
    (¬ ((s.engine e).state = .acquiring ∧ (s.engine e).acquisition.standing = .running) →
      ¬ ((s.engine e).state = .holdover ∧ (s.engine e).relock = true) →
      exec (.lockAchieved e) s = .next s)

/-- A lock-lost of a LOCKED engine slips it: its READY leases go to PENDING, its STARTING, ACTIVE and DISTURBED leases
are DISTURBED, and under SLIP_MUTE their outputs are given QUIET (R37). A MIGRATING lease that names it stays so with
reason SLIP and, under SLIP_MUTE, its outputs are given QUIET, in OVERLAP those that head the engine alone; a LOCAL
one whose outputs all run at their new dividers or are quiet settles DISTURBED (R97, R100). A CLOSING lease, and one
that does not name the engine, keeps its slot, its notices and its outputs (R114). An engine that an OVERLAP or GAP
migration leaves as it settles is not spoken of. Engines in ACQUIRING and
HOLDOVER ignore it, those in OFF and FAULTED by the model's choice (log entry 2). -/
def Obligations.SlipDisturbsLeases : Prop :=
  ∀ (s : State) (e : EngineId), s.Sound → s.touched = [] →
    ((s.engine e).state = .locked →
      ∃ t, exec (.lockLost e) s = .next t ∧ LeaseWork s t ∧ t.deviceNotices = s.deviceNotices ∧
        (∀ f, s.NoneSettledOff t f → t.engine f =
          if f = e then { s.engine e with
            state := .acquiring, kind := .relock, acquisition := ⟨.running, 0, s.params.acqLimit⟩ }
          else s.engine f) ∧
        (∀ i l, s.lease? i = some l → l.engine = some e →
          l.state = .ready ∨ l.state = .starting ∨ l.state = .active ∨ l.state = .disturbed →
          t.slot i = ⟨(s.slot i).gen, .live { l with
            state := if l.state = .ready then .pending else .disturbed, reason := .slip }⟩ ∧
          (∀ x ∈ l.entries, t.output x.output =
            if l.state ≠ .ready ∧ l.flags.slipMute = true then (s.output x.output).given .quiet
            else s.output x.output) ∧
          s.Raised t i l .slip false) ∧
        (∀ i l m, s.lease? i = some l → l.state = .migrating → l.migration = some m →
          l.engine = some e ∨ m.target = some e →
          (∀ x ∈ l.entries, t.output x.output =
            if l.flags.slipMute = true ∧ (m.mode = .loc ∨
                (m.mode = .overlap ∧ (s.output x.output).state.heading.isOn e = true)) then
              (s.output x.output).given .quiet
            else s.output x.output) ∧
          (¬ t.AtGoal l m → t.slot i = ⟨(s.slot i).gen, .live { l with reason := .slip }⟩ ∧
            s.Raised t i l .slip false) ∧
          (t.AtGoal l m → m.mode = .loc → t.slot i = ⟨(s.slot i).gen, .live (l.migrated m false)⟩ ∧
            s.Raised t i l .migrated false)) ∧
        (∀ i, (∀ l, s.lease? i = some l → l.countOn e = 0 ∨ l.state = .closing) → s.SlotKept t i ∧
          ∀ l, s.lease? i = some l → ∀ x ∈ l.entries, t.output x.output = s.output x.output)) ∧
    ((s.engine e).state = .acquiring ∨ (s.engine e).state = .holdover ∨ (s.engine e).state = .off ∨
      (s.engine e).state = .faulted → exec (.lockLost e) s = .next s)

/-- The expiry of the linger timer, at any elapsed value (the model's choice, log entry 4), like a lock-lost, turns a
LINGERING engine OFF with its plan cleared, and changes nothing else; of an engine that does not linger the expiry
does nothing (the model's choice, log entry 2). That the stopped acquisition timer keeps its limit and the linger
timer its time is its reading (log entry 17). -/
def Obligations.LingeringEngineTurnsOff : Prop :=
  ∀ (s : State) (e : EngineId), s.touched = [] →
    ((s.engine e).state = .lingering → ∃ x : EngineRec,
      x = { (s.engine e) with
        state := .off, plan := none, exclusive := false, reserved := false, kind := .first,
        acquisition := ⟨.stopped, 0, (s.engine e).acquisition.limit⟩, holdover := ⟨false, 0, 0⟩,
        relock := false, linger := ⟨false, 0, (s.engine e).linger.time⟩, fault := none } ∧
      exec (.lingerTimerExpiry e) s = .next (s.setEngine e x) ∧
      exec (.lockLost e) s = .next (s.setEngine e x)) ∧
    ((s.engine e).state ≠ .lingering → exec (.lingerTimerExpiry e) s = .next s)

/-- The expiry of a running acquisition timer (at any elapsed value, log entry 4), and the holdover timer's reaching
the limit that then stands, fault the engine (R66): it keeps its plan, has no user and no reservation, ENGINE_FAULT
names it, and every output tied to it is forced quiet (R83). Of the leases that name it, one in OVERLAP whose source
it is stays MIGRATING toward its target (R102); one whose target it is falls back on its source, or is FAILED where
that is gone (R103); a CLOSING one stops naming it, and is freed where all its outputs are quiet (R119), its other
engine losing that user (R57); every other lease that names it is FAILED (R117). No other engine changes. A timer that has not
reached a nonzero limit faults nothing (R51, R71), nor does the expiry of a timer that does not run (the model's
choice, log entry 2). That the stopped timers keep their limit and their time is the model's reading (log entry 17).
-/
def Obligations.FaultDeclared : Prop :=
  ∀ (s : State) (e : EngineId), s.touched = [] →
    (¬ ((s.engine e).state = .holdover ∧ s.params.holdoverLimit ≠ 0 ∧
        s.params.holdoverLimit ≤ (s.engine e).holdover.elapsed) →
      exec (.holdoverTimerLimit e) s = .next s) ∧
    (¬ ((s.engine e).state = .acquiring ∧ (s.engine e).acquisition.standing = .running) →
      ¬ ((s.engine e).state = .holdover ∧ (s.engine e).relock = true) →
      exec (.acquisitionTimerExpiry e) s = .next s) ∧
    ∀ (row : Instr) (r : FaultReason), s.Sound →
    ((row = .acquisitionTimerExpiry e ∧ (s.engine e).state = .acquiring ∧
        (s.engine e).acquisition.standing = .running ∧
        r = if (s.engine e).kind = .first then .lockTimeout else .relockTimeout) ∨
      (row = .acquisitionTimerExpiry e ∧ (s.engine e).state = .holdover ∧ (s.engine e).relock = true ∧
        r = .relockTimeout) ∨
      (row = .holdoverTimerLimit e ∧ (s.engine e).state = .holdover ∧ s.params.holdoverLimit ≠ 0 ∧
        s.params.holdoverLimit ≤ (s.engine e).holdover.elapsed ∧ r = .holdoverLimit)) →
    ∃ t, exec row s = .next t ∧ LeaseWork s t ∧
      t.engine e = (s.engine e).faultedWith r (s.engine e).acquisition.limit ∧
      (∀ f, f ≠ e →
        t.engine f = (EngineRec.dropUser s.params.linger)^[s.freedWith e f] (s.engine f)) ∧
      t.deviceNotices = { s.deviceNotices with
        engineFault := true, engines := s.deviceNotices.engines.set e.1 true e.2 } ∧
      (∀ o, (t.output o).state.tiedTo e = false) ∧
      (∀ o, (s.output o).state.tiedTo e = true → ∀ i l, (s.output o).holder = some i →
        s.lease? i = some l → l.state ≠ .migrating → (t.output o).state = .quiet) ∧
      (∀ i l, s.lease? i = some l → l.engine = some e → l.state ≠ .closing → l.migrationTarget = none →
        t.slot i = ⟨(s.slot i).gen, .live l.failedByFault⟩ ∧ s.Raised t i l .engineFault false ∧
        ∀ x ∈ l.entries, t.output x.output = { s.output x.output with state := .quiet }) ∧
      (∀ i l m g, s.lease? i = some l → l.state = .migrating → l.migration = some m → m.target = some g →
        l.engine = some e →
        (∀ x ∈ m.entries, t.output x.output =
          if (s.engine g).state = .locked ∧
              ((s.output x.output).forced e).state.heading ≠ .clock g x.divider then
            ((s.output x.output).forced e).given (.clock g x.divider)
          else (s.output x.output).forced e) ∧
        (¬ t.AtGoal l m → t.slot i = ⟨(s.slot i).gen, .live { l with engine := none, reason := .engineFault }⟩ ∧
          s.Raised t i l .engineFault false) ∧
        (t.AtGoal l m → t.slot i = ⟨(s.slot i).gen, .live (l.migrated m (s.isLocked g))⟩ ∧
          s.Raised t i l .migrated false)) ∧
      (∀ i l m, s.lease? i = some l → l.state = .migrating → l.migration = some m → m.target = some e →
        (l.engine = none →
          t.slot i = ⟨(s.slot i).gen, .live l.failedByFault⟩ ∧ s.Raised t i l .engineFault false ∧
          ∀ x ∈ l.entries, t.output x.output = { s.output x.output with state := .quiet }) ∧
        (∀ g, l.engine = some g →
          (∃ st : LeaseState,
            t.slot i = ⟨(s.slot i).gen, .live
              { l with migration := none, state := st, reason := .migrationFailed }⟩ ∧
            s.Raised t i l .migrationFailed false ∧
            ((s.engine g).state ≠ .locked → st = .disturbed) ∧
            ((s.engine g).state = .locked →
              ((∀ x ∈ l.entries, (s.output x.output).state = .running g x.divider) → st = .active) ∧
              ((∃ x ∈ l.entries, (s.output x.output).state ≠ .running g x.divider) → st = .starting))) ∧
          ∀ x ∈ l.entries, t.output x.output =
            if (s.engine g).state = .locked ∧
                ((s.output x.output).forced e).state ≠ .running g x.divider then
              ((s.output x.output).forced e).given (.clock g x.divider)
            else (s.output x.output).forced e)) ∧
      (∀ i l, s.lease? i = some l → l.state = .closing → l.engine = some e ∨ l.closingTarget = some e →
        ((∃ x ∈ l.entries, ((s.output x.output).forced e).state ≠ .quiet) →
          t.slot i = ⟨(s.slot i).gen, .live { l with
            engine := if l.engine = some e then none else l.engine,
            closingTarget := if l.closingTarget = some e then none else l.closingTarget }⟩ ∧
          (∀ p, (t.port p).notices[i] = (s.port p).notices[i]) ∧
          ∀ x ∈ l.entries, t.output x.output = (s.output x.output).forced e) ∧
        ((∀ x ∈ l.entries, ((s.output x.output).forced e).state = .quiet) →
          t.slot i = ⟨(s.slot i).gen, .retired l.home⟩ ∧ s.Raised t i l l.reason true ∧
          ∀ x ∈ l.entries, t.output x.output = ⟨none, .quiet⟩)) ∧
      ∀ i l, s.lease? i = some l → l.countOn e = 0 → t.slot i = s.slot i ∧
        ∀ x ∈ l.entries, t.output x.output = s.output x.output

/-- A changeover-done gives the output its target and begins the changeover to a pending target (R78), and is reported
to the lease that holds it. That takes a STARTING lease whose outputs all run at their listed sources to ACTIVE with
reason STARTED (R36), a DISTURBED one of a LOCKED engine so with RELOCKED (R40); it settles a MIGRATING lease whose
outputs have arrived: LOCAL (R97), OVERLAP, the source losing a user (R101), or GAP, the engine being reprogrammed
(R105); and it frees a CLOSING lease whose outputs are all quiet (R115). Every other completion changes the output
alone. An output without a changeover in flight has none to complete (the model's choice, log entry 2). -/
def Obligations.CompletionTakesTarget : Prop :=
  ∀ (s : State) (o : OutputId), s.touched = [] →
    ((s.output o).state.isChanging = false → exec (.changeoverDone o) s = .next s) ∧
    (∀ source target waiting, (s.output o).state = .changing source target waiting →
      ∃ t u, exec (.changeoverDone o) s = .next t ∧ LeaseWork s t ∧ t.deviceNotices = s.deviceNotices ∧
        u = s.setOutput o { s.output o with state :=
          (match waiting with
          | some w => .changing target w none
          | none => match target with
            | .quiet => .quiet
            | .clock e q => .running e q) } ∧
        (∀ b, (t.output b).state = (u.output b).state) ∧
        ((∀ i l, (s.output o).holder = some i → s.lease? i ≠ some l) → t = u) ∧
        (∀ j, (s.output o).holder ≠ some j → s.SlotKept t j) ∧
        ∀ i l, (s.output o).holder = some i → s.lease? i = some l →
          (l.state = .pending ∨ l.state = .ready ∨ l.state = .active ∨ l.state = .failed → t = u) ∧
          (∀ e, l.state = .starting → l.engine = some e →
            ((∀ x ∈ l.entries, (u.output x.output).state = .running e x.divider) →
              t.outputs = u.outputs ∧ t.engines = s.engines ∧ s.Raised t i l .started false ∧
              t.slot i = ⟨(s.slot i).gen, .live { l with state := .active, reason := .started }⟩) ∧
            ((∃ x ∈ l.entries, (u.output x.output).state ≠ .running e x.divider) → t = u)) ∧
          (∀ e, l.state = .disturbed → l.engine = some e →
            ((s.engine e).state = .locked →
              (∀ x ∈ l.entries, (u.output x.output).state = .running e x.divider) →
              t.outputs = u.outputs ∧ t.engines = s.engines ∧ s.Raised t i l .relocked false ∧
              t.slot i = ⟨(s.slot i).gen, .live { l with state := .active, reason := .relocked }⟩) ∧
            ((s.engine e).state ≠ .locked ∨
              (∃ x ∈ l.entries, (u.output x.output).state ≠ .running e x.divider) → t = u)) ∧
          (∀ m, l.state = .migrating → l.migration = some m →
            (¬ u.AtGoal l m → t = u) ∧
            (∀ g, u.AtGoal l m → (if m.mode = .overlap then m.target else l.engine) = some g →
              (m.mode = .overlap → m.target ≠ l.engine) →
              t.outputs = u.outputs ∧ s.Raised t i l .migrated false ∧
              t.slot i = ⟨(s.slot i).gen, .live (l.migrated m (s.isLocked g))⟩ ∧
              ∀ f, t.engine f = if l.engine = some f then
                  (match m.mode with
                  | .loc => s.engine f
                  | .overlap => (s.engine f).dropUser s.params.linger
                  | .gap => (s.engine f).program s.selection.isSome s.params.acqLimit m.plan)
                else s.engine f)) ∧
          (l.state = .closing →
            ((∃ x ∈ l.entries, (u.output x.output).state ≠ .quiet) → t = u) ∧
            ((∀ x ∈ l.entries, (u.output x.output).state = .quiet) →
              t.slot i = ⟨(s.slot i).gen, .retired l.home⟩ ∧ s.Raised t i l l.reason true ∧
              (∀ x ∈ l.entries, t.output x.output = ⟨none, .quiet⟩) ∧
              (∀ b, b ∉ outputsOf l.entries → t.output b = u.output b) ∧
              (∀ e, l.countOn e = 0 → t.engine e = s.engine e) ∧
              ∀ e, l.countOn e = 1 → t.engine e = (s.engine e).dropUser s.params.linger)))

/-- Edges on an ABSENT input begin its trial (R127, R129), and their loss makes any other input ABSENT with its last
offset kept (R132); each raises the input's device notice and re-evaluates the selection (R133), with all that a
change of it does to engines and leases (R50, R38), and leaves the other input alone. Edges on an input that has them,
and their loss on one that has none, change nothing (the model's choice, log entry 2). That the stopped qualification
timer keeps its period, and that the stopped measurement interval has elapsed 0, is the model's (log entries 17 and
25). -/
def Obligations.ActivityEvents : Prop :=
  ∀ (s : State) (r : RefInput), s.ready = true → s.touched = [] →
    ((s.input r).state = .absent → ∃ t, exec (.activityStart r) s = .next t ∧
      ((s.setInput r { state := .qualifying, offset := (s.input r).offset, strikes := 0,
                       qualification := ⟨true, 0, 0, s.params.qualPeriod⟩,
                       interval := ⟨true, 0⟩ }).raiseRefInput r).Reselects t ∧
      t.input r.other = s.input r.other ∧ t.SelectionValid ∧
      (match r with
        | .refA => t.deviceNotices.refInputA = true
        | .refB => t.deviceNotices.refInputB = true)) ∧
    ((s.input r).state ≠ .absent → ∃ t, exec (.activityLoss r) s = .next t ∧
      ((s.setInput r { state := .absent, offset := (s.input r).offset, strikes := 0,
                       qualification := ⟨false, 0, 0, (s.input r).qualification.period⟩,
                       interval := ⟨false, 0⟩ }).raiseRefInput r).Reselects t ∧
      t.input r.other = s.input r.other ∧ t.selection ≠ some r ∧
      (match r with
        | .refA => t.deviceNotices.refInputA = true
        | .refB => t.deviceNotices.refInputB = true)) ∧
    ((s.input r).state ≠ .absent → exec (.activityStart r) s = .next s) ∧
    ((s.input r).state = .absent → exec (.activityLoss r) s = .next s)

/-- A measurement writes the offset, that of ten times the edges counted in hertz (log entry 13), rounded toward zero,
and is judged by the window: a first bad one strikes a VALID input, a second disqualifies it, one ends a trial, and a
good one starts a trial of a DISQUALIFIED input (R128 to R131); the expiry of the qualification timer makes a
QUALIFYING input VALID (R129). Where the input's state changes its notice is raised and the selection re-evaluated
(R133), with all that a change of it does to engines and leases (R50, R38); where it does not, the input alone
changes. That both rows act at any elapsed value of the interval and of the timer is the model's choice (log entry 4),
that a stopped qualification timer keeps its period its reading (log entry 17). -/
def Obligations.MeasurementJudged : Prop :=
  ∀ (s : State) (r : RefInput) (n : Nat) (off : Int), s.ready = true →
    off = measuredOffset s.params.nominal n → -32768 ≤ off ∧ off ≤ 32767 ∧
    (s.params.nominal ≤ 10 * n →
      off = min 32767 ((10 * n - s.params.nominal) * 1000000 / s.params.nominal : Nat)) ∧
    (10 * n ≤ s.params.nominal →
      off = -(min 32768 ((s.params.nominal - 10 * n) * 1000000 / s.params.nominal : Nat))) ∧
    ((s.input r).state ≠ .absent → ∃ t, exec (.measurement r n) s = .next t ∧
      t.input r.other = s.input r.other ∧ t.params = s.params ∧
      (t.input r).offset = some off ∧ (t.input r).interval = ⟨true, 0⟩ ∧
      ((t.input r).state = (s.input r).state → t = { s.setInput r (t.input r) with touched := [] }) ∧
      ((t.input r).state ≠ (s.input r).state →
        State.Reselects { (s.setInput r (t.input r)).raiseRefInput r with touched := [] } t) ∧
      (off.natAbs ≤ s.params.window →
        ((s.input r).state = .valid → (t.input r).state = .valid ∧ (t.input r).strikes = 0) ∧
        ((s.input r).state = .qualifying → (t.input r).state = .qualifying ∧
          (t.input r).qualification = (s.input r).qualification) ∧
        ((s.input r).state = .disqualified → (t.input r).state = .qualifying ∧
          (t.input r).strikes = 0 ∧ (t.input r).qualification = ⟨true, 0, 0, s.params.qualPeriod⟩)) ∧
      (s.params.window < off.natAbs →
        ((s.input r).state = .valid → (s.input r).strikes = 0 →
          (t.input r).state = .valid ∧ (t.input r).strikes = 1 ∧ t.selection = s.selection) ∧
        ((s.input r).state = .valid → (s.input r).strikes ≠ 0 →
          (t.input r).state = .disqualified ∧ (t.input r).strikes = 0 ∧ t.selection ≠ some r) ∧
        ((s.input r).state = .qualifying → (t.input r).state = .disqualified ∧
          (t.input r).qualification = ⟨false, 0, 0, (s.input r).qualification.period⟩) ∧
        ((s.input r).state = .disqualified → (t.input r).state = .disqualified))) ∧
    ((s.input r).state = .qualifying → ∃ t, exec (.qualificationTimerExpiry r) s = .next t ∧
      (t.input r).state = .valid ∧ (t.input r).strikes = 0 ∧
      (t.input r).qualification = ⟨false, 0, 0, (s.input r).qualification.period⟩ ∧
      t.input r.other = s.input r.other ∧
      State.Reselects { (s.setInput r (t.input r)).raiseRefInput r with touched := [] } t ∧
      (s.params.mode = .autoRevert → s.params.priority.first = r → t.selection = some r))

/-! ### Shared operations -/

/-- A target given to an output: what equals its standing, or its changeover's target, changes nothing but clears a
pending target; any other begins a changeover, or waits behind the one in flight; the output then heads the target. -/
def Obligations.TargetGiven : Prop :=
  (∀ t, OutState.give t .quiet = if t = .quiet then .quiet else .changing .quiet t none) ∧
  (∀ t e q, OutState.give t (.running e q) =
    if t = .clock e q then .running e q else .changing (.clock e q) t none) ∧
  (∀ t src tgt w, OutState.give t (.changing src tgt w) =
    if t = tgt then .changing src tgt none else .changing src tgt (some t)) ∧
  (∀ src tgt w, (OutState.changing src tgt (some w)).heading = w) ∧
  (∀ src tgt, (OutState.changing src tgt none).heading = tgt) ∧
  (∀ e q, (OutState.running e q).heading = .clock e q) ∧ OutState.quiet.heading = .quiet ∧
  (∀ t st, (OutState.give t st).heading = t) ∧
  (∀ st : OutState, ∃ n : Nat, n ≤ 2 ∧ (OutState.complete^[n] st) =
    (match st.heading with
      | .quiet => .quiet
      | .clock e q => .running e q))

/-- An engine that answers an allocation request can serve it. A pinned request is answered by the first case of R59
that applies: PLAN_RANGE out of class; ENGINE_BUSY of an engine FAULTED, reserved or excluded; the engine where it is
OFF, LINGERING or may be shared; ENGINE_BUSY otherwise. An unpinned request is answered by the first candidate of the
first pass that any candidate satisfies; NO_ENGINE comes only when none satisfies any (R60). The engine taken gains a
user, and the exclusive mark if the request is EXCLUSIVE: OFF, or LINGERING under another plan, it is given the plan
and acquires; LINGERING under an equal plan it is LOCKED; else nothing more changes (R61, R46). An engine that loses
its last user lingers, from LOCKED under a linger time that is not 0, or goes OFF, its marks cleared (R57, R53);
reprogrammed, it acquires anew from whatever state (R65). That the limit of an acquisition timer that does not start
and the time of a linger timer that stops are kept is the model's reading (log entry 17). -/
def Obligations.AllocationAnswers : Prop :=
  ∀ (s : State) (r : AllocRequest),
    (∀ e, s.ask r = .ok e →
      classOf e ∈ r.classes ∧ r.excluded ≠ some e ∧ (r.pin = none ∨ r.pin = some e) ∧
      (s.engine e).state ≠ .faulted ∧ (s.engine e).reserved = false ∧
      ((s.engine e).state = .acquiring ∨ (s.engine e).state = .locked ∨ (s.engine e).state = .holdover →
        (s.engine e).plan = some r.plan ∧ (s.engine e).exclusive = false ∧ r.exclusive = false)) ∧
    (∀ e, r.pin = some e →
      (classOf e ∉ r.classes → s.ask r = .error .planRange) ∧
      (classOf e ∈ r.classes →
        ((s.engine e).state = .faulted ∨ (s.engine e).reserved = true ∨ r.excluded = some e →
          s.ask r = .error .engineBusy) ∧
        ((s.engine e).state ≠ .faulted → (s.engine e).reserved = false → r.excluded ≠ some e →
          ((s.engine e).state = .off ∨ (s.engine e).state = .lingering ∨
              ((s.engine e).plan = some r.plan ∧ (s.engine e).exclusive = false ∧ r.exclusive = false) →
            s.ask r = .ok e) ∧
          ((s.engine e).state ≠ .off → (s.engine e).state ≠ .lingering →
            (s.engine e).plan ≠ some r.plan ∨ (s.engine e).exclusive = true ∨ r.exclusive = true →
            s.ask r = .error .engineBusy)))) ∧
    (r.pin = none →
      (s.ask r = .error .noEngine ↔ ∀ e ∈ candidates r, (s.engine e).inSharePass r = false ∧
        (s.engine e).inFreePass = false ∧ (s.engine e).inReclaimPass = false) ∧
      (∀ e, s.ask r = .ok e →
        ((s.engine e).inSharePass r = true ∧
          ∀ f ∈ candidates r, f < e → (s.engine f).inSharePass r = false) ∨
        ((∀ f ∈ candidates r, (s.engine f).inSharePass r = false) ∧ (s.engine e).inFreePass = true ∧
          ∀ f ∈ candidates r, f < e → (s.engine f).inFreePass = false) ∨
        ((∀ f ∈ candidates r, (s.engine f).inSharePass r = false ∧ (s.engine f).inFreePass = false) ∧
          (s.engine e).inReclaimPass = true ∧
          ∀ f ∈ candidates r, f < e → (s.engine f).inReclaimPass = false))) ∧
    (∀ e, (e ∈ candidates r ↔ classOf e ∈ r.classes ∧ r.excluded ≠ some e) ∧
      (classOf e = .general ↔ e.1 < 4)) ∧
    ∀ x : EngineRec,
      (x.inSharePass r = true ↔ x.plan = some r.plan ∧ x.exclusive = false ∧ x.reserved = false ∧
        (x.state = .lingering ∨ ((x.state = .acquiring ∨ x.state = .locked ∨ x.state = .holdover) ∧
          0 < x.users ∧ r.exclusive = false))) ∧
      (x.inFreePass = true ↔ x.state = .off ∧ x.reserved = false) ∧
      (x.inReclaimPass = true ↔ x.state = .lingering ∧ x.reserved = false) ∧
      ∀ (selected : Bool) (limit linger : Nat) (fresh : Plan → EngineRec),
        (∀ plan, fresh plan = { x with
          state := .acquiring, plan := some plan, reserved := false, kind := .first,
          acquisition := if selected then ⟨.running, 0, limit⟩ else ⟨.waiting, 0, x.acquisition.limit⟩,
          holdover := ⟨false, 0, 0⟩, relock := false, linger := ⟨false, 0, x.linger.time⟩ }) →
        (∀ plan, x.program selected limit plan = fresh plan) ∧
        (x.state = .off ∨ (x.state = .lingering ∧ x.plan ≠ some r.plan) →
          x.commit r selected limit = { fresh r.plan with
            users := x.users + 1, exclusive := x.exclusive || r.exclusive }) ∧
        (x.state = .lingering → x.plan = some r.plan →
          x.commit r selected limit = { x with
            state := .locked, users := x.users + 1, exclusive := x.exclusive || r.exclusive,
            linger := ⟨false, 0, x.linger.time⟩ }) ∧
        (x.state = .acquiring ∨ x.state = .locked ∨ x.state = .holdover →
          x.commit r selected limit = { x with
            users := x.users + 1, exclusive := x.exclusive || r.exclusive }) ∧
        (1 < x.users → x.dropUser linger = { x with users := x.users - 1 }) ∧
        (x.users = 1 →
          (x.state = .locked → linger ≠ 0 → x.dropUser linger = { x with
            state := .lingering, users := 0, exclusive := false, reserved := false,
            linger := ⟨true, 0, linger⟩ }) ∧
          ((x.state = .locked ∧ linger = 0) ∨ x.state = .acquiring ∨ x.state = .holdover →
            x.dropUser linger = { x with
              state := .off, plan := none, users := 0, exclusive := false, reserved := false, kind := .first,
              acquisition := ⟨.stopped, 0, x.acquisition.limit⟩, holdover := ⟨false, 0, 0⟩, relock := false,
              linger := ⟨false, 0, x.linger.time⟩, fault := none }) ∧
          (x.state = .faulted → x.dropUser linger = { x with
            users := 0, exclusive := false, reserved := false }))

/-- A changeover ends within two periods of the slower clock. Its pin follows the source clock until that clock's next
falling edge after the changeover's start (strictly after it, the model's choice, log entry 19), falls there once,
stays low until the target clock rises, and follows the target clock from its first falling edge on; that low lasts at
least half a target period. That each clock has one fixed half period for the whole changeover, also while its engine
is not LOCKED, is the model's choice (log entry 24). A changeover from quiet holds low until the target clock's first
falling edge, then follows it. The pin of a record follows these phases with the clocks of its source and its target,
the VCOs of their engines divided (R73, R80), and a completion changes nothing at the pin, a further changeover
beginning with its own leaving (R78). Outputs at one (engine, divider) show one clock, whenever and from wherever they
entered it, and a divider that another divides falls with it at the slower rate (R82); that all dividers of an engine
share a falling edge is the model's reading (log entry 29). -/
def Obligations.ChangeoverHasNoRunt : Prop :=
  ∀ (a b : Wave) (t : Nat), 0 < a.half → 0 < b.half →
    leavingEnds (some a) t ≤ t + a.period ∧
    t < leavingEnds (some a) t ∧
    leavingEnds (some a) t ≤ holdingEnds (some a) (some b) t ∧
    holdingEnds (some a) (some b) t ≤ t + 2 * max a.period b.period ∧
    holdingEnds (some a) none t ≤ t + a.period ∧
    holdingEnds none (some b) t ≤ t + b.period ∧
    (∀ target u, u < leavingEnds (some a) t → pinDuring (some a) target t u = a.high u) ∧
    a.high (leavingEnds (some a) t - 1) = true ∧ a.high (leavingEnds (some a) t) = false ∧
    (∀ u, t < u → u < leavingEnds (some a) t → ¬ (a.high (u - 1) = true ∧ a.high u = false)) ∧
    (∀ u, leavingEnds (some a) t ≤ u → pinDuring (some a) none t u = false) ∧
    b.high (holdingEnds (some a) (some b) t - 1) = true ∧ b.high (holdingEnds (some a) (some b) t) = false ∧
    (∀ u, leavingEnds (some a) t ≤ u → u < firstRise (some a) b t →
      pinDuring (some a) (some b) t u = false) ∧
    b.half ≤ firstRise (some a) b t - leavingEnds (some a) t ∧
    (∀ u, holdingEnds (some a) (some b) t ≤ u → pinDuring (some a) (some b) t u = b.high u) ∧
    (∀ u, firstRise (some a) b t ≤ u → u < firstRise (some a) b t + b.half →
      pinDuring (some a) (some b) t u = true) ∧
    (t ≤ holdingEnds none (some b) t ∧ b.high (holdingEnds none (some b) t) = false ∧
      (0 < t → b.high (holdingEnds none (some b) t - 1) = true) ∧
      (∀ u, t ≤ u → u < holdingEnds none (some b) t → ¬ (b.high (u - 1) = true ∧ b.high u = false)) ∧
      (∀ u, u < firstRise none b t → t ≤ u → pinDuring none (some b) t u = false) ∧
      (∀ u, holdingEnds none (some b) t ≤ u → pinDuring none (some b) t u = b.high u) ∧
      ∀ u, firstRise none b t ≤ u → u < firstRise none b t + b.half → pinDuring none (some b) t u = true) ∧
    ∀ (vco : VcoClocks) (s : State) (o : OutputId) (u : Nat), (∀ e, 0 < (vco e).half) →
      ((s.output o).state = .quiet → s.pinAt vco t u o = false) ∧
      (∀ e q, (s.output o).state = .running e q → s.pinAt vco t u o = ((vco e).divided q).high u) ∧
      (∀ source target waiting, (s.output o).state = .changing source target waiting →
        s.pinAt vco t u o = pinDuring (source.wave vco) (target.wave vco) t u ∧
        (s.output o).state.doneAt vco t = some (holdingEnds (source.wave vco) (target.wave vco) t) ∧
        (holdingEnds (source.wave vco) (target.wave vco) t ≤ u →
          (waiting ≠ none → u < leavingEnds (target.wave vco) (holdingEnds (source.wave vco) (target.wave vco) t)) →
          s.pinAt vco t u o =
            (s.output o).state.complete.pinAt vco (holdingEnds (source.wave vco) (target.wave vco) t) u ∧
          (∀ e q, target = .clock e q → s.pinAt vco t u o = ((vco e).divided q).high u))) ∧
      Target.quiet.wave vco = none ∧
      ∀ e q, 0 < q → (Target.clock e q).wave vco = some ((vco e).divided q) ∧
        ((vco e).divided q).period = (vco e).period * q ∧
        ∀ r, 0 < r → q ∣ r →
          ((vco e).divided r).high (u - 1) = true → ((vco e).divided r).high u = false →
          ((vco e).divided q).high (u - 1) = true ∧ ((vco e).divided q).high u = false

/-! ### Invariants -/

/-- The invariants below hold right after reset. -/
def Obligations.InvariantsAtReset : Prop :=
  State.reset.SelectionValid ∧ State.reset.InputsSound ∧ State.reset.OutputsSound ∧
  State.reset.ConfigInRange ∧ State.reset.EnginesFollow ∧ State.reset.NoticesOk ∧ State.reset.Books ∧
  State.reset.Sound ∧ State.reset.SoundRun ∧ State.reset.TagsUnique ∧ State.reset.DormantUntilReady

/-- Every step keeps the selection NONE or a VALID input. -/
def Obligations.StepKeepsSelectionValid : Prop :=
  ∀ s t : State, s.SelectionValid → step s = .next t → t.SelectionValid

/-- Every step keeps each input's timers and strike count as its state fixes them. -/
def Obligations.StepKeepsInputsSound : Prop :=
  ∀ s t : State, s.InputsSound → step s = .next t → t.InputsSound

/-- Every step keeps each changeover's source, target and pending target distinct as R73 says. -/
def Obligations.StepKeepsOutputsSound : Prop :=
  ∀ s t : State, s.OutputsSound → step s = .next t → t.OutputsSound

/-- Every step keeps the parameters, quotas and masks in their ranges. -/
def Obligations.StepKeepsConfigInRange : Prop :=
  ∀ s t : State, s.ConfigInRange → step s = .next t → t.ConfigInRange

/-- Every step keeps each engine's standing in agreement with the selection. -/
def Obligations.StepKeepsEnginesFollow : Prop :=
  ∀ s t : State, s.EnginesFollow → step s = .next t → t.EnginesFollow

/-- Every step keeps the lease-notice sets in agreement with the lease table. -/
def Obligations.StepKeepsNoticesOk : Prop :=
  ∀ s t : State, s.NoticesOk → step s = .next t → t.NoticesOk

/-- Every step keeps the books: every lease well formed, every user count the number of leases that count on the
engine, no user on an OFF, LINGERING or FAULTED engine. -/
def Obligations.StepKeepsBooks : Prop :=
  ∀ s t : State, s.Books → step s = .next t → t.Books

/-- Every step keeps the lease table, the engine pool and the output selector in agreement. -/
def Obligations.StepKeepsSound : Prop :=
  ∀ s t : State, s.Sound → step s = .next t → t.Sound

/-- Every step keeps each lease's state in agreement with its engine and its outputs. -/
def Obligations.StepKeepsSoundRun : Prop :=
  ∀ s t : State, s.SoundRun → step s = .next t → t.SoundRun

/-- Every step keeps the tags of one client's live leases distinct. -/
def Obligations.StepKeepsTagsUnique : Prop :=
  ∀ s t : State, s.TagsUnique → step s = .next t → t.TagsUnique

/-- Every step keeps a NOT_READY part dormant. -/
def Obligations.StepKeepsDormantUntilReady : Prop :=
  ∀ s t : State, s.DormantUntilReady → step s = .next t → t.DormantUntilReady
end

