-- ==== Sys2Proof/Laws/State.lean ====
section
/-! SUPPORT. What each write to State leaves as it was, field by field, and what is read where it wrote. -/

namespace Sys2Proof.Machine

/-! ### setPort -/

@[simp] theorem State.setPort_rstnLow (s : State) (p : Port) (x : PortState) :
    (s.setPort p x).rstnLow = s.rstnLow := by cases p <;> rfl

@[simp] theorem State.setPort_ready (s : State) (p : Port) (x : PortState) :
    (s.setPort p x).ready = s.ready := by cases p <;> rfl

@[simp] theorem State.setPort_supselPort (s : State) (p : Port) (x : PortState) :
    (s.setPort p x).supselPort = s.supselPort := by cases p <;> rfl

@[simp] theorem State.setPort_supervisor (s : State) (p : Port) (x : PortState) :
    (s.setPort p x).supervisor = s.supervisor := by cases p <;> rfl

@[simp] theorem State.setPort_lastServed (s : State) (p : Port) (x : PortState) :
    (s.setPort p x).lastServed = s.lastServed := by cases p <;> rfl

@[simp] theorem State.setPort_deviceNotices (s : State) (p : Port) (x : PortState) :
    (s.setPort p x).deviceNotices = s.deviceNotices := by cases p <;> rfl

@[simp] theorem State.setPort_quotas (s : State) (p : Port) (x : PortState) :
    (s.setPort p x).quotas = s.quotas := by cases p <;> rfl

@[simp] theorem State.setPort_selection (s : State) (p : Port) (x : PortState) :
    (s.setPort p x).selection = s.selection := by cases p <;> rfl

@[simp] theorem State.setPort_params (s : State) (p : Port) (x : PortState) :
    (s.setPort p x).params = s.params := by cases p <;> rfl

@[simp] theorem State.setPort_touched (s : State) (p : Port) (x : PortState) :
    (s.setPort p x).touched = s.touched := by cases p <;> rfl

@[simp] theorem State.setPort_freeCount (s : State) (p : Port) (x : PortState) :
    (s.setPort p x).freeCount = s.freeCount := by cases p <;> rfl

@[simp] theorem State.setPort_pending (s : State) (p : Port) (x : PortState) :
    (s.setPort p x).pending = s.pending := by cases p <;> rfl

@[simp] theorem State.setPort_slots (s : State) (p : Port) (x : PortState) :
    (s.setPort p x).slots = s.slots := by cases p <;> rfl

@[simp] theorem State.setPort_engines (s : State) (p : Port) (x : PortState) :
    (s.setPort p x).engines = s.engines := by cases p <;> rfl

@[simp] theorem State.setPort_outputs (s : State) (p : Port) (x : PortState) :
    (s.setPort p x).outputs = s.outputs := by cases p <;> rfl

@[simp] theorem State.setPort_refA (s : State) (p : Port) (x : PortState) :
    (s.setPort p x).refA = s.refA := by cases p <;> rfl

@[simp] theorem State.setPort_refB (s : State) (p : Port) (x : PortState) :
    (s.setPort p x).refB = s.refB := by cases p <;> rfl

@[simp] theorem State.slot_setPort (s : State) (p : Port) (x : PortState) (j : SlotId) :
    (s.setPort p x).slot j = s.slot j := by cases p <;> rfl

@[simp] theorem State.lease_setPort (s : State) (p : Port) (x : PortState) (j : SlotId) :
    (s.setPort p x).lease? j = s.lease? j := by cases p <;> rfl

@[simp] theorem State.engine_setPort (s : State) (p : Port) (x : PortState) (f : EngineId) :
    (s.setPort p x).engine f = s.engine f := by cases p <;> rfl

@[simp] theorem State.output_setPort (s : State) (p : Port) (x : PortState) (b : OutputId) :
    (s.setPort p x).output b = s.output b := by cases p <;> rfl

@[simp] theorem State.input_setPort (s : State) (p : Port) (x : PortState) (k : RefInput) :
    (s.setPort p x).input k = s.input k := by cases p <;> cases k <;> rfl

@[simp] theorem State.quota_setPort (s : State) (p : Port) (x : PortState) (c : ClientId) :
    (s.setPort p x).quota c = s.quota c := by cases p <;> rfl

/-! ### setSlot -/

@[simp] theorem State.setSlot_rstnLow (s : State) (i : SlotId) (x : Slot) :
    (s.setSlot i x).rstnLow = s.rstnLow := rfl

@[simp] theorem State.setSlot_ready (s : State) (i : SlotId) (x : Slot) :
    (s.setSlot i x).ready = s.ready := rfl

@[simp] theorem State.setSlot_supselPort (s : State) (i : SlotId) (x : Slot) :
    (s.setSlot i x).supselPort = s.supselPort := rfl

@[simp] theorem State.setSlot_supervisor (s : State) (i : SlotId) (x : Slot) :
    (s.setSlot i x).supervisor = s.supervisor := rfl

@[simp] theorem State.setSlot_lastServed (s : State) (i : SlotId) (x : Slot) :
    (s.setSlot i x).lastServed = s.lastServed := rfl

@[simp] theorem State.setSlot_deviceNotices (s : State) (i : SlotId) (x : Slot) :
    (s.setSlot i x).deviceNotices = s.deviceNotices := rfl

@[simp] theorem State.setSlot_quotas (s : State) (i : SlotId) (x : Slot) :
    (s.setSlot i x).quotas = s.quotas := rfl

@[simp] theorem State.setSlot_selection (s : State) (i : SlotId) (x : Slot) :
    (s.setSlot i x).selection = s.selection := rfl

@[simp] theorem State.setSlot_params (s : State) (i : SlotId) (x : Slot) :
    (s.setSlot i x).params = s.params := rfl

@[simp] theorem State.setSlot_touched (s : State) (i : SlotId) (x : Slot) :
    (s.setSlot i x).touched = s.touched := rfl

@[simp] theorem State.setSlot_freeCount (s : State) (i : SlotId) (x : Slot) :
    (s.setSlot i x).freeCount = s.freeCount := rfl

@[simp] theorem State.setSlot_pending (s : State) (i : SlotId) (x : Slot) :
    (s.setSlot i x).pending = s.pending := rfl

@[simp] theorem State.setSlot_engines (s : State) (i : SlotId) (x : Slot) :
    (s.setSlot i x).engines = s.engines := rfl

@[simp] theorem State.setSlot_outputs (s : State) (i : SlotId) (x : Slot) :
    (s.setSlot i x).outputs = s.outputs := rfl

@[simp] theorem State.setSlot_portA (s : State) (i : SlotId) (x : Slot) :
    (s.setSlot i x).portA = s.portA := rfl

@[simp] theorem State.setSlot_portB (s : State) (i : SlotId) (x : Slot) :
    (s.setSlot i x).portB = s.portB := rfl

@[simp] theorem State.setSlot_refA (s : State) (i : SlotId) (x : Slot) :
    (s.setSlot i x).refA = s.refA := rfl

@[simp] theorem State.setSlot_refB (s : State) (i : SlotId) (x : Slot) :
    (s.setSlot i x).refB = s.refB := rfl

@[simp] theorem State.port_setSlot (s : State) (i : SlotId) (x : Slot) (q : Port) :
    (s.setSlot i x).port q = s.port q := by cases q <;> rfl

@[simp] theorem State.engine_setSlot (s : State) (i : SlotId) (x : Slot) (f : EngineId) :
    (s.setSlot i x).engine f = s.engine f := rfl

@[simp] theorem State.output_setSlot (s : State) (i : SlotId) (x : Slot) (b : OutputId) :
    (s.setSlot i x).output b = s.output b := rfl

@[simp] theorem State.input_setSlot (s : State) (i : SlotId) (x : Slot) (k : RefInput) :
    (s.setSlot i x).input k = s.input k := by cases k <;> rfl

@[simp] theorem State.quota_setSlot (s : State) (i : SlotId) (x : Slot) (c : ClientId) :
    (s.setSlot i x).quota c = s.quota c := rfl

/-! ### setLease -/

@[simp] theorem State.setLease_rstnLow (s : State) (i : SlotId) (l : Lease) :
    (s.setLease i l).rstnLow = s.rstnLow := rfl

@[simp] theorem State.setLease_ready (s : State) (i : SlotId) (l : Lease) :
    (s.setLease i l).ready = s.ready := rfl

@[simp] theorem State.setLease_supselPort (s : State) (i : SlotId) (l : Lease) :
    (s.setLease i l).supselPort = s.supselPort := rfl

@[simp] theorem State.setLease_supervisor (s : State) (i : SlotId) (l : Lease) :
    (s.setLease i l).supervisor = s.supervisor := rfl

@[simp] theorem State.setLease_lastServed (s : State) (i : SlotId) (l : Lease) :
    (s.setLease i l).lastServed = s.lastServed := rfl

@[simp] theorem State.setLease_deviceNotices (s : State) (i : SlotId) (l : Lease) :
    (s.setLease i l).deviceNotices = s.deviceNotices := rfl

@[simp] theorem State.setLease_quotas (s : State) (i : SlotId) (l : Lease) :
    (s.setLease i l).quotas = s.quotas := rfl

@[simp] theorem State.setLease_selection (s : State) (i : SlotId) (l : Lease) :
    (s.setLease i l).selection = s.selection := rfl

@[simp] theorem State.setLease_params (s : State) (i : SlotId) (l : Lease) :
    (s.setLease i l).params = s.params := rfl

@[simp] theorem State.setLease_touched (s : State) (i : SlotId) (l : Lease) :
    (s.setLease i l).touched = s.touched := rfl

@[simp] theorem State.setLease_freeCount (s : State) (i : SlotId) (l : Lease) :
    (s.setLease i l).freeCount = s.freeCount := rfl

@[simp] theorem State.setLease_pending (s : State) (i : SlotId) (l : Lease) :
    (s.setLease i l).pending = s.pending := rfl

@[simp] theorem State.setLease_engines (s : State) (i : SlotId) (l : Lease) :
    (s.setLease i l).engines = s.engines := rfl

@[simp] theorem State.setLease_outputs (s : State) (i : SlotId) (l : Lease) :
    (s.setLease i l).outputs = s.outputs := rfl

@[simp] theorem State.setLease_portA (s : State) (i : SlotId) (l : Lease) :
    (s.setLease i l).portA = s.portA := rfl

@[simp] theorem State.setLease_portB (s : State) (i : SlotId) (l : Lease) :
    (s.setLease i l).portB = s.portB := rfl

@[simp] theorem State.setLease_refA (s : State) (i : SlotId) (l : Lease) :
    (s.setLease i l).refA = s.refA := rfl

@[simp] theorem State.setLease_refB (s : State) (i : SlotId) (l : Lease) :
    (s.setLease i l).refB = s.refB := rfl

@[simp] theorem State.port_setLease (s : State) (i : SlotId) (l : Lease) (q : Port) :
    (s.setLease i l).port q = s.port q := by cases q <;> rfl

@[simp] theorem State.engine_setLease (s : State) (i : SlotId) (l : Lease) (f : EngineId) :
    (s.setLease i l).engine f = s.engine f := rfl

@[simp] theorem State.output_setLease (s : State) (i : SlotId) (l : Lease) (b : OutputId) :
    (s.setLease i l).output b = s.output b := rfl

@[simp] theorem State.input_setLease (s : State) (i : SlotId) (l : Lease) (k : RefInput) :
    (s.setLease i l).input k = s.input k := by cases k <;> rfl

@[simp] theorem State.quota_setLease (s : State) (i : SlotId) (l : Lease) (c : ClientId) :
    (s.setLease i l).quota c = s.quota c := rfl

/-! ### setEngine -/

@[simp] theorem State.setEngine_rstnLow (s : State) (e : EngineId) (x : EngineRec) :
    (s.setEngine e x).rstnLow = s.rstnLow := rfl

@[simp] theorem State.setEngine_ready (s : State) (e : EngineId) (x : EngineRec) :
    (s.setEngine e x).ready = s.ready := rfl

@[simp] theorem State.setEngine_supselPort (s : State) (e : EngineId) (x : EngineRec) :
    (s.setEngine e x).supselPort = s.supselPort := rfl

@[simp] theorem State.setEngine_supervisor (s : State) (e : EngineId) (x : EngineRec) :
    (s.setEngine e x).supervisor = s.supervisor := rfl

@[simp] theorem State.setEngine_lastServed (s : State) (e : EngineId) (x : EngineRec) :
    (s.setEngine e x).lastServed = s.lastServed := rfl

@[simp] theorem State.setEngine_deviceNotices (s : State) (e : EngineId) (x : EngineRec) :
    (s.setEngine e x).deviceNotices = s.deviceNotices := rfl

@[simp] theorem State.setEngine_quotas (s : State) (e : EngineId) (x : EngineRec) :
    (s.setEngine e x).quotas = s.quotas := rfl

@[simp] theorem State.setEngine_selection (s : State) (e : EngineId) (x : EngineRec) :
    (s.setEngine e x).selection = s.selection := rfl

@[simp] theorem State.setEngine_params (s : State) (e : EngineId) (x : EngineRec) :
    (s.setEngine e x).params = s.params := rfl

@[simp] theorem State.setEngine_touched (s : State) (e : EngineId) (x : EngineRec) :
    (s.setEngine e x).touched = s.touched := rfl

@[simp] theorem State.setEngine_freeCount (s : State) (e : EngineId) (x : EngineRec) :
    (s.setEngine e x).freeCount = s.freeCount := rfl

@[simp] theorem State.setEngine_pending (s : State) (e : EngineId) (x : EngineRec) :
    (s.setEngine e x).pending = s.pending := rfl

@[simp] theorem State.setEngine_slots (s : State) (e : EngineId) (x : EngineRec) :
    (s.setEngine e x).slots = s.slots := rfl

@[simp] theorem State.setEngine_outputs (s : State) (e : EngineId) (x : EngineRec) :
    (s.setEngine e x).outputs = s.outputs := rfl

@[simp] theorem State.setEngine_portA (s : State) (e : EngineId) (x : EngineRec) :
    (s.setEngine e x).portA = s.portA := rfl

@[simp] theorem State.setEngine_portB (s : State) (e : EngineId) (x : EngineRec) :
    (s.setEngine e x).portB = s.portB := rfl

@[simp] theorem State.setEngine_refA (s : State) (e : EngineId) (x : EngineRec) :
    (s.setEngine e x).refA = s.refA := rfl

@[simp] theorem State.setEngine_refB (s : State) (e : EngineId) (x : EngineRec) :
    (s.setEngine e x).refB = s.refB := rfl

@[simp] theorem State.port_setEngine (s : State) (e : EngineId) (x : EngineRec) (q : Port) :
    (s.setEngine e x).port q = s.port q := by cases q <;> rfl

@[simp] theorem State.slot_setEngine (s : State) (e : EngineId) (x : EngineRec) (j : SlotId) :
    (s.setEngine e x).slot j = s.slot j := rfl

@[simp] theorem State.lease_setEngine (s : State) (e : EngineId) (x : EngineRec) (j : SlotId) :
    (s.setEngine e x).lease? j = s.lease? j := rfl

@[simp] theorem State.output_setEngine (s : State) (e : EngineId) (x : EngineRec) (b : OutputId) :
    (s.setEngine e x).output b = s.output b := rfl

@[simp] theorem State.input_setEngine (s : State) (e : EngineId) (x : EngineRec) (k : RefInput) :
    (s.setEngine e x).input k = s.input k := by cases k <;> rfl

@[simp] theorem State.quota_setEngine (s : State) (e : EngineId) (x : EngineRec) (c : ClientId) :
    (s.setEngine e x).quota c = s.quota c := rfl

/-! ### setOutput -/

@[simp] theorem State.setOutput_rstnLow (s : State) (o : OutputId) (x : OutputRec) :
    (s.setOutput o x).rstnLow = s.rstnLow := rfl

@[simp] theorem State.setOutput_ready (s : State) (o : OutputId) (x : OutputRec) :
    (s.setOutput o x).ready = s.ready := rfl

@[simp] theorem State.setOutput_supselPort (s : State) (o : OutputId) (x : OutputRec) :
    (s.setOutput o x).supselPort = s.supselPort := rfl

@[simp] theorem State.setOutput_supervisor (s : State) (o : OutputId) (x : OutputRec) :
    (s.setOutput o x).supervisor = s.supervisor := rfl

@[simp] theorem State.setOutput_lastServed (s : State) (o : OutputId) (x : OutputRec) :
    (s.setOutput o x).lastServed = s.lastServed := rfl

@[simp] theorem State.setOutput_deviceNotices (s : State) (o : OutputId) (x : OutputRec) :
    (s.setOutput o x).deviceNotices = s.deviceNotices := rfl

@[simp] theorem State.setOutput_quotas (s : State) (o : OutputId) (x : OutputRec) :
    (s.setOutput o x).quotas = s.quotas := rfl

@[simp] theorem State.setOutput_selection (s : State) (o : OutputId) (x : OutputRec) :
    (s.setOutput o x).selection = s.selection := rfl

@[simp] theorem State.setOutput_params (s : State) (o : OutputId) (x : OutputRec) :
    (s.setOutput o x).params = s.params := rfl

@[simp] theorem State.setOutput_touched (s : State) (o : OutputId) (x : OutputRec) :
    (s.setOutput o x).touched = s.touched := rfl

@[simp] theorem State.setOutput_freeCount (s : State) (o : OutputId) (x : OutputRec) :
    (s.setOutput o x).freeCount = s.freeCount := rfl

@[simp] theorem State.setOutput_pending (s : State) (o : OutputId) (x : OutputRec) :
    (s.setOutput o x).pending = s.pending := rfl

@[simp] theorem State.setOutput_slots (s : State) (o : OutputId) (x : OutputRec) :
    (s.setOutput o x).slots = s.slots := rfl

@[simp] theorem State.setOutput_engines (s : State) (o : OutputId) (x : OutputRec) :
    (s.setOutput o x).engines = s.engines := rfl

@[simp] theorem State.setOutput_portA (s : State) (o : OutputId) (x : OutputRec) :
    (s.setOutput o x).portA = s.portA := rfl

@[simp] theorem State.setOutput_portB (s : State) (o : OutputId) (x : OutputRec) :
    (s.setOutput o x).portB = s.portB := rfl

@[simp] theorem State.setOutput_refA (s : State) (o : OutputId) (x : OutputRec) :
    (s.setOutput o x).refA = s.refA := rfl

@[simp] theorem State.setOutput_refB (s : State) (o : OutputId) (x : OutputRec) :
    (s.setOutput o x).refB = s.refB := rfl

@[simp] theorem State.port_setOutput (s : State) (o : OutputId) (x : OutputRec) (q : Port) :
    (s.setOutput o x).port q = s.port q := by cases q <;> rfl

@[simp] theorem State.slot_setOutput (s : State) (o : OutputId) (x : OutputRec) (j : SlotId) :
    (s.setOutput o x).slot j = s.slot j := rfl

@[simp] theorem State.lease_setOutput (s : State) (o : OutputId) (x : OutputRec) (j : SlotId) :
    (s.setOutput o x).lease? j = s.lease? j := rfl

@[simp] theorem State.engine_setOutput (s : State) (o : OutputId) (x : OutputRec) (f : EngineId) :
    (s.setOutput o x).engine f = s.engine f := rfl

@[simp] theorem State.input_setOutput (s : State) (o : OutputId) (x : OutputRec) (k : RefInput) :
    (s.setOutput o x).input k = s.input k := by cases k <;> rfl

@[simp] theorem State.quota_setOutput (s : State) (o : OutputId) (x : OutputRec) (c : ClientId) :
    (s.setOutput o x).quota c = s.quota c := rfl

/-! ### setInput -/

@[simp] theorem State.setInput_rstnLow (s : State) (r : RefInput) (x : InputRec) :
    (s.setInput r x).rstnLow = s.rstnLow := by cases r <;> rfl

@[simp] theorem State.setInput_ready (s : State) (r : RefInput) (x : InputRec) :
    (s.setInput r x).ready = s.ready := by cases r <;> rfl

@[simp] theorem State.setInput_supselPort (s : State) (r : RefInput) (x : InputRec) :
    (s.setInput r x).supselPort = s.supselPort := by cases r <;> rfl

@[simp] theorem State.setInput_supervisor (s : State) (r : RefInput) (x : InputRec) :
    (s.setInput r x).supervisor = s.supervisor := by cases r <;> rfl

@[simp] theorem State.setInput_lastServed (s : State) (r : RefInput) (x : InputRec) :
    (s.setInput r x).lastServed = s.lastServed := by cases r <;> rfl

@[simp] theorem State.setInput_deviceNotices (s : State) (r : RefInput) (x : InputRec) :
    (s.setInput r x).deviceNotices = s.deviceNotices := by cases r <;> rfl

@[simp] theorem State.setInput_quotas (s : State) (r : RefInput) (x : InputRec) :
    (s.setInput r x).quotas = s.quotas := by cases r <;> rfl

@[simp] theorem State.setInput_selection (s : State) (r : RefInput) (x : InputRec) :
    (s.setInput r x).selection = s.selection := by cases r <;> rfl

@[simp] theorem State.setInput_params (s : State) (r : RefInput) (x : InputRec) :
    (s.setInput r x).params = s.params := by cases r <;> rfl

@[simp] theorem State.setInput_touched (s : State) (r : RefInput) (x : InputRec) :
    (s.setInput r x).touched = s.touched := by cases r <;> rfl

@[simp] theorem State.setInput_freeCount (s : State) (r : RefInput) (x : InputRec) :
    (s.setInput r x).freeCount = s.freeCount := by cases r <;> rfl

@[simp] theorem State.setInput_pending (s : State) (r : RefInput) (x : InputRec) :
    (s.setInput r x).pending = s.pending := by cases r <;> rfl

@[simp] theorem State.setInput_slots (s : State) (r : RefInput) (x : InputRec) :
    (s.setInput r x).slots = s.slots := by cases r <;> rfl

@[simp] theorem State.setInput_engines (s : State) (r : RefInput) (x : InputRec) :
    (s.setInput r x).engines = s.engines := by cases r <;> rfl

@[simp] theorem State.setInput_outputs (s : State) (r : RefInput) (x : InputRec) :
    (s.setInput r x).outputs = s.outputs := by cases r <;> rfl

@[simp] theorem State.setInput_portA (s : State) (r : RefInput) (x : InputRec) :
    (s.setInput r x).portA = s.portA := by cases r <;> rfl

@[simp] theorem State.setInput_portB (s : State) (r : RefInput) (x : InputRec) :
    (s.setInput r x).portB = s.portB := by cases r <;> rfl

@[simp] theorem State.port_setInput (s : State) (r : RefInput) (x : InputRec) (q : Port) :
    (s.setInput r x).port q = s.port q := by cases r <;> cases q <;> rfl

@[simp] theorem State.slot_setInput (s : State) (r : RefInput) (x : InputRec) (j : SlotId) :
    (s.setInput r x).slot j = s.slot j := by cases r <;> rfl

@[simp] theorem State.lease_setInput (s : State) (r : RefInput) (x : InputRec) (j : SlotId) :
    (s.setInput r x).lease? j = s.lease? j := by cases r <;> rfl

@[simp] theorem State.engine_setInput (s : State) (r : RefInput) (x : InputRec) (f : EngineId) :
    (s.setInput r x).engine f = s.engine f := by cases r <;> rfl

@[simp] theorem State.output_setInput (s : State) (r : RefInput) (x : InputRec) (b : OutputId) :
    (s.setInput r x).output b = s.output b := by cases r <;> rfl

@[simp] theorem State.quota_setInput (s : State) (r : RefInput) (x : InputRec) (c : ClientId) :
    (s.setInput r x).quota c = s.quota c := by cases r <;> rfl

/-! ### Reading what was written -/

theorem State.port_setPort (s : State) (p q : Port) (x : PortState) :
    (s.setPort p x).port q = if q = p then x else s.port q := by cases p <;> cases q <;> rfl

@[simp] theorem State.port_setPort_same (s : State) (p : Port) (x : PortState) :
    (s.setPort p x).port p = x := by cases p <;> rfl

@[simp] theorem State.port_setPort_other (s : State) (p : Port) (x : PortState) :
    (s.setPort p x).port p.other = s.port p.other := by cases p <;> rfl

theorem State.slot_setSlot (s : State) (i j : SlotId) (x : Slot) :
    (s.setSlot i x).slot j = if j = i then x else s.slot j := by
  by_cases h : j = i
  · subst h; simp [State.setSlot, State.slot]
  · have : i.1 ≠ j.1 := fun e => h (Fin.ext e.symm)
    simp [State.setSlot, State.slot, h, this]

@[simp] theorem State.slot_setSlot_same (s : State) (i : SlotId) (x : Slot) :
    (s.setSlot i x).slot i = x := by simp [State.slot_setSlot]

theorem State.lease_setSlot (s : State) (i j : SlotId) (x : Slot) :
    (s.setSlot i x).lease? j =
      if j = i then x.standing.lease? else s.lease? j := by
  by_cases h : j = i
  · subst h; simp only [State.lease?, State.slot_setSlot_same, if_true]
  · simp only [State.lease?, State.slot_setSlot, h, if_false]

theorem State.slot_setLease (s : State) (i j : SlotId) (l : Lease) :
    (s.setLease i l).slot j = if j = i then ⟨(s.slot i).gen, .live l⟩ else s.slot j :=
  State.slot_setSlot s i j _

theorem State.lease_setLease (s : State) (i j : SlotId) (l : Lease) :
    (s.setLease i l).lease? j = if j = i then some l else s.lease? j := by
  simp only [State.setLease, State.lease_setSlot, Standing.lease?]

@[simp] theorem State.lease_setLease_same (s : State) (i : SlotId) (l : Lease) :
    (s.setLease i l).lease? i = some l := by simp [State.lease_setLease]

/-- A slot that holds lease `l` is live with it. -/
theorem State.standing_of_lease {s : State} {i : SlotId} {l : Lease} (h : s.lease? i = some l) :
    (s.slot i).standing = .live l := by
  unfold State.lease? Standing.lease? at h
  split at h <;> simp_all

/-- A slot that is live with `l` holds lease `l`. -/
theorem State.lease_of_standing {s : State} {i : SlotId} {l : Lease}
    (h : (s.slot i).standing = .live l) : s.lease? i = some l := by
  unfold State.lease?; rw [h]; rfl

theorem State.engine_setEngine (s : State) (e f : EngineId) (x : EngineRec) :
    (s.setEngine e x).engine f = if f = e then x else s.engine f := by
  by_cases h : f = e
  · subst h; simp [State.setEngine, State.engine]
  · have : e.1 ≠ f.1 := fun g => h (Fin.ext g.symm)
    simp [State.setEngine, State.engine, h, this]

@[simp] theorem State.engine_setEngine_same (s : State) (e : EngineId) (x : EngineRec) :
    (s.setEngine e x).engine e = x := by simp [State.engine_setEngine]

theorem State.output_setOutput (s : State) (o b : OutputId) (x : OutputRec) :
    (s.setOutput o x).output b = if b = o then x else s.output b := by
  by_cases h : b = o
  · subst h; simp [State.setOutput, State.output]
  · have : o.1 ≠ b.1 := fun g => h (Fin.ext g.symm)
    simp [State.setOutput, State.output, h, this]

@[simp] theorem State.output_setOutput_same (s : State) (o : OutputId) (x : OutputRec) :
    (s.setOutput o x).output o = x := by simp [State.output_setOutput]

theorem State.input_setInput (s : State) (r k : RefInput) (x : InputRec) :
    (s.setInput r x).input k = if k = r then x else s.input k := by cases r <;> cases k <;> rfl

@[simp] theorem State.input_setInput_same (s : State) (r : RefInput) (x : InputRec) :
    (s.setInput r x).input r = x := by cases r <;> rfl

/-! ### The reset state -/

@[simp] theorem State.reset_port (p : Port) : State.reset.port p = PortState.initial := by
  cases p <;> rfl

@[simp] theorem State.reset_slot (i : SlotId) : State.reset.slot i = Slot.initial := by
  simp [State.slot, State.reset]

@[simp] theorem State.reset_lease (i : SlotId) : State.reset.lease? i = none := by
  simp [State.lease?, Slot.initial, Standing.lease?]

@[simp] theorem State.reset_engine (e : EngineId) : State.reset.engine e = EngineRec.initial := by
  simp [State.engine, State.reset]

@[simp] theorem State.reset_output (o : OutputId) : State.reset.output o = OutputRec.initial := by
  simp [State.output, State.reset]

@[simp] theorem State.reset_input (r : RefInput) : State.reset.input r = InputRec.initial := by
  cases r <;> rfl

@[simp] theorem State.reset_quota (c : ClientId) : State.reset.quota c = 24 := by
  simp [State.quota, State.reset]

end Sys2Proof.Machine
end

