-- ==== Sys2Proof/Laws/Checks.lean ====
section
/-! SUPPORT. A check that computes for each invariant about leases, engines and outputs, and the lemma that a state which
passes it has the invariant: what shows that a concrete state is sound. -/

namespace Sys2Proof.Machine

/-- The check of `EntriesOk`. -/
def entriesCheck (es : List Entry) : Bool :=
  decide ((1 ≤ es.length ∧ es.length ≤ 4) ∧ ascending es = true ∧
    ∀ x ∈ es, 1 ≤ x.divider ∧ x.divider ≤ 1024)

theorem EntriesOk.of_check {es : List Entry} (h : entriesCheck es = true) : EntriesOk es := by
  have h := of_decide_eq_true h
  exact ⟨h.1, h.2.1, h.2.2⟩

/-- The check of `Migration.Wf`. -/
def Migration.check (l : Lease) (m : Migration) : Bool :=
  entriesCheck m.entries && decide ((m.target.isSome = true ↔ m.mode = .overlap) ∧
    (m.target.isSome = true → m.target ≠ l.engine) ∧ outputsOf m.entries = outputsOf l.entries ∧
    (m.mode = .loc → m.plan = l.plan))

theorem Migration.Wf.of_check {l : Lease} {m : Migration} (h : m.check l = true) : m.Wf l := by
  simp only [Migration.check, Bool.and_eq_true, decide_eq_true_eq] at h
  exact ⟨h.2.1, h.2.2.1, h.2.2.2.1, EntriesOk.of_check h.1, h.2.2.2.2⟩

/-- The check of `Lease.Wf`. -/
def Lease.check (l : Lease) : Bool :=
  entriesCheck l.entries && l.migration.all (Migration.check l) &&
    decide ((l.migration.isSome = true ↔ l.state = .migrating) ∧
      (l.closingTarget.isSome = true → l.state = .closing ∧ l.closingTarget ≠ l.engine) ∧
      (l.state = .failed → l.engine = none) ∧
      (l.engine = none → l.state = .failed ∨ l.state = .closing ∨ l.migrationTarget.isSome = true) ∧
      (l.armed = true → l.state = .pending ∧ l.flags.heldStart = true) ∧
      (l.state = .ready → l.flags.heldStart = true))

theorem Lease.Wf.of_check {l : Lease} (h : l.check = true) : l.Wf := by
  simp only [Lease.check, Bool.and_eq_true, decide_eq_true_eq] at h
  obtain ⟨⟨h1, h2⟩, h3, h4, h5, h6, h7, h8⟩ := h
  refine ⟨EntriesOk.of_check h1, h3, fun m hm => Migration.Wf.of_check ?_, h4, h5, h6, h7, h8⟩
  rw [hm] at h2
  exact h2

/-- Whether every live lease passes a check. -/
def State.leasesPass (s : State) (f : SlotId → Lease → Bool) : Bool :=
  allSlots.all fun i => (s.lease? i).all (f i)

theorem State.lease_passes {s : State} {f : SlotId → Lease → Bool} (h : s.leasesPass f = true)
    {i : SlotId} {l : Lease} (hl : s.lease? i = some l) : f i l = true := by
  have := List.all_eq_true.1 h i (List.mem_finRange i)
  rw [hl] at this
  exact this

/-- The check of `EngineRec.CountOk`. -/
def EngineRec.countCheck (x : EngineRec) : Bool :=
  decide ((x.users = 0 ↔ (x.state = .off ∨ x.state = .lingering ∨ x.state = .faulted)) ∧
    (x.exclusive = true → x.users = 1) ∧ (x.reserved = true → x.users = 1))

/-- The check of `State.Books`. -/
def State.booksCheck (s : State) : Bool :=
  s.leasesPass (fun _ l => l.check) &&
    allEngines.all fun e => decide ((s.engine e).users = s.usersOf e) && (s.engine e).countCheck

theorem State.Books.of_check {s : State} (h : s.booksCheck = true) : s.Books := by
  simp only [State.booksCheck, Bool.and_eq_true] at h
  have he : ∀ e, (s.engine e).users = s.usersOf e ∧ (s.engine e).countCheck = true := fun e => by
    have := List.all_eq_true.1 h.2 e (List.mem_finRange e)
    simpa using this
  refine ⟨fun i l hl => Lease.Wf.of_check (s.lease_passes h.1 hl), fun e => (he e).1, fun e => ?_⟩
  have hc := of_decide_eq_true (he e).2
  exact ⟨hc.1, hc.2.1, hc.2.2⟩

/-- Whether the lease that holds output `o`, if any, passes a check. -/
def State.holderPasses (s : State) (o : OutputId) (f : Lease → Bool) : Bool :=
  ((s.output o).holder.bind s.lease?).any f

/-- The check of `State.HoldersOk`. -/
def State.holdersCheck (s : State) : Bool :=
  s.leasesPass (fun i l => (outputsOf l.entries).all fun o => (s.output o).holder = some i) &&
    allOutputs.all fun o =>
      if (s.output o).holder.isSome then s.holderPasses o fun l => (outputsOf l.entries).contains o
      else (s.output o).state = .quiet

theorem State.HoldersOk.of_check {s : State} (h : s.holdersCheck = true) : s.HoldersOk := by
  simp only [State.holdersCheck, Bool.and_eq_true] at h
  have ho : ∀ o, _ := fun o => List.all_eq_true.1 h.2 o (List.mem_finRange o)
  refine ⟨fun o i hi => ?_, fun i l hl o hm => ?_, fun o hn => ?_⟩
  · have := ho o
    rw [hi] at this
    simp only [Option.isSome_some, if_true, State.holderPasses, hi, Option.bind_some] at this
    cases hl : s.lease? i with
    | none => rw [hl] at this; cases this
    | some l =>
      rw [hl] at this
      exact ⟨l, rfl, by simpa using this⟩
  · have := s.lease_passes h.1 hl
    simpa using List.all_eq_true.1 this o hm
  · have := ho o
    rw [hn] at this
    simpa using this

/-- The check of `State.TiesOk`. -/
def State.tiesCheck (s : State) : Bool :=
  (allOutputs.all fun o => allEngines.all fun e =>
    !(s.output o).state.tiedTo e || s.holderPasses o fun l => decide (0 < l.countOn e)) &&
    s.leasesPass fun _ l =>
      decide (l.state ≠ .pending ∧ l.state ≠ .ready ∧ l.state ≠ .failed) ||
        (outputsOf l.entries).all fun o => (s.output o).state = .quiet

theorem State.TiesOk.of_check {s : State} (h : s.tiesCheck = true) : s.TiesOk := by
  simp only [State.tiesCheck, Bool.and_eq_true] at h
  refine ⟨fun o e ht => ?_, fun i l hl hs o hm => ?_⟩
  · have := List.all_eq_true.1 (List.all_eq_true.1 h.1 o (List.mem_finRange o)) e (List.mem_finRange e)
    rw [ht] at this
    simp only [Bool.not_true, Bool.false_or, State.holderPasses] at this
    cases hi : (s.output o).holder with
    | none => rw [hi] at this; cases this
    | some i =>
      rw [hi] at this
      simp only [Option.bind_some] at this
      cases hl : s.lease? i with
      | none => rw [hl] at this; cases this
      | some l =>
        rw [hl] at this
        exact ⟨i, l, rfl, hl, by simpa using this⟩
  · have := s.lease_passes h.2 hl
    rcases Bool.or_eq_true_iff.1 this with hd | hd
    · have := of_decide_eq_true hd
      rcases hs with hs | hs | hs
      · exact absurd hs this.1
      · exact absurd hs this.2.1
      · exact absurd hs this.2.2
    · simpa using List.all_eq_true.1 hd o hm

/-- The check of `OutState.Sound`. -/
def OutState.check : OutState → Bool
  | .quiet => true
  | .running _ _ => true
  | .changing source target waiting => decide (target ≠ source ∧ waiting ≠ some target)

theorem OutState.Sound.of_check {st : OutState} (h : st.check = true) : st.Sound := by
  cases st with
  | quiet => trivial
  | running => trivial
  | changing => simpa [OutState.check, OutState.Sound] using h

/-- The check of `State.OutputsSound`. -/
def State.targetsCheck (s : State) : Bool := allOutputs.all fun o => (s.output o).state.check

theorem State.OutputsSound.of_check {s : State} (h : s.targetsCheck = true) : s.OutputsSound := fun o =>
  OutState.Sound.of_check (List.all_eq_true.1 h o (List.mem_finRange o))

/-- The check of `State.Sound`. -/
def State.soundCheck (s : State) : Bool := s.targetsCheck && s.booksCheck && s.holdersCheck && s.tiesCheck

theorem State.Sound.of_check {s : State} (h : s.soundCheck = true) : s.Sound := by
  simp only [State.soundCheck, Bool.and_eq_true] at h
  exact ⟨State.OutputsSound.of_check h.1.1.1, State.Books.of_check h.1.1.2, State.HoldersOk.of_check h.1.2,
    State.TiesOk.of_check h.2⟩

/-- The check of `State.LeaseFollows`. -/
def State.followsCheck (s : State) (l : Lease) : Bool :=
  (decide (l.state ≠ .pending) || l.engine.any fun e => !s.isLocked e) &&
    (decide (l.state ≠ .ready ∧ l.state ≠ .starting ∧ l.state ≠ .active) || l.engine.any s.isLocked) &&
    (decide (l.state ≠ .active) || l.engine.any fun e => s.outputsAll (runsAt e) l.entries) &&
    (!(l.migration.any fun m => m.mode = .gap) || l.engine.any fun e => (s.engine e).reserved)

theorem State.LeaseFollows.of_check {s : State} {l : Lease} (h : s.followsCheck l = true) :
    s.LeaseFollows l := by
  simp only [State.followsCheck, Bool.and_eq_true, Bool.or_eq_true, decide_eq_true_eq] at h
  obtain ⟨⟨⟨h1, h2⟩, h3⟩, h4⟩ := h
  refine ⟨fun hs => ?_, fun hs => ?_, fun hs => ?_, fun m hm hg => ?_⟩
  · obtain ⟨e, he, hk⟩ := (Option.any_eq_true _ _).1 (h1.resolve_left fun k => k hs)
    exact ⟨e, he, by simpa using hk⟩
  · obtain ⟨e, he, hk⟩ := (Option.any_eq_true _ _).1 (h2.resolve_left fun k => by
      rcases hs with hs | hs | hs
      · exact k.1 hs
      · exact k.2.1 hs
      · exact k.2.2 hs)
    exact ⟨e, he, hk⟩
  · obtain ⟨e, he, hk⟩ := (Option.any_eq_true _ _).1 (h3.resolve_left fun k => k hs)
    exact ⟨e, he, hk⟩
  · rw [hm] at h4
    simp only [Option.any_some, hg, decide_true, Bool.not_true, Bool.false_eq_true, false_or] at h4
    obtain ⟨e, he, hk⟩ := (Option.any_eq_true _ _).1 h4
    exact ⟨e, he, hk⟩

/-- The check of `State.SoundRun`. -/
def State.soundRunCheck (s : State) : Bool := s.soundCheck && s.leasesPass fun _ l => s.followsCheck l

theorem State.SoundRun.of_check {s : State} (h : s.soundRunCheck = true) : s.SoundRun := by
  simp only [State.soundRunCheck, Bool.and_eq_true] at h
  exact ⟨State.Sound.of_check h.1, fun i l hl => State.LeaseFollows.of_check (s.lease_passes h.2 hl)⟩

end Sys2Proof.Machine
end

