-- ==== Sys2Proof/Laws/Engines.lean ====
section
/-! SUPPORT. What the engine pool's operations do to an engine: user counts, and the agreement with the selection. -/

namespace Sys2Proof.Machine

/-! ### Which engine is written -/

/-- A user dropped changes the engine named alone (R55). -/
theorem State.dropUser_engine (s : State) (e : Option EngineId) (f : EngineId) :
    (s.dropUser e).engine f =
      if e = some f then (s.engine f).dropUser s.params.linger else s.engine f := by
  cases e with
  | none => simp [State.dropUser]
  | some e =>
    by_cases h : f = e
    · subst h; simp [State.dropUser]
    · simp [State.dropUser, State.engine_setEngine, h, Ne.symm h]

/-- A commit changes the engine taken alone (R61). -/
theorem State.commit_engine (s : State) (r : AllocRequest) (e f : EngineId) :
    (s.commit r e).engine f =
      if f = e then (s.engine e).commit r s.selection.isSome s.params.acqLimit else s.engine f := by
  simp [State.commit, State.engine_setEngine]

/-! ### User counts -/

@[simp] theorem EngineRec.turnOff_users (x : EngineRec) : x.turnOff.users = x.users := rfl
@[simp] theorem EngineRec.program_users (b : Bool) (n : Nat) (p : Plan) (x : EngineRec) :
    (x.program b n p).users = x.users := rfl
@[simp] theorem EngineRec.lock_users (x : EngineRec) : x.lock.users = x.users := rfl
@[simp] theorem EngineRec.slip_users (n : Nat) (x : EngineRec) : (x.slip n).users = x.users := rfl
@[simp] theorem EngineRec.fail_users (r : FaultReason) (x : EngineRec) : (x.fail r).users = x.users := rfl

@[simp] theorem EngineRec.zeroUsers_users (n : Nat) (x : EngineRec) : (x.zeroUsers n).users = x.users := by
  unfold EngineRec.zeroUsers
  repeat' split
  all_goals rfl

/-- One user fewer (R55). -/
@[simp] theorem EngineRec.dropUser_users (n : Nat) (x : EngineRec) : (x.dropUser n).users = x.users - 1 := by
  unfold EngineRec.dropUser
  split
  · simp; omega
  · rfl

/-- One user more (R61). -/
@[simp] theorem EngineRec.commit_users (r : AllocRequest) (b : Bool) (n : Nat) (x : EngineRec) :
    (x.commit r b n).users = x.users + 1 := by
  unfold EngineRec.commit
  repeat' split
  all_goals rfl

/-! ### The agreement with the selection -/

namespace EngineRec.Follows

variable {b : Bool} {x : EngineRec}

theorem turnOff (x : EngineRec) : x.turnOff.Follows b :=
  ⟨by simp [EngineRec.turnOff], by simp [EngineRec.turnOff], by simp [EngineRec.turnOff],
    by simp [EngineRec.turnOff], by simp [EngineRec.turnOff]⟩

theorem program (n : Nat) (p : Plan) (x : EngineRec) : (x.program b n p).Follows b :=
  ⟨by simp [EngineRec.program], by simp [EngineRec.program],
    fun _ => by cases b <;> simp [EngineRec.program, AcquisitionTimer.begin],
    by simp [EngineRec.program], by simp [EngineRec.program]⟩

theorem fail (r : FaultReason) (x : EngineRec) : (x.fail r).Follows b :=
  ⟨by simp [EngineRec.fail], by simp [EngineRec.fail], by simp [EngineRec.fail],
    by simp [EngineRec.fail], by simp [EngineRec.fail]⟩

/-- Lock and slip take place with a reference selected alone. -/
theorem lock (x : EngineRec) : x.lock.Follows true :=
  ⟨by simp, by simp, by simp [EngineRec.lock], by simp [EngineRec.lock], by simp [EngineRec.lock]⟩

theorem slip (n : Nat) (h : x.Follows true) (hs : x.state = .locked) : (x.slip n).Follows true := by
  have hr : x.relock = false := by
    cases hr : x.relock with
    | false => rfl
    | true => have := h.relock hr; rw [hs] at this; cases this
  exact ⟨by simp, by simp, by simp [EngineRec.slip], by simp [EngineRec.slip], by simp [EngineRec.slip, hr]⟩

/-- After the reaction to a change of selection every engine agrees with the new one (R50). -/
theorem reselect (c : Bool) (n : Nat) (h : x.Follows b) : (x.reselect c n).Follows c := by
  have hr : x.state ≠ .holdover → x.relock = false := fun hs => by
    cases hr : x.relock with
    | false => rfl
    | true => exact absurd (h.relock hr) hs
  unfold EngineRec.reselect
  split
  · exact ⟨by simp, by simp, by simp, by simp, by simp⟩
  · rename_i hs
    exact ⟨by simp [hs], by simp [hs], by simp [hs], by simp, by simp [hs]⟩
  · rename_i hs
    exact ⟨by simp [hs], by simp [hs], fun _ => by cases c <;> simp [AcquisitionTimer.begin],
      by simp [hs], by simp [hr (by simp [hs])]⟩
  · exact turnOff x
  · rename_i hs
    exact ⟨by simp [hs], by simp [hs], by simp [hs], by simp [hs], by simp [hr (by simp [hs])]⟩
  · rename_i hs
    exact ⟨by simp [hs], by simp [hs], by simp [hs], by simp [hs], by simp [hr (by simp [hs])]⟩

/-- The agreement speaks of the state, the relock attempt and the acquisition timer alone. -/
theorem congr {y : EngineRec} (h : x.Follows b) (hs : y.state = x.state) (hr : y.relock = x.relock)
    (ha : y.acquisition.standing = x.acquisition.standing) : y.Follows b :=
  ⟨fun k => h.locked (hs ▸ k), fun k => h.lingering (hs ▸ k), fun k => ha.trans (h.acquiring (hs ▸ k)),
    fun k => hr.trans (h.holdover (hs ▸ k)), fun k => hs.trans (h.relock (hr ▸ k))⟩

theorem zeroUsers (n : Nat) (h : x.Follows b) : (x.zeroUsers n).Follows b := by
  unfold EngineRec.zeroUsers
  split
  · rename_i hs
    split
    · exact turnOff x
    · refine ⟨by simp, fun _ => h.locked hs, by simp, by simp, fun k => ?_⟩
      have := h.relock k
      rw [hs] at this
      cases this
  · exact turnOff x
  · exact turnOff x
  all_goals exact h.congr rfl rfl rfl

theorem dropUser (n : Nat) (h : x.Follows b) : (x.dropUser n).Follows b := by
  unfold EngineRec.dropUser
  split
  · exact zeroUsers n (h.congr rfl rfl rfl)
  · exact h.congr rfl rfl rfl

theorem commit (r : AllocRequest) (n : Nat) (h : x.Follows b) : (x.commit r b n).Follows b := by
  unfold EngineRec.commit
  split
  · exact program _ _ _
  · rename_i hs
    split
    · refine ⟨fun _ => h.lingering hs, by simp, by simp, by simp, fun k => ?_⟩
      have := h.relock k
      rw [hs] at this
      cases this
    · exact program _ _ _
  all_goals exact h.congr rfl rfl rfl

end EngineRec.Follows

end Sys2Proof.Machine
end

