-- ==== Sys2Proof/Laws/Goals.lean ====
section
/-! SUPPORT. The shapes of Safety.lean beside the operations they speak of: the settling condition, a settled lease, the
reaction of an engine and the choice of an input at a change of selection, what settles or is freed off an engine, the
holdover limit, the end of a frame. -/

namespace Sys2Proof.Machine

/-- The settling condition of R95 holds exactly where the outputs are at their goal. -/
theorem State.settled_iff_atGoal (s : State) (l : Lease) (m : Migration) :
    s.settled l m = true ↔ s.AtGoal l m := by
  unfold State.settled State.AtGoal State.outputsAll
  cases m.mode with
  | loc => cases l.engine <;> simp [runsAt, isQuiet, State.isLocked]
  | overlap => cases m.target <;> simp [runsAt]
  | gap => simp [isQuiet]

/-- The lease that ends a LOCAL migration (R97). -/
theorem Lease.migrated_loc {l : Lease} {m : Migration} (h : m.mode = .loc) (b : Bool) :
    l.migrated m b = { l.adopt m with state := if b then .active else .disturbed } := by
  simp [Lease.migrated, Lease.adopt, h]

/-- The lease that ends an OVERLAP migration (R101). -/
theorem Lease.migrated_overlap {l : Lease} {m : Migration} (h : m.mode = .overlap) (b : Bool) :
    l.migrated m b =
      { l.adopt m with engine := m.target, state := if b then .active else .disturbed } := by
  simp [Lease.migrated, Lease.adopt, h]

/-- The lease that ends a GAP migration (R105). -/
theorem Lease.migrated_gap {l : Lease} {m : Migration} (h : m.mode = .gap) (b : Bool) :
    l.migrated m b = { l.adopt m with state := .pending, armed := l.flags.heldStart } := by
  simp [Lease.migrated, Lease.adopt, h]

/-- An engine's reaction to a change of selection is the one of R50. -/
theorem EngineRec.reselect_reselected (selected : Bool) (limit : Nat) (x : EngineRec) :
    x.Reselected selected limit (x.reselect selected limit) := by
  unfold EngineRec.Reselected EngineRec.reselect
  cases x.state <;>
    simp [EngineRec.turnOff, AcquisitionTimer.stop, AcquisitionTimer.begin, HoldoverTimer.stopped, LingerTimer.stop]

/-- The input that comes first in order of priority and is VALID, if any, is VALID. -/
theorem State.firstValid_valid {s : State} {r : RefInput} (h : s.firstValid = some r) : (s.input r).state = .valid := by
  unfold State.firstValid InputRec.selectable at h
  grind

/-- The input that the table of the mode chooses, if any, is VALID. -/
theorem State.chosen_valid {s : State} {r : RefInput} (h : s.chosen = some r) : (s.input r).state = .valid := by
  unfold State.chosen at h
  have first := @State.firstValid_valid s r
  have inputA : s.input .refA = s.refA := rfl
  have inputB : s.input .refB = s.refB := rfl
  unfold InputRec.selectable at h
  grind

/-- A selection that was chosen is the one of the table (07 7.5); `now` is the selection before. -/
theorem State.SelectedBy.of_chosen {s t : State} (hp : t.params = s.params) (hi : t.input = s.input)
    (h : t.selection = s.chosen) : t.SelectedBy s.selection := by
  have inputA : s.input .refA = s.refA := rfl
  have inputB : s.input .refB = s.refB := rfl
  refine ⟨fun r hr => ?_, fun r hr => ?_, fun r hr hm => ?_, fun hm r hr hv => ?_⟩
  · rw [hi]; exact State.chosen_valid (h ▸ hr)
  · rw [hi, h]; rw [hp] at hr
    unfold State.chosen InputRec.selectable
    grind
  · rw [hi, h]; rw [hp] at hr hm; rw [hi] at hm
    unfold State.chosen State.firstValid InputRec.selectable
    grind
  · rw [h]; rw [hp] at hm; rw [hi] at hv
    simp [State.chosen, InputRec.selectable, hm, hr, hv]

/-- Nothing settles off an engine on which no MIGRATING lease counts. -/
theorem State.NoneSettledOff.of_no_migrating {s t : State} {f : EngineId}
    (h : ∀ i l, s.lease? i = some l → l.state = .migrating → l.countOn f = 0) : s.NoneSettledOff t f := by
  intro i l m hl hs _ he
  have := h i l hl hs
  simp [Lease.countOn, Lease.runsFrom, he] at this

/-- A fault frees no lease that counts on an engine on which no CLOSING lease counts. -/
theorem State.freedWith_eq_zero {s : State} {e f : EngineId}
    (h : ∀ i l, s.lease? i = some l → l.state = .closing → l.countOn f = 0) : s.freedWith e f = 0 := by
  unfold State.freedWith
  rw [List.countP_eq_zero]
  intro i _
  cases hl : s.lease? i with
  | none => simp
  | some l =>
    simp only [decide_eq_true_eq]
    rintro ⟨hs, _, hc, _⟩
    exact absurd (h i l hl hs) (by omega)

/-- When the holdover timer has reached the limit that stands (R51, R71). -/
theorem EngineRec.atHoldoverLimit_iff {limit : Nat} {x : EngineRec} :
    x.atHoldoverLimit limit = true ↔ x.state = .holdover ∧ limit ≠ 0 ∧ limit ≤ x.holdover.elapsed := by
  simp [EngineRec.atHoldoverLimit]

/-- The bits of a byte left incomplete play no part (R142). -/
theorem State.endFrame_discards_bits (p : Port) (bytes : List Byte) (b c : List Bool) :
    State.endFrame p ⟨bytes, b⟩ = State.endFrame p ⟨bytes, c⟩ := rfl

/-- A faulted engine whose users have gone (R66, R55). -/
theorem EngineRec.fail_faultedWith (r : FaultReason) (x : EngineRec) :
    { x.fail r with users := 0, exclusive := false } = x.faultedWith r x.acquisition.limit := rfl

end Sys2Proof.Machine
end

