-- ==== Sys2Proof/Laws/Outputs.lean ====
section
/-! SUPPORT. What the output selector's operations do to the outputs: targets, completion, the two loops over an output
list. -/

namespace Sys2Proof.Machine

/-! ### One output -/

/-- A target given keeps a changeover sound (R73, R76, R77). -/
theorem OutState.Sound.give {st : OutState} (t : Target) (h : st.Sound) : (st.give t).Sound := by
  cases st with
  | quiet => by_cases ht : t = .quiet <;> simp [OutState.give, OutState.Sound, ht]
  | running e q => by_cases ht : t = .clock e q <;> simp [OutState.give, OutState.Sound, ht]
  | changing src tgt w =>
    refine ⟨h.1, ?_⟩
    by_cases ht : t = tgt
    · simp [ht]
    · simp [ht]

/-- A completion keeps a changeover sound (R78). -/
theorem OutState.Sound.complete {st : OutState} (h : st.Sound) : st.complete.Sound := by
  cases st with
  | quiet => exact h
  | running e q => exact h
  | changing src tgt w =>
    cases w with
    | none => cases tgt <;> exact trivial
    | some t => exact ⟨fun k => h.2 (by rw [k]), by simp⟩

/-- An output heads the target given last (R94). -/
theorem OutState.heading_give (t : Target) (st : OutState) : (st.give t).heading = t := by
  cases st with
  | quiet => by_cases ht : t = .quiet <;> simp [OutState.give, OutState.heading, ht]
  | running e q => by_cases ht : t = .clock e q <;> simp [OutState.give, OutState.heading, ht]
  | changing src tgt w => by_cases ht : t = tgt <;> simp [OutState.give, OutState.heading, ht]

/-- An output is QUIET after it is given QUIET exactly when it was QUIET. -/
theorem OutState.give_quiet_eq_quiet (st : OutState) : st.give .quiet = .quiet ↔ st = .quiet := by
  cases st <;> simp [OutState.give]

/-! ### Entry lists -/

/-- Every output of an ascending list lies above the first. -/
theorem ascending_lt {x : Entry} {xs : List Entry} (h : ascending (x :: xs) = true) :
    ∀ y ∈ xs, x.output < y.output := by
  induction xs generalizing x with
  | nil => simp
  | cons z zs ih =>
    simp only [ascending, Bool.and_eq_true, decide_eq_true_eq] at h
    intro y hy
    rcases List.mem_cons.1 hy with rfl | hy
    · exact h.1
    · exact h.1.trans (ih h.2 y hy)

theorem ascending_tail {x : Entry} {xs : List Entry} (h : ascending (x :: xs) = true) :
    ascending xs = true := by
  cases xs with
  | nil => rfl
  | cons z zs =>
    simp only [ascending, Bool.and_eq_true] at h
    exact h.2

/-- An ascending list names no output twice (R11). -/
theorem nodup_of_ascending {xs : List Entry} (h : ascending xs = true) : (outputsOf xs).Nodup := by
  induction xs with
  | nil => simp [outputsOf]
  | cons x xs ih =>
    refine List.nodup_cons.2 ⟨fun hm => ?_, ih (ascending_tail h)⟩
    obtain ⟨y, hy, he⟩ := List.mem_map.1 hm
    exact absurd (ascending_lt h y hy) (by rw [he]; exact lt_irrefl _)

/-! ### The loops over an output list -/

/-- A part of the state that no round of a loop changes is not changed by the loop. -/
theorem forEach_frame {α β : Type} (view : State → β) (f : α → State → State)
    (hf : ∀ x t, view (f x t) = view t) (xs : List α) (s : State) :
    view (forEach xs f s) = view s := by
  induction xs generalizing s with
  | nil => rfl
  | cons x xs ih => exact (ih (f x s)).trans (hf x s)

/-- A loop that writes, for each entry, its own output from that output's record: an output the list names once is
written once. -/
theorem forEach_output_mem (g : Entry → OutputRec → OutputRec) (f : Entry → State → State)
    (hf : ∀ x t o, (f x t).output o = if o = x.output then g x (t.output o) else t.output o)
    {es : List Entry} (hn : (outputsOf es).Nodup) (s : State) {x : Entry} (hx : x ∈ es) :
    (forEach es f s).output x.output = g x (s.output x.output) := by
  induction es generalizing s with
  | nil => cases hx
  | cons y ys ih =>
    have hd := List.nodup_cons.1 hn
    rcases List.mem_cons.1 hx with rfl | hx
    · have hk : ∀ (zs : List Entry) (t : State), x.output ∉ outputsOf zs →
          (forEach zs f t).output x.output = t.output x.output := by
        intro zs
        induction zs with
        | nil => intro t _; rfl
        | cons z zs ihz =>
          intro t hz
          simp only [outputsOf, List.map_cons, List.mem_cons, not_or] at hz
          rw [show forEach (z :: zs) f t = forEach zs f (f z t) from rfl, ihz _ hz.2, hf, if_neg hz.1]
      rw [show forEach (x :: ys) f s = forEach ys f (f x s) from rfl, hk ys _ hd.1, hf, if_pos rfl]
    · have hne : x.output ≠ y.output := fun h => hd.1 (h ▸ List.mem_map_of_mem hx)
      rw [show forEach (y :: ys) f s = forEach ys f (f y s) from rfl, ih hd.2 _ hx, hf, if_neg hne]

/-- The same loop leaves the outputs that the list does not name. -/
theorem forEach_output_not_mem (g : Entry → OutputRec → OutputRec) (f : Entry → State → State)
    (hf : ∀ x t o, (f x t).output o = if o = x.output then g x (t.output o) else t.output o)
    {es : List Entry} (s : State) {o : OutputId} (ho : o ∉ outputsOf es) :
    (forEach es f s).output o = s.output o := by
  induction es generalizing s with
  | nil => rfl
  | cons y ys ih =>
    simp only [outputsOf, List.map_cons, List.mem_cons, not_or] at ho
    rw [show forEach (y :: ys) f s = forEach ys f (f y s) from rfl, ih _ ho.2, hf, if_neg ho.1]

/-- What one round of `giveEach` makes of the entry's output. -/
def giveRec (want : OutState → Entry → Option Target) (x : Entry) (r : OutputRec) : OutputRec :=
  match want r.state x with
  | none => r
  | some g => r.given g

theorem giveEach_round (want : OutState → Entry → Option Target) (x : Entry) (t : State) (o : OutputId) :
    (match want (t.output x.output).state x with
      | none => t
      | some g => t.give x.output g).output o =
      if o = x.output then giveRec want x (t.output o) else t.output o := by
  by_cases ho : o = x.output
  · subst ho
    unfold giveRec
    cases want (t.output x.output).state x <;> simp [State.give, OutputRec.given]
  · cases want (t.output x.output).state x <;> simp [State.give, State.output_setOutput, ho]

section giveEach

variable (want : OutState → Entry → Option Target) (es : List Entry) (s : State)

/-- An output of the list is given the target that `want` names for it, if any (04 4.2). -/
theorem State.giveEach_output (hn : (outputsOf es).Nodup) {x : Entry} (hx : x ∈ es) :
    (s.giveEach want es).output x.output = giveRec want x (s.output x.output) :=
  forEach_output_mem (giveRec want) _ (giveEach_round want) hn s hx

/-- An output that the list does not name stays. -/
theorem State.giveEach_output_not_mem {o : OutputId} (ho : o ∉ outputsOf es) :
    (s.giveEach want es).output o = s.output o :=
  forEach_output_not_mem (giveRec want) _ (giveEach_round want) s ho

/-- Whatever the outputs' targets, every other record stays. -/
theorem State.giveEach_frame {β : Type} (view : State → β)
    (hv : ∀ o r t, view (State.setOutput t o r) = view t) : view (s.giveEach want es) = view s := by
  refine forEach_frame view _ (fun x t => ?_) es s
  split
  · rfl
  · exact hv _ _ _

@[simp] theorem State.giveEach_slots : (s.giveEach want es).slots = s.slots :=
  s.giveEach_frame want es State.slots fun _ _ _ => rfl
@[simp] theorem State.giveEach_slot (i : SlotId) : (s.giveEach want es).slot i = s.slot i :=
  s.giveEach_frame want es (fun t => t.slot i) fun _ _ _ => rfl
@[simp] theorem State.giveEach_lease (i : SlotId) : (s.giveEach want es).lease? i = s.lease? i :=
  s.giveEach_frame want es (fun t => t.lease? i) fun _ _ _ => rfl
@[simp] theorem State.giveEach_engines : (s.giveEach want es).engines = s.engines :=
  s.giveEach_frame want es State.engines fun _ _ _ => rfl
@[simp] theorem State.giveEach_engine (e : EngineId) : (s.giveEach want es).engine e = s.engine e :=
  s.giveEach_frame want es (fun t => t.engine e) fun _ _ _ => rfl
@[simp] theorem State.giveEach_port (p : Port) : (s.giveEach want es).port p = s.port p :=
  s.giveEach_frame want es (fun t => t.port p) fun _ _ _ => by simp
@[simp] theorem State.giveEach_deviceNotices : (s.giveEach want es).deviceNotices = s.deviceNotices :=
  s.giveEach_frame want es State.deviceNotices fun _ _ _ => rfl
@[simp] theorem State.giveEach_touched : (s.giveEach want es).touched = s.touched :=
  s.giveEach_frame want es State.touched fun _ _ _ => rfl

/-- The holder of an output stays with whatever target it is given (R74). -/
@[simp] theorem State.giveEach_holder (o : OutputId) :
    ((s.giveEach want es).output o).holder = (s.output o).holder := by
  refine forEach_frame (fun t => (t.output o).holder) _ (fun x t => ?_) es s
  split
  · rfl
  · simp only [State.give, State.output_setOutput]
    split
    · rename_i h; rw [h]
    · rfl

end giveEach

section setHolders

variable (k : Option SlotId) (es : List Entry) (s : State)

theorem setHolders_round (x : Entry) (t : State) (o : OutputId) :
    (t.setOutput x.output { t.output x.output with holder := k }).output o =
      if o = x.output then { t.output o with holder := k } else t.output o := by
  by_cases ho : o = x.output
  · subst ho; simp
  · simp [State.output_setOutput, ho]

/-- The holder of every output of the list is written (R30, R112). -/
theorem State.setHolders_output (hn : (outputsOf es).Nodup) {x : Entry} (hx : x ∈ es) :
    (s.setHolders k es).output x.output = { s.output x.output with holder := k } :=
  forEach_output_mem (fun _ r => { r with holder := k }) _ (setHolders_round k) hn s hx

/-- An output that the list does not name keeps its holder. -/
theorem State.setHolders_output_not_mem {o : OutputId} (ho : o ∉ outputsOf es) :
    (s.setHolders k es).output o = s.output o :=
  forEach_output_not_mem (fun _ r => { r with holder := k }) _ (setHolders_round k) s ho

/-- Whatever the holders, every other record stays. -/
theorem State.setHolders_frame {β : Type} (view : State → β)
    (hv : ∀ o r t, view (State.setOutput t o r) = view t) : view (s.setHolders k es) = view s :=
  forEach_frame view _ (fun _ _ => hv _ _ _) es s

@[simp] theorem State.setHolders_slot (i : SlotId) : (s.setHolders k es).slot i = s.slot i :=
  s.setHolders_frame k es (fun t => t.slot i) fun _ _ _ => rfl
@[simp] theorem State.setHolders_lease (i : SlotId) : (s.setHolders k es).lease? i = s.lease? i :=
  s.setHolders_frame k es (fun t => t.lease? i) fun _ _ _ => rfl
@[simp] theorem State.setHolders_engine (e : EngineId) : (s.setHolders k es).engine e = s.engine e :=
  s.setHolders_frame k es (fun t => t.engine e) fun _ _ _ => rfl
@[simp] theorem State.setHolders_port (p : Port) : (s.setHolders k es).port p = s.port p :=
  s.setHolders_frame k es (fun t => t.port p) fun _ _ _ => by simp
@[simp] theorem State.setHolders_touched : (s.setHolders k es).touched = s.touched :=
  s.setHolders_frame k es State.touched fun _ _ _ => rfl

end setHolders

end Sys2Proof.Machine
end

