-- ==== Sys2Proof/Laws/OneSlot.lean ====
section
/-! SUPPORT. The inner bound of lease work: what befalls the lease of one slot leaves every other slot, every other slot's
notices and marks, and the device notices as they were, and keeps the slot's generation. -/

namespace Sys2Proof.Machine

/-- From `s` to `t`, of the slots and notices those of slot `i` alone may change, its generation excepted. -/
structure OneSlot (i : SlotId) (s t : State) : Prop where
  slots : ∀ j, j ≠ i → t.slot j = s.slot j
  gen : (t.slot i).gen = (s.slot i).gen
  notices : ∀ p (j : SlotId), j ≠ i → (t.port p).notices[j] = (s.port p).notices[j]
  deviceNotices : t.deviceNotices = s.deviceNotices
  touched : ∀ j, j ≠ i → (j ∈ t.touched ↔ j ∈ s.touched)

namespace OneSlot

variable {i : SlotId} {s t u : State}

theorem refl (i : SlotId) (s : State) : OneSlot i s s :=
  ⟨fun _ _ => rfl, rfl, fun _ _ _ => rfl, rfl, fun _ _ => Iff.rfl⟩

theorem trans (h : OneSlot i s t) (k : OneSlot i t u) : OneSlot i s u where
  slots j hj := (k.slots j hj).trans (h.slots j hj)
  gen := k.gen.trans h.gen
  notices p j hj := (k.notices p j hj).trans (h.notices p j hj)
  deviceNotices := k.deviceNotices.trans h.deviceNotices
  touched j hj := (k.touched j hj).trans (h.touched j hj)

/-- The lease of another slot stays. -/
theorem lease (h : OneSlot i s t) {j : SlotId} (hj : j ≠ i) : t.lease? j = s.lease? j := by
  unfold State.lease?
  rw [h.slots j hj]

/-- A write of slot `i` that keeps its generation. -/
theorem setSlot (x : Slot) (hx : x.gen = (t.slot i).gen) (h : OneSlot i s t) :
    OneSlot i s (t.setSlot i x) :=
  h.trans ⟨fun j hj => by simp [State.slot_setSlot, hj], by simp [hx], fun p j _ => by simp, rfl,
    fun _ _ => Iff.rfl⟩

theorem setLease (l : Lease) (h : OneSlot i s t) : OneSlot i s (t.setLease i l) := h.setSlot _ rfl

theorem setEngine (e : EngineId) (x : EngineRec) (h : OneSlot i s t) : OneSlot i s (t.setEngine e x) :=
  h.trans ⟨fun _ _ => rfl, rfl, fun p j _ => by simp, rfl, fun _ _ => Iff.rfl⟩

theorem setOutput (o : OutputId) (x : OutputRec) (h : OneSlot i s t) : OneSlot i s (t.setOutput o x) :=
  h.trans ⟨fun _ _ => rfl, rfl, fun p j _ => by simp, rfl, fun _ _ => Iff.rfl⟩

/-- A write of a port's notices at slot `i` alone, with slot `i` marked or not. -/
theorem setNotice (p : Port) (n : Option Notice) (h : OneSlot i s t) :
    OneSlot i s (t.setPort p { t.port p with notices := (t.port p).notices.set i.1 n i.2 }) := by
  refine h.trans ⟨fun _ _ => by simp, by simp, fun q j hj => ?_, by simp, fun _ _ => by simp⟩
  have hne : i.1 ≠ j.1 := fun hk => hj (Fin.ext hk.symm)
  by_cases hq : q = p
  · subst hq
    simp [hne]
  · simp [State.port_setPort, hq]

theorem mark (h : OneSlot i s t) : OneSlot i s { t with touched := i :: t.touched } :=
  h.trans ⟨fun _ _ => rfl, rfl, fun p _ _ => by cases p <;> rfl, rfl, fun j hj => by simp [hj]⟩

theorem raise (closed : Bool) (h : OneSlot i s t) : OneSlot i s (t.raise i closed) := by
  unfold State.raise
  split
  · exact h
  · rename_i l _
    have hk := (h.setNotice l.home (some (raisedNotice (t.port l.home).notices[i] (t.touched.contains i)
      (t.slot i).gen l.reason closed))).mark
    simpa using hk

theorem tell (told : Bool) (h : OneSlot i s t) : OneSlot i s (t.tell told i) := by
  unfold State.tell
  split
  · exact h
  · exact h.raise false

theorem giveEach (want : OutState → Entry → Option Target) (es : List Entry) (h : OneSlot i s t) :
    OneSlot i s (t.giveEach want es) :=
  h.trans ⟨fun _ _ => by simp, by simp, fun _ _ _ => by simp, by simp, fun _ _ => by simp⟩

theorem setHolders (k : Option SlotId) (es : List Entry) (h : OneSlot i s t) :
    OneSlot i s (t.setHolders k es) :=
  h.trans ⟨fun _ _ => by simp, by simp, fun _ _ _ => by simp,
    t.setHolders_frame k es State.deviceNotices fun _ _ _ => rfl, fun _ _ => by simp⟩

theorem dropUser (e : Option EngineId) (h : OneSlot i s t) : OneSlot i s (t.dropUser e) := by
  unfold State.dropUser
  split
  · exact h
  · exact h.setEngine _ _

theorem reprogram (e : EngineId) (p : Plan) (h : OneSlot i s t) : OneSlot i s (t.reprogram e p) :=
  h.setEngine _ _

theorem commit (r : AllocRequest) (e : EngineId) (h : OneSlot i s t) : OneSlot i s (t.commit r e) :=
  h.setEngine _ _

theorem enter (h : OneSlot i s t) : OneSlot i s (t.enter i) := by
  unfold State.enter
  repeat' split
  all_goals first | exact h | exact h.setLease _ | exact (h.setLease _).giveEach _ _

theorem finishMigration (l : Lease) (m : Migration) (h : OneSlot i s t) :
    OneSlot i s (t.finishMigration i l m) := by
  unfold State.finishMigration
  split
  · exact h.setLease _
  · exact (h.dropUser _).setLease _
  · cases l.engine with
    | none => exact h.setLease _
    | some e => exact (h.reprogram e _).setLease _

theorem settle (told : Bool) (h : OneSlot i s t) : OneSlot i s (t.settle told i) := by
  unfold State.settle
  repeat' split
  all_goals first | exact h | exact (h.finishMigration _ _).tell _

theorem background (l : Lease) (st : LeaseState) (r : Reason) (h : OneSlot i s t) :
    OneSlot i s (t.background i l st r) :=
  (h.setLease _).raise _

theorem startPending (e : EngineId) (l : Lease) (h : OneSlot i s t) :
    OneSlot i s (t.startPending e i l) := by
  unfold State.startPending
  split
  · exact h.background _ _ _
  · exact (h.background _ _ _).giveEach _ _

theorem relock (e : EngineId) (l : Lease) (h : OneSlot i s t) : OneSlot i s (t.relock e i l) := by
  unfold State.relock
  split
  · exact h.background _ _ _
  · exact h.giveEach _ _

theorem migrationLocked (e : EngineId) (l : Lease) (m : Migration) (h : OneSlot i s t) :
    OneSlot i s (t.migrationLocked e l m) := by
  unfold State.migrationLocked
  repeat' split
  all_goals first | exact h | exact h.giveEach _ _

theorem mute (l : Lease) (h : OneSlot i s t) : OneSlot i s (t.mute l) := by
  unfold State.mute
  split
  · exact h.giveEach _ _
  · exact h

theorem migrationSlip (e : EngineId) (l : Lease) (m : Migration) (h : OneSlot i s t) :
    OneSlot i s (t.migrationSlip e l m) := by
  unfold State.migrationSlip
  repeat' split
  all_goals first | exact h | exact h.mute _ | exact h.giveEach _ _

theorem onLocked (e : EngineId) (h : OneSlot i s t) : OneSlot i s (Machine.onLocked e i t) := by
  unfold Machine.onLocked
  repeat' split
  all_goals first
    | exact h
    | exact h.startPending _ _
    | exact h.relock _ _
    | exact (h.migrationLocked _ _ _).settle _

theorem onSlip (e : EngineId) (h : OneSlot i s t) : OneSlot i s (Machine.onSlip e i t) := by
  unfold Machine.onSlip
  repeat' split
  all_goals first
    | exact h
    | exact h.background _ _ _
    | exact (h.background _ _ _).mute _
    | exact ((h.background _ _ _).migrationSlip _ _ _).settle _

theorem onHoldover (e : EngineId) (h : OneSlot i s t) : OneSlot i s (Machine.onHoldover e i t) := by
  unfold Machine.onHoldover
  repeat' split
  all_goals first
    | exact h
    | exact h.background _ _ _
    | exact (h.background _ _ _).settle _

theorem retire (l : Lease) (h : OneSlot i s t) : OneSlot i s (t.retire i l) :=
  (h.raise true).setSlot _ rfl

theorem giveUp (l : Lease) (h : OneSlot i s t) : OneSlot i s (t.giveUp l) :=
  (((h.dropUser _).dropUser _).setHolders _ _).dropUser _

theorem closeIfQuiet (h : OneSlot i s t) : OneSlot i s (t.closeIfQuiet i) := by
  unfold State.closeIfQuiet
  repeat' split
  all_goals first | exact h | exact (h.giveUp _).retire _

theorem failLease (l : Lease) (h : OneSlot i s t) : OneSlot i s (t.failLease i l) := h.background _ _ _

theorem sourceFault (l : Lease) (m : Migration) (h : OneSlot i s t) :
    OneSlot i s (t.sourceFault i l m) := by
  unfold State.sourceFault
  dsimp only
  repeat' split
  all_goals first
    | exact ((h.background _ _ _).giveEach _ _).settle _
    | exact (h.background _ _ _).settle _
    | exact h.background _ _ _

theorem targetFault (l : Lease) (h : OneSlot i s t) : OneSlot i s (t.targetFault i l) := by
  unfold State.targetFault
  dsimp only
  repeat' split
  all_goals first
    | exact h.failLease _
    | exact h.background _ _ _
    | exact (h.background _ _ _).giveEach _ _

theorem closingFault (e : EngineId) (l : Lease) (h : OneSlot i s t) :
    OneSlot i s (t.closingFault e i l) :=
  (h.setLease _).closeIfQuiet

theorem onFault (e : EngineId) (h : OneSlot i s t) : OneSlot i s (Machine.onFault e i t) := by
  unfold Machine.onFault
  repeat' split
  all_goals first
    | exact h
    | exact (h.dropUser _).closingFault _ _
    | exact (h.dropUser _).targetFault _
    | exact (h.dropUser _).sourceFault _ _
    | exact (h.dropUser _).failLease _

theorem onCompletion (h : OneSlot i s t) : OneSlot i s (Machine.onCompletion i t) := by
  unfold Machine.onCompletion
  repeat' split
  all_goals first
    | exact h
    | exact h.background _ _ _
    | exact h.settle _
    | exact h.closeIfQuiet

end OneSlot

/-! ### Loops over the slots -/

/-- A loop whose round for slot `i` changes slot `i` alone: a slot that the list does not name stays. -/
theorem forEach_slot_not_mem (f : SlotId → State → State) (hf : ∀ i t, OneSlot i t (f i t))
    {xs : List SlotId} (s : State) {j : SlotId} (hj : j ∉ xs) : (forEach xs f s).slot j = s.slot j := by
  induction xs generalizing s with
  | nil => rfl
  | cons x xs ih =>
    simp only [List.mem_cons, not_or] at hj
    exact (ih (f x s) hj.2).trans ((hf x s).slots j hj.1)

/-- The state in which the round for slot `i` of such a loop over distinct slots runs. -/
theorem forEach_slot_mem (f : SlotId → State → State) (hf : ∀ i t, OneSlot i t (f i t))
    {xs : List SlotId} (hn : xs.Nodup) (s : State) {i : SlotId} (hi : i ∈ xs) :
    ∃ ys : List SlotId, i ∉ ys ∧ (forEach ys f s).slot i = s.slot i ∧
      (forEach xs f s).slot i = (f i (forEach ys f s)).slot i := by
  induction xs generalizing s with
  | nil => cases hi
  | cons x xs ih =>
    have hd := List.nodup_cons.1 hn
    rcases List.mem_cons.1 hi with rfl | hi
    · exact ⟨[], by simp, rfl, forEach_slot_not_mem f hf (f i s) hd.1⟩
    · obtain ⟨ys, h1, h2, h3⟩ := ih hd.2 (f x s) hi
      have hne : i ≠ x := fun h => hd.1 (h ▸ hi)
      exact ⟨x :: ys, by simp [hne, h1], h2.trans ((hf x s).slots i hne), h3⟩

theorem allSlots_nodup : allSlots.Nodup := List.nodup_finRange 24

theorem mem_allSlots (i : SlotId) : i ∈ allSlots := List.mem_finRange i

end Sys2Proof.Machine
end

