-- ==== Sys2Proof/Laws/Taking.lean ====
section
/-! SUPPORT. What the taking of a command can do: it answers OK from the command's own run, refuses, denies the client, or
does not occur. -/

namespace Sys2Proof.Machine

/-- The state that the run of a command taken from port `p` sees: the command has left its slot. -/
def State.seen (s : State) (p : Port) : State := ({ s with touched := [] } : State).afterTaking p

/-! ### What the taking changes before the run -/

section seen

variable (s : State) (p : Port)

@[simp] theorem State.seen_slots : (s.seen p).slots = s.slots := by cases p <;> rfl
@[simp] theorem State.seen_slot (i : SlotId) : (s.seen p).slot i = s.slot i := by cases p <;> rfl
@[simp] theorem State.seen_lease (i : SlotId) : (s.seen p).lease? i = s.lease? i := by cases p <;> rfl
@[simp] theorem State.seen_engines : (s.seen p).engines = s.engines := by cases p <;> rfl
@[simp] theorem State.seen_engine (e : EngineId) : (s.seen p).engine e = s.engine e := by cases p <;> rfl
@[simp] theorem State.seen_outputs : (s.seen p).outputs = s.outputs := by cases p <;> rfl
@[simp] theorem State.seen_output (o : OutputId) : (s.seen p).output o = s.output o := by cases p <;> rfl
@[simp] theorem State.seen_input (r : RefInput) : (s.seen p).input r = s.input r := by cases p <;> cases r <;> rfl
@[simp] theorem State.seen_quota (c : ClientId) : (s.seen p).quota c = s.quota c := by cases p <;> rfl
@[simp] theorem State.seen_params : (s.seen p).params = s.params := by cases p <;> rfl
@[simp] theorem State.seen_selection : (s.seen p).selection = s.selection := by cases p <;> rfl
@[simp] theorem State.seen_supervisor : (s.seen p).supervisor = s.supervisor := by cases p <;> rfl
@[simp] theorem State.seen_deviceNotices : (s.seen p).deviceNotices = s.deviceNotices := by cases p <;> rfl
@[simp] theorem State.seen_touched : (s.seen p).touched = [] := by cases p <;> rfl
@[simp] theorem State.seen_lastServed : (s.seen p).lastServed = p := by cases p <;> rfl
@[simp] theorem State.seen_pending : (s.seen p).pending = s.pending := by cases p <;> rfl

theorem State.seen_port (q : Port) :
    (s.seen p).port q = if q = p then { s.port p with exchange := .empty } else s.port q := by
  cases p <;> cases q <;> rfl

@[simp] theorem State.seen_notices (q : Port) : ((s.seen p).port q).notices = (s.port q).notices := by
  cases p <;> cases q <;> rfl

@[simp] theorem State.seen_accepts (q : Port) (c : ClientId) :
    (s.seen p).accepts q c = s.accepts q c := by
  cases p <;> cases q <;> rfl

end seen

/-! ### The arbiter -/

/-- The command taken next is held on its port, and the part is READY. -/
theorem State.held_of_nextTaken {s : State} {p : Port} {c : HeldCommand} (h : s.nextTaken = some (p, c)) :
    (s.port p).exchange = .held c ∧ s.ready = true := by
  unfold State.nextTaken at h
  split at h
  · cases h
  · rename_i q hq
    have hr : s.ready = true := by
      unfold State.arbitrate at hq
      split at hq
      · cases hq
      · rename_i hn; simpa using hn
    split at h
    · rename_i d hd
      cases h
      exact ⟨hd, hr⟩
    · cases h
    · cases h

/-- A port that answers a held command has held one; an empty or answered port is not chosen. -/
theorem State.nextTaken_none_of_no_held {s : State}
    (h : ∀ p c, (s.port p).exchange ≠ .held c) : s.nextTaken = none := by
  cases hn : s.nextTaken with
  | none => rfl
  | some x => exact absurd (State.held_of_nextTaken hn).1 (h x.1 x.2)

/-! ### The outcome of a taking -/

/-- A response placed without a save, after a run that kept the port served, is the answered state. -/
theorem State.place_answered (t : State) (p : Port) (c : HeldCommand) (st : Status) (body : List Byte)
    (h : t.lastServed = p) :
    { t.place p (responseTo c st body) false with touched := [] } = t.answered p c st body := by
  subst h
  cases hp : t.lastServed <;> simp [State.place, State.answered, State.setPort, hp]

/-- What the answer hides of the state before the taking: the exchange, the last port served and the marks. -/
theorem State.seen_answered (s : State) (p : Port) (c : HeldCommand) (st : Status) (body : List Byte) :
    (s.seen p).answered p c st body = s.answered p c st body := by
  cases p <;> rfl

section takeCode

variable {s : State} {p : Port} {c : HeldCommand} {code : Byte}
  {run : Port → HeldCommand → State → Except Denial Reply}

/-- The taking of a command that the row names, from the state its run sees. -/
theorem takeCode_eq (h : s.nextTaken = some (p, c)) (hc : c.code = code) :
    takeCode code run s = { (s.seen p).respond p c run with touched := [] } := by
  have h' : ({ s with touched := [] } : State).nextTaken = some (p, c) := h
  simp [takeCode, event, State.take, h', hc, State.seen]

/-- A command whose run is not refused: its reply is placed. -/
theorem takeCode_ok {r : Reply} (h : s.Takes p c) (hc : c.code = code) (hr : run p c (s.seen p) = .ok r) :
    takeCode code run s =
      { r.state.place p (responseTo c r.status r.body) r.save with touched := [] } := by
  rw [takeCode_eq h.next hc]
  simp [State.respond, h.client, hr]

/-- A command whose run is not refused, is not saved and keeps the port served. -/
theorem takeCode_answered {r : Reply} (h : s.Takes p c) (hc : c.code = code)
    (hr : run p c (s.seen p) = .ok r) (hs : r.save = false) (hl : r.state.lastServed = p) :
    takeCode code run s = r.state.answered p c r.status r.body := by
  rw [takeCode_ok h hc hr, hs, State.place_answered _ _ _ _ _ hl]

/-- A refused command changes nothing but the exchange and the last port served (00_scope 6.5). -/
theorem takeCode_refused {d : Denial} (h : s.Takes p c) (hc : c.code = code)
    (hr : run p c (s.seen p) = .error d) :
    takeCode code run s = s.answered p c d.status d.body := by
  rw [takeCode_eq h.next hc]
  simp only [State.respond, State.seen_accepts, h.client, hr, if_true]
  rw [State.place_answered _ _ _ _ _ (by simp), State.seen_answered]

/-- A command of a client that the port does not accept is denied (R17). -/
theorem takeCode_denied (h : s.nextTaken = some (p, c)) (hc : c.code = code)
    (hd : s.accepts p c.client = false) :
    takeCode code run s = s.answered p c .clientDenied [absentByte] := by
  rw [takeCode_eq h hc]
  simp only [State.respond, State.seen_accepts, hd]
  exact (State.place_answered _ _ _ _ _ (by simp)).trans (State.seen_answered _ _ _ _ _)

/-- A row whose command is not the one taken next does not occur (log entry 1). -/
theorem takeCode_other (h : ∀ p c, s.nextTaken = some (p, c) → c.code ≠ code) :
    takeCode code run s = { s with touched := [] } := by
  cases hn : s.nextTaken with
  | none =>
    have h' : ({ s with touched := [] } : State).nextTaken = none := hn
    simp [takeCode, event, State.take, h']
  | some x =>
    have h' : ({ s with touched := [] } : State).nextTaken = some (x.1, x.2) := hn
    simp [takeCode, event, State.take, h', h x.1 x.2 hn]

end takeCode

/-! ### The checks -/

@[simp] theorem ensure_true (d : Denial) : ensure true d = .ok () := rfl
@[simp] theorem ensure_false (d : Denial) : ensure false d = .error d := rfl
@[simp] theorem need_some {α : Type} (x : α) (d : Denial) : need (some x) d = .ok x := rfl
@[simp] theorem need_none {α : Type} (d : Denial) : need (none : Option α) d = .error d := rfl

/-- A list all of whose elements pass is not refused. -/
theorem checkEach_ok {α : Type} {ok : α → Bool} {st : Status} (k : Nat) {xs : List α}
    (h : ∀ x ∈ xs, ok x = true) : checkEach ok st k xs = .ok () := by
  induction xs generalizing k with
  | nil => rfl
  | cons x xs ih =>
    simp only [checkEach, h x (by simp), if_true]
    exact ih (k + 1) fun y hy => h y (by simp [hy])

/-- The first element that fails gives the position. -/
theorem checkEach_error {α : Type} {ok : α → Bool} {st : Status} (j k : Nat) {xs : List α} {x : α}
    (hx : xs[k]? = some x) (hf : ok x = false)
    (hb : ∀ (i : Nat) y, i < k → xs[i]? = some y → ok y = true) :
    checkEach ok st j xs = .error (deniedAt st (j + k)) := by
  induction xs generalizing j k with
  | nil => simp at hx
  | cons y ys ih =>
    cases k with
    | zero => simp at hx; subst hx; simp [checkEach, hf]
    | succ k =>
      have hy : ok y = true := hb 0 y (by omega) (by simp)
      simp only [checkEach, hy, if_true]
      rw [ih (j + 1) k (by simpa using hx) fun i z hi hz => hb (i + 1) z (by omega) (by simpa using hz)]
      congr 2
      omega

/-- Two lists name the same outputs exactly when no position differs. -/
theorem mismatch_eq_none (k : Nat) (xs ys : List Entry) :
    mismatch k xs ys = none ↔ outputsOf xs = outputsOf ys := by
  induction xs generalizing k ys with
  | nil => cases ys <;> simp [mismatch, outputsOf]
  | cons x xs ih =>
    cases ys with
    | nil => simp [mismatch, outputsOf]
    | cons y ys =>
      by_cases h : x.output = y.output
      · have := ih (k + 1) ys
        simpa [mismatch, outputsOf, h] using this
      · simp [mismatch, outputsOf, h]

end Sys2Proof.Machine
end

