-- ==== Sys2Proof/Laws/Waveform.lean ====
section
/-! SUPPORT. The arithmetic of a clock at a pin, the pin of a record in each of its states, the count of a notice in one
event. -/

namespace Sys2Proof.Machine

/-! ### One clock -/

/-- A clock has last fallen less than a period ago. -/
theorem Wave.since_lt {w : Wave} (h : 0 < w.half) (t : Nat) : w.since t < w.period :=
  Nat.mod_lt _ (by unfold Wave.period; omega)

/-- The clock falls at `fallAfter`. -/
theorem Wave.since_fallAfter {w : Wave} (h : 0 < w.half) (t : Nat) : w.since (w.fallAfter t) = 0 := by
  have hp := w.since_lt h t
  have hd := Nat.div_add_mod (t + (w.period - w.fall % w.period)) w.period
  have : w.fallAfter t + (w.period - w.fall % w.period) =
      w.period * ((t + (w.period - w.fall % w.period)) / w.period + 1) := by
    rw [Nat.mul_add, Nat.mul_one]
    unfold Wave.fallAfter Wave.since at *
    omega
  unfold Wave.since at *
  rw [this, Nat.mul_mod_right]

/-- The clock falls at `fallFrom`. -/
theorem Wave.since_fallFrom {w : Wave} (h : 0 < w.half) (t : Nat) : w.since (w.fallFrom t) = 0 := by
  unfold Wave.fallFrom
  split
  · assumption
  · exact w.since_fallAfter h t

/-- Nothing falls before the moment it is looked for. -/
theorem Wave.le_fallFrom (w : Wave) (t : Nat) : t ≤ w.fallFrom t := by
  unfold Wave.fallFrom
  split <;> omega

/-- One unit of time later a clock has fallen one unit longer ago, or just now. -/
theorem Wave.since_succ (w : Wave) (t : Nat) : w.since (t + 1) = (w.since t + 1) % w.period := by
  unfold Wave.since
  rw [Nat.add_right_comm, Nat.add_mod, Nat.add_mod (_ % _) 1]
  simp

/-- A clock goes from high to low exactly where it falls. -/
theorem Wave.falls_iff {w : Wave} (h : 0 < w.half) (t : Nat) :
    w.high t = true ∧ w.high (t + 1) = false ↔ w.since (t + 1) = 0 := by
  have hl := w.since_lt h t
  have hs := w.since_succ t
  unfold Wave.high
  simp only [decide_eq_true_eq, decide_eq_false_iff_not]
  unfold Wave.period at hl hs
  by_cases hk : w.since t + 1 = 2 * w.half
  · rw [hk, Nat.mod_self] at hs
    omega
  · rw [Nat.mod_eq_of_lt (by omega)] at hs
    omega

/-- The period of a divided clock. -/
theorem Wave.divided_period (w : Wave) (q : Nat) : (w.divided q).period = w.period * q := by
  simp [Wave.divided, Wave.period, Nat.mul_assoc]

/-! ### A changeover and the pin of a record -/

/-- Holding does not end before leaving (R80). -/
theorem leavingEnds_le_holdingEnds (source target : Option Wave) (t : Nat) :
    leavingEnds source t ≤ holdingEnds source target t := by
  cases target with
  | none => exact Nat.le_refl _
  | some w => exact w.le_fallFrom _

/-- The pin from the changeover-done on (R80). -/
theorem pinDuring_done {source target : Option Wave} {t u : Nat} (h : holdingEnds source target t ≤ u) :
    pinDuring source target t u = target.any fun w => w.high u := by
  have := leavingEnds_le_holdingEnds source target t
  unfold pinDuring
  rw [if_neg (by omega), if_neg (by omega)]

section record

variable (vco : VcoClocks) (began u : Nat)

@[simp] theorem OutState.pinAt_quiet : OutState.quiet.pinAt vco began u = false := rfl
@[simp] theorem OutState.pinAt_running (e : EngineId) (q : Nat) :
    (OutState.running e q).pinAt vco began u = ((vco e).divided q).high u := rfl
@[simp] theorem OutState.pinAt_changing (source target : Target) (waiting : Option Target) :
    (OutState.changing source target waiting).pinAt vco began u =
      pinDuring (source.wave vco) (target.wave vco) began u := rfl
@[simp] theorem OutState.pinAt_ofTarget (t : Target) :
    (OutState.ofTarget t).pinAt vco began u = (t.wave vco).any fun w => w.high u := by
  cases t <;> rfl

end record

/-! ### Notices and limits -/

/-- An entry that the event left alone. -/
@[simp] theorem countedOnce_same (n : Option Notice) : countedOnce n n = n := by simp [countedOnce]

/-- The rows HOLDOVER_TIMER_LIMIT of a list of engines, taken one by one. -/
@[simp] theorem State.limitsReached_nil (s t : State) : State.LimitsReached [] s t ↔ t = s := Iff.rfl
@[simp] theorem State.limitsReached_cons (e : EngineId) (es : List EngineId) (s t : State) :
    State.LimitsReached (e :: es) s t ↔ State.LimitsReached es (event (State.holdoverLimitReached e) s) t := by
  simp [State.LimitsReached, exec, execHoldoverTimerLimit]

end Sys2Proof.Machine
end

