-- ==== Sys2Proof/Laws/Work.lean ====
section
/-! SUPPORT. The outer bound of lease work: every shared operation on leases, engines and outputs leaves the pins, the
readiness, the roles, the configuration, the inputs, the queue and, on each port, everything but the lease notices. -/

namespace Sys2Proof.Machine

theorem LeaseWork.refl (s : State) : LeaseWork s s :=
  ⟨rfl, rfl, rfl, rfl, rfl, rfl, rfl, rfl, rfl, rfl, rfl, rfl, fun _ => rfl⟩

theorem LeaseWork.trans {s t u : State} (h : LeaseWork s t) (k : LeaseWork t u) : LeaseWork s u where
  rstnLow := k.rstnLow.trans h.rstnLow
  ready := k.ready.trans h.ready
  supselPort := k.supselPort.trans h.supselPort
  supervisor := k.supervisor.trans h.supervisor
  lastServed := k.lastServed.trans h.lastServed
  quotas := k.quotas.trans h.quotas
  refA := k.refA.trans h.refA
  refB := k.refB.trans h.refB
  selection := k.selection.trans h.selection
  params := k.params.trans h.params
  freeCount := k.freeCount.trans h.freeCount
  pending := k.pending.trans h.pending
  ports p := by rw [k.ports p, h.ports p]

/-- A property that every step of a loop keeps is kept by the loop. -/
theorem forEach_keeps {α : Type} {P : State → Prop} (f : α → State → State)
    (hf : ∀ x t, P t → P (f x t)) (xs : List α) {s : State} (h : P s) : P (forEach xs f s) := by
  induction xs generalizing s with
  | nil => exact h
  | cons x xs ih => exact ih (hf x s h)

namespace LeaseWork

variable {s t : State}

theorem setSlot (i : SlotId) (x : Slot) (h : LeaseWork s t) : LeaseWork s (t.setSlot i x) :=
  h.trans ⟨rfl, rfl, rfl, rfl, rfl, rfl, rfl, rfl, rfl, rfl, rfl, rfl, by simp⟩

theorem setLease (i : SlotId) (l : Lease) (h : LeaseWork s t) : LeaseWork s (t.setLease i l) :=
  h.setSlot i _

theorem setEngine (e : EngineId) (x : EngineRec) (h : LeaseWork s t) : LeaseWork s (t.setEngine e x) :=
  h.trans ⟨rfl, rfl, rfl, rfl, rfl, rfl, rfl, rfl, rfl, rfl, rfl, rfl, by simp⟩

theorem setOutput (o : OutputId) (x : OutputRec) (h : LeaseWork s t) : LeaseWork s (t.setOutput o x) :=
  h.trans ⟨rfl, rfl, rfl, rfl, rfl, rfl, rfl, rfl, rfl, rfl, rfl, rfl, by simp⟩

/-- A write of a port that changes its notices alone. -/
theorem setNotices (p : Port) (v : Vector (Option Notice) 24) (h : LeaseWork s t) :
    LeaseWork s (t.setPort p { t.port p with notices := v }) := by
  refine h.trans ⟨?_, ?_, ?_, ?_, ?_, ?_, ?_, ?_, ?_, ?_, ?_, ?_, ?_⟩
  all_goals cases p <;> first | rfl | (intro q; cases q <;> rfl)

theorem touched (l : List SlotId) (h : LeaseWork s t) : LeaseWork s { t with touched := l } :=
  h.trans ⟨rfl, rfl, rfl, rfl, rfl, rfl, rfl, rfl, rfl, rfl, rfl, rfl, fun p => by cases p <;> rfl⟩

theorem deviceNotices (d : DeviceNotices) (h : LeaseWork s t) :
    LeaseWork s { t with deviceNotices := d } :=
  h.trans ⟨rfl, rfl, rfl, rfl, rfl, rfl, rfl, rfl, rfl, rfl, rfl, rfl, fun p => by cases p <;> rfl⟩

theorem raise (i : SlotId) (closed : Bool) (h : LeaseWork s t) : LeaseWork s (t.raise i closed) := by
  unfold State.raise
  split
  · exact h
  · exact (h.setNotices _ _).touched _

theorem tell (told : Bool) (i : SlotId) (h : LeaseWork s t) : LeaseWork s (t.tell told i) := by
  unfold State.tell
  split
  · exact h
  · exact h.raise i false

theorem discardNotice (p : Port) (i : SlotId) (h : LeaseWork s t) : LeaseWork s (t.discardNotice p i) :=
  h.setNotices _ _

theorem raiseEngineFault (e : EngineId) (h : LeaseWork s t) : LeaseWork s (t.raiseEngineFault e) :=
  h.deviceNotices _

theorem give (o : OutputId) (g : Target) (h : LeaseWork s t) : LeaseWork s (t.give o g) :=
  h.setOutput _ _

theorem giveEach (want : OutState → Entry → Option Target) (es : List Entry) (h : LeaseWork s t) :
    LeaseWork s (t.giveEach want es) := by
  refine forEach_keeps (P := LeaseWork s) _ (fun x u hu => ?_) es h
  split
  · exact hu
  · exact hu.give _ _

theorem forceQuietTied (e : EngineId) (h : LeaseWork s t) : LeaseWork s (t.forceQuietTied e) := by
  refine forEach_keeps (P := LeaseWork s) _ (fun o u hu => ?_) _ h
  dsimp only
  split
  · exact hu.setOutput _ _
  · exact hu

theorem setHolders (k : Option SlotId) (es : List Entry) (h : LeaseWork s t) :
    LeaseWork s (t.setHolders k es) :=
  forEach_keeps (P := LeaseWork s) _ (fun _ _ hu => hu.setOutput _ _) es h

theorem dropUser (e : Option EngineId) (h : LeaseWork s t) : LeaseWork s (t.dropUser e) := by
  unfold State.dropUser
  split
  · exact h
  · exact h.setEngine _ _

theorem reprogram (e : EngineId) (p : Plan) (h : LeaseWork s t) : LeaseWork s (t.reprogram e p) :=
  h.setEngine _ _

theorem commit (r : AllocRequest) (e : EngineId) (h : LeaseWork s t) : LeaseWork s (t.commit r e) :=
  h.setEngine _ _

theorem enter (i : SlotId) (h : LeaseWork s t) : LeaseWork s (t.enter i) := by
  unfold State.enter
  repeat' split
  all_goals first | exact h | exact h.setLease _ _ | exact (h.setLease _ _).giveEach _ _

theorem finishMigration (i : SlotId) (l : Lease) (m : Migration) (h : LeaseWork s t) :
    LeaseWork s (t.finishMigration i l m) := by
  unfold State.finishMigration
  split
  · exact h.setLease _ _
  · exact (h.dropUser _).setLease _ _
  · cases l.engine with
    | none => exact h.setLease _ _
    | some e => exact (h.reprogram e _).setLease _ _

theorem settle (told : Bool) (i : SlotId) (h : LeaseWork s t) : LeaseWork s (t.settle told i) := by
  unfold State.settle
  repeat' split
  all_goals first | exact h | exact (h.finishMigration _ _ _).tell _ _

theorem background (i : SlotId) (l : Lease) (st : LeaseState) (r : Reason) (h : LeaseWork s t) :
    LeaseWork s (t.background i l st r) :=
  (h.setLease _ _).raise _ _

theorem startPending (e : EngineId) (i : SlotId) (l : Lease) (h : LeaseWork s t) :
    LeaseWork s (t.startPending e i l) := by
  unfold State.startPending
  split
  · exact h.background _ _ _ _
  · exact (h.background _ _ _ _).giveEach _ _

theorem relock (e : EngineId) (i : SlotId) (l : Lease) (h : LeaseWork s t) :
    LeaseWork s (t.relock e i l) := by
  unfold State.relock
  split
  · exact h.background _ _ _ _
  · exact h.giveEach _ _

theorem migrationLocked (e : EngineId) (l : Lease) (m : Migration) (h : LeaseWork s t) :
    LeaseWork s (t.migrationLocked e l m) := by
  unfold State.migrationLocked
  repeat' split
  all_goals first | exact h | exact h.giveEach _ _

theorem mute (l : Lease) (h : LeaseWork s t) : LeaseWork s (t.mute l) := by
  unfold State.mute
  split
  · exact h.giveEach _ _
  · exact h

theorem migrationSlip (e : EngineId) (l : Lease) (m : Migration) (h : LeaseWork s t) :
    LeaseWork s (t.migrationSlip e l m) := by
  unfold State.migrationSlip
  repeat' split
  all_goals first | exact h | exact h.mute _ | exact h.giveEach _ _

theorem onLocked (e : EngineId) (i : SlotId) (h : LeaseWork s t) :
    LeaseWork s (Machine.onLocked e i t) := by
  unfold Machine.onLocked
  repeat' split
  all_goals first
    | exact h
    | exact h.startPending _ _ _
    | exact h.relock _ _ _
    | exact (h.migrationLocked _ _ _).settle _ _

theorem onSlip (e : EngineId) (i : SlotId) (h : LeaseWork s t) : LeaseWork s (Machine.onSlip e i t) := by
  unfold Machine.onSlip
  repeat' split
  all_goals first
    | exact h
    | exact h.background _ _ _ _
    | exact (h.background _ _ _ _).mute _
    | exact ((h.background _ _ _ _).migrationSlip _ _ _).settle _ _

theorem onHoldover (e : EngineId) (i : SlotId) (h : LeaseWork s t) :
    LeaseWork s (Machine.onHoldover e i t) := by
  unfold Machine.onHoldover
  repeat' split
  all_goals first
    | exact h
    | exact h.background _ _ _ _
    | exact (h.background _ _ _ _).settle _ _

theorem retire (i : SlotId) (l : Lease) (h : LeaseWork s t) : LeaseWork s (t.retire i l) :=
  (h.raise _ _).setSlot _ _

theorem freeTold (i : SlotId) (l : Lease) (h : LeaseWork s t) : LeaseWork s (t.freeTold i l) :=
  (h.discardNotice _ _).setSlot _ _

theorem freeSlot (i : SlotId) (h : LeaseWork s t) : LeaseWork s (t.freeSlot i) := by
  unfold State.freeSlot
  split
  · exact h
  · exact h.setSlot _ _
  · exact h.setSlot _ _

theorem giveUp (l : Lease) (h : LeaseWork s t) : LeaseWork s (t.giveUp l) :=
  (((h.dropUser _).dropUser _).setHolders _ _).dropUser _

theorem closeIfQuiet (i : SlotId) (h : LeaseWork s t) : LeaseWork s (t.closeIfQuiet i) := by
  unfold State.closeIfQuiet
  repeat' split
  all_goals first | exact h | exact (h.giveUp _).retire _ _

theorem startClosing (told : Bool) (r : Reason) (i : SlotId) (l : Lease) (h : LeaseWork s t) :
    LeaseWork s (t.startClosing told r i l) :=
  ((h.setLease _ _).tell _ _).giveEach _ _

theorem endLease (told : Bool) (r : Reason) (i : SlotId) (l : Lease) (h : LeaseWork s t) :
    LeaseWork s (t.endLease told r i l) := by
  unfold State.endLease
  split
  · dsimp only
    split
    · exact ((h.setLease _ _).giveUp _).freeTold _ _
    · exact ((h.setLease _ _).giveUp _).retire _ _
  · exact h.startClosing _ _ _ _

theorem failLease (i : SlotId) (l : Lease) (h : LeaseWork s t) : LeaseWork s (t.failLease i l) :=
  h.background _ _ _ _

theorem sourceFault (i : SlotId) (l : Lease) (m : Migration) (h : LeaseWork s t) :
    LeaseWork s (t.sourceFault i l m) := by
  unfold State.sourceFault
  dsimp only
  repeat' split
  all_goals first
    | exact ((h.background _ _ _ _).giveEach _ _).settle _ _
    | exact (h.background _ _ _ _).settle _ _
    | exact h.background _ _ _ _

theorem targetFault (i : SlotId) (l : Lease) (h : LeaseWork s t) : LeaseWork s (t.targetFault i l) := by
  unfold State.targetFault
  dsimp only
  repeat' split
  all_goals first
    | exact h.failLease _ _
    | exact h.background _ _ _ _
    | exact (h.background _ _ _ _).giveEach _ _

theorem closingFault (e : EngineId) (i : SlotId) (l : Lease) (h : LeaseWork s t) :
    LeaseWork s (t.closingFault e i l) :=
  (h.setLease _ _).closeIfQuiet _

theorem onFault (e : EngineId) (i : SlotId) (h : LeaseWork s t) : LeaseWork s (Machine.onFault e i t) := by
  unfold Machine.onFault
  repeat' split
  all_goals first
    | exact h
    | exact (h.dropUser _).closingFault _ _ _
    | exact (h.dropUser _).targetFault _ _
    | exact (h.dropUser _).sourceFault _ _ _
    | exact (h.dropUser _).failLease _ _

theorem declareFault (e : EngineId) (r : FaultReason) (h : LeaseWork s t) :
    LeaseWork s (t.declareFault e r) :=
  (forEach_keeps (P := LeaseWork s) _ (fun i _ hu => hu.onFault e i) _
    ((h.setEngine _ _).forceQuietTied e)).raiseEngineFault e

theorem onCompletion (i : SlotId) (h : LeaseWork s t) : LeaseWork s (Machine.onCompletion i t) := by
  unfold Machine.onCompletion
  repeat' split
  all_goals first
    | exact h
    | exact h.background _ _ _ _
    | exact h.settle _ _
    | exact h.closeIfQuiet _

theorem announceSelection (h : LeaseWork s t) : LeaseWork s t.announceSelection := by
  refine forEach_keeps (P := LeaseWork s) _ (fun e u hu => ?_) _
    (forEach_keeps (P := LeaseWork s) _ (fun e u hu => hu.setEngine _ _) _ h)
  split
  · exact forEach_keeps (P := LeaseWork s) _ (fun i v hv => hv.onHoldover e i) _ hu
  · exact hu

theorem lockAchieved (e : EngineId) (h : LeaseWork s t) : LeaseWork s (t.lockAchieved e) := by
  unfold State.lockAchieved
  split
  · exact forEach_keeps (P := LeaseWork s) _ (fun i u hu => hu.onLocked e i) _ (h.setEngine _ _)
  · exact h

theorem lockLost (e : EngineId) (h : LeaseWork s t) : LeaseWork s (t.lockLost e) := by
  unfold State.lockLost
  split
  all_goals first
    | exact forEach_keeps (P := LeaseWork s) _ (fun i u hu => hu.onSlip e i) _ (h.setEngine _ _)
    | exact h.setEngine _ _
    | exact h

theorem acquisitionExpiry (e : EngineId) (h : LeaseWork s t) : LeaseWork s (t.acquisitionExpiry e) := by
  unfold State.acquisitionExpiry
  split
  · exact h.declareFault _ _
  · exact h

theorem holdoverLimitReached (e : EngineId) (h : LeaseWork s t) :
    LeaseWork s (t.holdoverLimitReached e) := by
  unfold State.holdoverLimitReached
  split
  · exact h.declareFault _ _
  · exact h

theorem lingerExpiry (e : EngineId) (h : LeaseWork s t) : LeaseWork s (t.lingerExpiry e) := by
  unfold State.lingerExpiry
  split
  · exact h.setEngine _ _
  · exact h

theorem changeoverDone (o : OutputId) (h : LeaseWork s t) : LeaseWork s (t.changeoverDone o) := by
  unfold State.changeoverDone State.reportCompletion
  repeat' split
  all_goals first | exact h | exact (h.setOutput _ _).onCompletion _ | exact h.setOutput _ _

theorem openAccepted (p : Port) (c : ClientId) (a : OpenArgs) (cs : List EngineClass) (i : SlotId)
    (e : EngineId) (h : LeaseWork s t) : LeaseWork s (t.openAccepted p c a cs i e) :=
  (((h.commit _ _).setLease _ _).setHolders _ _).enter _

theorem startOne (p : Port) (i : SlotId) (h : LeaseWork s t) : LeaseWork s (t.startOne p i) := by
  unfold State.startOne
  repeat' split
  all_goals first | exact h | exact h.setLease _ _ | exact ((h.setLease _ _).giveEach _ _).tell _ _

theorem rebind (told : Bool) (i : SlotId) (l : Lease) (r : RetuneRequest) (e : EngineId)
    (h : LeaseWork s t) : LeaseWork s (t.rebind told i l r e) :=
  ((((h.commit _ _).dropUser _).setLease _ _).enter _).tell _ _

theorem retuneInPlace (told : Bool) (i : SlotId) (l : Lease) (r : RetuneRequest) (h : LeaseWork s t) :
    LeaseWork s (t.retuneInPlace told i l r) :=
  (h.setLease _ _).tell _ _

theorem retuneLocal (told : Bool) (i : SlotId) (l : Lease) (r : RetuneRequest) (e : EngineId)
    (h : LeaseWork s t) : LeaseWork s (t.retuneLocal told i l r e) :=
  (((h.setLease _ _).giveEach _ _).tell _ _).settle _ _

theorem retuneOverlap (told : Bool) (i : SlotId) (l : Lease) (r : RetuneRequest) (e : EngineId)
    (h : LeaseWork s t) : LeaseWork s (t.retuneOverlap told i l r e) := by
  unfold State.retuneOverlap
  dsimp only
  split
  · exact ((((h.commit _ _).setLease _ _).giveEach _ _).tell _ _).settle _ _
  · exact (((h.commit _ _).setLease _ _).tell _ _).settle _ _

theorem retuneGap (told : Bool) (i : SlotId) (l : Lease) (r : RetuneRequest) (e : EngineId)
    (h : LeaseWork s t) : LeaseWork s (t.retuneGap told i l r e) :=
  ((((h.setEngine _ _).setLease _ _).giveEach _ _).tell _ _).settle _ _

end LeaseWork

end Sys2Proof.Machine
end

