-- ==== Sys2Proof/Tests/Slice0.lean ====
section
/-! SUPPORT. Tests: the static check, the codes of the wire, the worked examples of the spec step by step, and, for every
statement that has hypotheses, concrete states and operands that meet them (the theorems named `witness_…`). -/

open Sys2Proof Sys2Proof.Machine

namespace Sys2Proof.Tests

set_option Elab.async false

/-! ### Helpers -/

/-- The state that an outcome answers. -/
def nextOf (o : Host.Outcome State Fault Refusal) : Option State :=
  match o with
  | .next t => some t
  | .fault _ => none
  | .refused _ => none

/-- What a view shows of the state that a command answers. -/
def seenAfter {α : Type} (c : Instr) (s : State) (view : State → α) : Option α :=
  (nextOf (exec c s)).map view

/-- An input that has passed its trial. -/
def validInput : InputRec :=
  { InputRec.initial with state := .valid, offset := some 0, interval := ⟨true, 0⟩ }

/-- A READY part with REF_A selected. -/
def readyPart : State := { State.reset with ready := true, refA := validInput, selection := some .refA }

/-- A command of sequence number 1. -/
def cmd (client : ClientId) (code : Byte) (body : List Byte) : HeldCommand :=
  ⟨1#4, false, client, code, body, 0xAB#8⟩

/-- `s` with a command held on port A. -/
def held (s : State) (c : HeldCommand) : State := s.setPort .A { s.port .A with exchange := .held c }

/-- An engine with one user, in a state. -/
def engineIn (st : EngineState) : EngineRec :=
  { EngineRec.initial with state := st, plan := some ⟨250, 1⟩, users := 1 }

/-- A LOCKED engine with one user. -/
def lockedEngine : EngineRec := { engineIn .locked with kind := .relock }

/-- An ACQUIRING engine with one user, 1 ms before its limit. -/
def acquiringEngine : EngineRec := { engineIn .acquiring with acquisition := ⟨.running, 39, 40⟩ }

/-- A lease of client 1 homed at port A, on E0, with O0 at divider 10. -/
def leaseIn (st : LeaseState) : Lease :=
  { owner := 1, home := .A, tag := some 1, state := st, plan := ⟨250, 1⟩, cls := .general,
    flags := ⟨false, false, false, false⟩, pin := none, engine := some 0, entries := [⟨0, 10⟩],
    armed := false, migration := none, closingTarget := none, reason := .opened }

/-- The lease that holds its outputs until START. -/
def heldStart (l : Lease) : Lease := { l with flags := ⟨false, true, false, false⟩ }

/-- The READY part with a lease in slot 0, whose generation is 7, an engine E0 and the output O0. -/
def part (l : Lease) (x : EngineRec) (o : OutState) : State :=
  ((readyPart.setSlot 0 ⟨7#8, .live l⟩).setEngine 0 x).setOutput 0 ⟨some 0, o⟩

/-- O0 running from E0 at divider 10. -/
def runsListed : OutState := .running 0 10

/-- The part with an ACTIVE lease. -/
def activePart : State := part (leaseIn .active) lockedEngine runsListed

/-- The handle of slot 0 as a body. -/
def h0 : List Byte := [0x00#8, 0x07#8]

/-- A handle that reaches no lease. -/
def hBad : List Byte := [0x00#8, 0x06#8]

/-- OPEN body: tag 2, plan 250/1, GENERAL, no flag, no pin, O5 at divider 10. -/
def openBody : List Byte :=
  [0x00#8, 0x02#8, 0x00#8, 0xFA#8, 0x01#8, 0x00#8, 0x00#8, 0xFF#8, 0x01#8, 0x05#8, 0x00#8, 0x0A#8]

/-- What `openBody` reads as. -/
def openArgs : OpenArgs :=
  ⟨some 2, ⟨250, 1⟩, .general, ⟨false, false, false, false⟩, none, [⟨5, 10⟩]⟩

/-- RETUNE body on slot 0: plan, class kept, pin, O0 at a divider. -/
def retuneBody (n1 n0 d pin q : Byte) : List Byte :=
  [0x00#8, 0x07#8, n1, n0, d, 0xFF#8, pin, 0x01#8, 0x00#8, 0x00#8, q]

/-- What `retuneBody` reads as. -/
def retuneArgs (n d : Nat) (pin : Option EngineId) (q : Nat) : RetuneArgs :=
  ⟨⟨0x00#8, 0x07#8⟩, ⟨n, d⟩, none, pin, [⟨0, q⟩]⟩

/-- The request of that RETUNE, GENERAL engines eligible. -/
def retuneRequest (n d : Nat) (pin : Option EngineId) (q : Nat) : RetuneRequest :=
  ⟨⟨n, d⟩, none, .general, pin, [⟨0, q⟩], [.general]⟩

/-- A whole COMMAND frame after its kind byte. -/
def commandBytes (sc code : Byte) (body : List Byte) : List Byte :=
  sc :: code :: byte body.length :: (body ++
    [crc8 (kindCommand :: sc :: code :: byte body.length :: body)])

/-- `s` with a frame begun on port A. -/
def inFrame (s : State) : State := s.setPort .A { s.port .A with csLow := true, frame := some (s.frameAt .A) }

/-! ### The static check and the decoder -/

theorem test_wellFormed_refuses_known_kinds :
    (Instr.unknownFrameKind .A ⟨[0x00#8], []⟩).wellFormed = false ∧
    (Instr.unknownFrameKind .A ⟨[0x5C#8, 0x10#8], []⟩).wellFormed = false ∧
    (Instr.unknownFrameKind .B ⟨[0x3A#8], []⟩).wellFormed = false ∧
    (Instr.unknownFrameKind .B ⟨[0xC3#8, 0x3C#8], []⟩).wellFormed = false := by decide

theorem test_wellFormed_accepts :
    (Instr.unknownFrameKind .A ⟨[0x77#8], []⟩).wellFormed = true ∧
    (Instr.unknownFrameKind .A ⟨[], []⟩).wellFormed = true ∧ (Instr.nop .A ⟨[], []⟩).wellFormed = true := by decide

/-- Eight bits make a byte, so a byte left incomplete has seven at most. -/
theorem test_wellFormed_refuses_a_whole_byte_of_bits :
    (Instr.nop .A ⟨[], List.replicate 8 true⟩).wellFormed = false ∧
    (Instr.commandFrame .A ⟨[], List.replicate 8 true⟩).wellFormed = false ∧
    (Instr.fetch .B ⟨[], List.replicate 8 true⟩).wellFormed = false ∧
    (Instr.resync .B ⟨[], List.replicate 8 true⟩).wellFormed = false ∧
    (Instr.unknownFrameKind .A ⟨[], List.replicate 8 true⟩).wellFormed = false ∧
    (Instr.nop .A ⟨[], List.replicate 7 true⟩).wellFormed = true := by decide

theorem test_no_row_spells_a_word : decodeTableWord 8 0 = none ∧ decodeTableWord 16 0xFFFF = none := by
  decide

/-! ### The codes of the wire -/

theorem test_crc_check_value : crc8 [0x5C#8, 0x10#8, 0x0C#8, 0x00#8] = 0x9B#8 := by decide +kernel

theorem test_open_body : readOpen openBody = some openArgs := by decide

theorem test_bodies :
    readRetry [0x00#8, 0x07#8, 0x00#8, 0x00#8, 0x00#8, 0xFF#8, 0x05#8, 0x00#8] =
      some ⟨⟨0x00#8, 0x07#8⟩, none, none, some 5, none⟩ ∧
    readRetry [0x00#8, 0x07#8, 0x00#8, 0xFA#8, 0x00#8, 0xFF#8, 0xFF#8, 0x00#8] = none ∧
    readLookupTag [0x07#8, 0x01#8, 0x02#8] = some (7, 258) ∧
    readSetIrq [0x02#8] = some (false, true) ∧
    readSetClients [0x02#8, 0x55#8, 0xFE#8, 0x01#8, 0x07#8, 0x18#8] = some ⟨none, some 0xFE#8, [(7, 24)]⟩ ∧
    readScope [0x01#8] = some false ∧ readScope [0x02#8] = some true ∧
    readPairs [0x07#8, 0x00#8, 0x01#8, 0x00#8, 0x02#8] = some [(0x07#8, 65538)] ∧
    readParam 0x07#8 65535 = some (.linger 65535) ∧ readParam 0x07#8 65536 = none := by decide

theorem test_open_refuses_zero_divider :
    readOpen [0x00#8, 0x02#8, 0x00#8, 0xFA#8, 0x01#8, 0x00#8, 0x00#8, 0xFF#8, 0x01#8, 0x05#8, 0x00#8, 0x00#8] =
      none := by decide

theorem test_open_refuses_reserved_flag :
    readOpen [0x00#8, 0x02#8, 0x00#8, 0xFA#8, 0x01#8, 0x00#8, 0x10#8, 0xFF#8, 0x01#8, 0x05#8, 0x00#8, 0x0A#8] =
      none := by decide

theorem test_measured_offset :
    measuredOffset 10000000 1000000 = 0 ∧ measuredOffset 10000000 1000020 = 20 ∧
    measuredOffset 10000000 999980 = -20 ∧ measuredOffset 10000000 0 = -32768 ∧
    measuredOffset 10000000 10000000 = 32767 := by decide +kernel

/-! ### The pin during a changeover -/

/-- The worked example of 04 4.8 in tenths of a nanosecond: half periods 3.2 ns and 4 ns. -/
theorem test_changeover_times :
    leavingEnds (some ⟨32, 22⟩) 0 = 22 ∧ holdingEnds (some ⟨32, 22⟩) (some ⟨40, 45⟩) 0 = 45 ∧
    firstRise (some ⟨32, 22⟩) ⟨40, 45⟩ 0 = 85 := by decide

/-! ### From reset to a first command -/

/-- The oscillator settles, a frame begins, and a NOTICES frame of client 0 is held, taken and answered. -/
theorem test_first_command :
    ((nextOf (exec .oscillatorStable State.reset)).bind fun s =>
      (nextOf (exec (.chipSelectFall .A) s)).bind fun s =>
      (nextOf (exec (.commandFrame .A ⟨[0x10#8, 0x0C#8, 0x00#8, 0x9B#8], []⟩) s)).bind fun s =>
      (nextOf (exec .notices s)).map fun s => (s.port .A).exchange) =
    some (.answered ⟨1#4, 0x9B#8, .ok, false, [0x00#8, 0x80#8, 0x00#8]⟩) := by decide +kernel

theorem test_status_byte_at_reset : State.reset.statusByte .A = 0x08#8 ∧ State.reset.statusByte .B = 0#8 := by
  decide +kernel

theorem test_open_takes_lowest_general_engine :
    seenAfter .openLease (held activePart (cmd 1 codeOpen openBody)) (fun t =>
      ((t.lease? 1).map fun l => (l.state, l.engine), (t.output 5).holder, (t.engine 0).users)) =
    some (some (.starting, some 0), some 1, 2) := by decide +kernel

theorem test_start_of_pending_arms :
    seenAfter .start (held (part (heldStart (leaseIn .pending)) acquiringEngine .quiet)
      (cmd 1 codeStart h0)) (fun t => (t.lease? 0).map fun l => (l.state, l.armed)) =
    some (some (.pending, true)) := by decide +kernel

theorem test_query_engine_bytes :
    activePart.engineBytes 0 = [0x00#8, 0x00#8, 0x02#8, 0x00#8, 0xFA#8, 0x01#8, 0x01#8, 0x08#8, 0x00#8, 0x00#8,
      0x00#8, 0x00#8, 0x00#8, 0x00#8, 0x00#8, 0x00#8, 0x00#8, 0x00#8, 0x00#8, 0x00#8] := by decide +kernel

theorem test_tick_stands_at_the_limit :
    (nextOf (step (part (leaseIn .pending) acquiringEngine .quiet))).map
      (fun t => ((t.engine 0).acquisition.elapsed, (nextOf (step t)).map
        fun u => (u.engine 0).acquisition.elapsed)) = some (40, some 40) := by decide +kernel

/-! ### Witnesses: the queue and the taking -/

theorem witness_StepTakesFrontCommand :
    ({ State.reset with pending := [.oscillatorStable] } : State).pending = .oscillatorStable :: [] := rfl

theorem witness_EmptyQueueTicks :
    let s := part (leaseIn .pending) { acquiringEngine with linger := ⟨true, 499, 500⟩ } .quiet
    s.pending = [] ∧ s.ready = true ∧ State.reset.pending = [] ∧ State.reset.ready = false ∧
    (s.engine 0).acquisition.standing = .running ∧
    (s.engine 0).acquisition.elapsed < (s.engine 0).acquisition.limit ∧
    (s.engine 1).acquisition.standing ≠ .running ∧
    (s.engine 0).linger.running = true ∧ (s.engine 0).linger.elapsed < (s.engine 0).linger.time := by
  decide +kernel

/-- A part in whose E0 the holdover timer, and in whose REF_B both timers run, at the edges of their counts. -/
def timedPart (limit elapsed ms intervals : Nat) : State :=
  { part (leaseIn .disturbed) { engineIn .holdover with holdover := ⟨true, elapsed, ms⟩ } .quiet with
    params := { Params.initial with holdoverLimit := limit },
    refB := { InputRec.initial with
      state := .qualifying, qualification := ⟨true, intervals, 99, 10⟩, interval := ⟨true, 100⟩ } }

/-- What the tick makes of the holdover timer of E0 and of the timers of REF_B. -/
def ticked (limit elapsed ms intervals : Nat) :
    Option (HoldoverTimer × QualificationTimer × MeasurementInterval) :=
  (nextOf (step (timedPart limit elapsed ms intervals))).map fun t =>
    ((t.engine 0).holdover, t.refB.qualification, t.refB.interval)

theorem witness_EmptyQueueTicks_limits :
    ticked 0 65534 999 9 = some (⟨true, 65535, 0⟩, ⟨true, 10, 0, 10⟩, ⟨true, 100⟩) ∧
    ticked 0 65535 7 10 = some (⟨true, 65535, 7⟩, ⟨true, 10, 99, 10⟩, ⟨true, 100⟩) ∧
    ticked 3 2 998 0 = some (⟨true, 2, 999⟩, ⟨true, 1, 0, 10⟩, ⟨true, 100⟩) ∧
    ticked 3 3 0 0 = some (⟨true, 3, 0⟩, ⟨true, 1, 0, 10⟩, ⟨true, 100⟩) := by decide +kernel

theorem witness_EveryCommandAnswersNext : State.reset.touched = [] := rfl

/-- A part with a command held on both ports. -/
def bothHeld (last : Port) : State :=
  let s := held readyPart (cmd 1 codeNotices [])
  { s.setPort .B { s.port .B with exchange := .held (cmd 2 codeNotices []) } with lastServed := last }

theorem witness_ArbiterChoosesPort :
    State.reset.ready = false ∧ (held readyPart (cmd 1 codeNotices [])).ready = true ∧
    ((held readyPart (cmd 1 codeNotices [])).port .A).exchange = .held (cmd 1 codeNotices []) ∧
    ((held readyPart (cmd 1 codeNotices [])).port (Port.other .A)).exchange = .empty ∧
    (bothHeld .A).nextTaken = some (.B, cmd 2 codeNotices []) ∧
    (bothHeld .B).nextTaken = some (.A, cmd 1 codeNotices []) ∧
    (readyPart.port .A).exchange = .empty ∧ (readyPart.port .B).exchange = .empty := by decide +kernel

theorem witness_TakenCommandAnswered :
    (held readyPart (cmd 1 codeNotices [])).nextTaken = some (.A, cmd 1 codeNotices []) ∧
    (Status.badCommand).isRefusal = true := by decide +kernel

theorem witness_ClientAndCodeChecked :
    (held { readyPart with supervisor := .B } (cmd 0 codeNotices [])).nextTaken =
      some (.A, cmd 0 codeNotices []) ∧
    (held { readyPart with supervisor := .B } (cmd 0 codeNotices [])).accepts .A 0 = false ∧
    (held (readyPart.setPort .A { readyPart.port .A with mask := 0x7E#8 }) (cmd 7 codeNotices [])).accepts .A 7 =
      false ∧
    (held readyPart (cmd 7 0x16#8 [])).accepts .A 7 = true ∧
    (held readyPart (cmd 7 0x16#8 [])).nextTaken = some (.A, cmd 7 0x16#8 []) ∧
    0x16#8 ∉ knownCodes ∧ 0x0F#8 ∉ knownCodes := by decide +kernel

/-- A command held on port A is taken next and its client accepted. -/
theorem takes_held {s : State} {c : HeldCommand} (h : (held s c).nextTaken = some (.A, c))
    (k : (held s c).accepts .A c.client = true) : (held s c).Takes .A c := ⟨h, k⟩

theorem witness_RightAndBodyChecked :
    (∀ k ∈ [codeConfigure, codeSetClients, codeHandover, codeSoftReset, codeEngineClear, codeRevoke],
      (held readyPart (cmd 1 k [])).nextTaken = some (.A, cmd 1 k []) ∧
      (held readyPart (cmd 1 k [])).accepts .A 1 = true) ∧
    (∀ k ∈ knownCodes, (held readyPart (cmd 0 k [])).nextTaken = some (.A, cmd 0 k []) ∧
      (held readyPart (cmd 0 k [])).accepts .A 0 = true) ∧
    readOpen [] = none ∧ readStart [] = none ∧ readRetune h0 = none ∧ readRetry h0 = none ∧
    readHandle [0x00#8] = none ∧ readLookupTag [0x01#8, 0x00#8, 0x00#8] = none ∧ readOne 8 [0x08#8] = none ∧
    readOne 16 [0x10#8] = none ∧ readOne 6 [0x06#8] = none ∧ readSetIrq [0x04#8] = none ∧
    readSetClients [0x04#8, 0x00#8, 0x00#8, 0x00#8] = none ∧ readScope [0x03#8] = none := by decide +kernel

/-- A CONFIGURE body of nine pairs of which the first eight pass, each parameter once with a value in range. -/
def ninePairs : List Byte :=
  (List.finRange 8).flatMap (fun k => [byte (k.1 + 1), 0x00#8, if k.1 = 0 then 0x80#8 else 0x00#8, 0x00#8, 0x01#8]) ++
    [0x02#8, 0x00#8, 0x00#8, 0x00#8, 0x01#8]

/-- A CONFIGURE whose body is empty, breaks off in its second pair, or repeats a parameter in its ninth pair: none of
the positions 0 to 7 offends, so no position. -/
theorem witness_RightAndBodyChecked_configure :
    readPairs [] = some [] ∧ readPairs (List.replicate 6 0x02#8) = none ∧
    (readPairs ninePairs).map (fun ps => (ps.length, (ps.take 8).all fun x => (readParam x.1 x.2).isSome,
      decide ((ps.take 8).map Prod.fst).Nodup)) = some (9, true, true) ∧
    (∀ body ∈ [[], List.replicate 6 0x02#8, ninePairs],
      seenAfter .configure (held readyPart (cmd 0 codeConfigure body)) (fun t => (t.port .A).exchange) =
        some (.answered (responseTo (cmd 0 codeConfigure body) .badArgument [0xFF#8]))) := by decide +kernel

theorem witness_HandleOwnerStateChecked :
    (held activePart (cmd 1 codeRelease hBad)).Takes .A (cmd 1 codeRelease hBad) ∧
    readHandle hBad = some ⟨0x00#8, 0x06#8⟩ ∧ activePart.reach ⟨0x00#8, 0x06#8⟩ = none ∧
    activePart.reach ⟨0x18#8, 0x07#8⟩ = none ∧
    (held activePart (cmd 2 codeStart h0)).Takes .A (cmd 2 codeStart h0) ∧
    (held activePart (cmd 0 codeRevoke hBad)).Takes .A (cmd 0 codeRevoke hBad) ∧
    readStart h0 = some [⟨0x00#8, 0x07#8⟩] ∧
    activePart.reach ⟨0x00#8, 0x07#8⟩ = some (0, leaseIn .active) ∧
    (leaseIn .active).ownedBy 2 = false ∧ (leaseIn .active).owner ≠ 2 ∧
    (leaseIn .active).ownedBy 1 = true ∧ (leaseIn .active).startable = false :=
  ⟨takes_held (by decide +kernel) (by decide +kernel), by decide, by decide +kernel, by decide +kernel,
    takes_held (by decide +kernel) (by decide +kernel), takes_held (by decide +kernel) (by decide +kernel),
    by decide, by decide +kernel, by decide, by decide, by decide, by decide⟩

/-! ### Witnesses: the commands that read -/

/-- The READY part with slot 3 RETIRED at a port. -/
def retiredAt (p : Port) : State :=
  let s := activePart.setSlot 3 ⟨0xFF#8, .retired p⟩
  s.setPort p { s.port p with notices := (s.port p).notices.set 3 (some ⟨0xFF#8, 15, .released, true⟩) }

/-- The READY part with slot 3 RETIRED at port B. -/
def retiredPart : State := retiredAt .B

theorem witness_QueryLeaseReports :
    (held retiredPart (cmd 1 codeQueryLease h0)).Takes .A (cmd 1 codeQueryLease h0) ∧
    readHandle h0 = some ⟨0x00#8, 0x07#8⟩ ∧ (retiredPart.slot 0).gen = 0x07#8 ∧
    (retiredPart.slot 0).standing = .live (leaseIn .active) ∧
    (retiredPart.slot 3).standing = .retired .B ∧ (retiredPart.slot 23).standing = .free :=
  ⟨takes_held (by decide +kernel) (by decide +kernel), by decide, by decide +kernel, by decide +kernel,
    by decide +kernel, by decide +kernel⟩

/-- One live lease cannot repeat a tag. -/
theorem tagsUnique_of_one {s : State} (h : ∀ i, (s.lease? i).isSome = true → i = 0) : s.TagsUnique :=
  fun i j l m hl hm _ _ _ => (h i (by rw [hl]; rfl)).trans (h j (by rw [hm]; rfl)).symm

theorem witness_LookupsAnswer :
    (held activePart (cmd 1 codeLookupTag [0x01#8, 0x00#8, 0x01#8])).Takes .A
      (cmd 1 codeLookupTag [0x01#8, 0x00#8, 0x01#8]) ∧
    (held activePart (cmd 1 codeListClient [0x08#8])).Takes .A (cmd 1 codeListClient [0x08#8]) ∧
    (held activePart (cmd 1 codeListClient [0x01#8])).Takes .A (cmd 1 codeListClient [0x01#8]) ∧
    (held activePart (cmd 2 codeListClient [0x01#8])).Takes .A (cmd 2 codeListClient [0x01#8]) ∧
    (held activePart (cmd 1 codeLookupTag [0x01#8, 0x00#8, 0x01#8])).TagsUnique ∧
    readLookupTag [0x01#8, 0x00#8, 0x01#8] = some (1, 1) ∧ readOne 8 [0x01#8] = some 1 ∧
    activePart.taggedSlot 1 1 = some 0 ∧ activePart.taggedSlot 2 1 = none :=
  ⟨takes_held (by decide +kernel) (by decide +kernel), takes_held (by decide +kernel) (by decide +kernel),
    takes_held (by decide +kernel) (by decide +kernel), takes_held (by decide +kernel) (by decide +kernel),
    tagsUnique_of_one (by decide +kernel), by decide, by decide, by decide +kernel, by decide +kernel⟩

theorem witness_FindOutputReports :
    (held activePart (cmd 1 codeFindOutput [0x00#8])).Takes .A (cmd 1 codeFindOutput [0x00#8]) ∧
    (held activePart (cmd 1 codeFindOutput [0x0F#8])).Takes .A (cmd 1 codeFindOutput [0x0F#8]) ∧
    readOne 16 [0x00#8] = some 0 ∧ readOne 16 [0x0F#8] = some 15 ∧ (activePart.output 0).holder = some 0 ∧
    (activePart.output 15).holder = none :=
  ⟨takes_held (by decide +kernel) (by decide +kernel), takes_held (by decide +kernel) (by decide +kernel),
    by decide, by decide, by decide +kernel, by decide +kernel⟩

theorem witness_StandingQueriesReport :
    (held activePart (cmd 1 codeQueryEngine [0x05#8])).Takes .A (cmd 1 codeQueryEngine [0x05#8]) ∧
    (held activePart (cmd 1 codeQueryReference [])).Takes .A (cmd 1 codeQueryReference []) ∧
    (held activePart (cmd 1 codeReadConfig [])).Takes .A (cmd 1 codeReadConfig []) ∧
    readOne 6 [0x05#8] = some 5 :=
  ⟨takes_held (by decide +kernel) (by decide +kernel), takes_held (by decide +kernel) (by decide +kernel),
    takes_held (by decide +kernel) (by decide +kernel), by decide⟩

/-! ### Witnesses: notices, configuration, resets -/

theorem witness_NoticesReportAndClear :
    (held retiredPart (cmd 1 codeNotices [])).Takes .A (cmd 1 codeNotices []) ∧
    (retiredPart.slot 3).standing = .retired .B ∧
    (retiredPart.port .B).notices[3] = some ⟨0xFF#8, 15, .released, true⟩ :=
  ⟨takes_held (by decide +kernel) (by decide +kernel), by decide +kernel, by decide +kernel⟩

/-- The slot RETIRED at the very port of the command is reported in 8 bytes and freed under its next generation. -/
theorem witness_NoticesReportAndClear_freed :
    (held (retiredAt .A) (cmd 1 codeNotices [])).Takes .A (cmd 1 codeNotices []) ∧
    seenAfter .notices (held (retiredAt .A) (cmd 1 codeNotices []))
      (fun t => (t.slot 3, (t.port .A).notices[3], (t.port .A).exchange)) =
      some (⟨0x00#8, .free⟩, none, .answered (responseTo (cmd 1 codeNotices []) .ok
        [0x01#8, 0x03#8, 0xFF#8, 0x0F#8, 0x0B#8, 0x09#8, 0x80#8, 0x00#8])) :=
  ⟨takes_held (by decide +kernel) (by decide +kernel), by decide +kernel⟩

theorem witness_SetIrqWritesEnables :
    (held readyPart (cmd 1 codeSetIrq [0x03#8])).Takes .A (cmd 1 codeSetIrq [0x03#8]) ∧
    (0x03#8 : Byte).toNat < 4 :=
  ⟨takes_held (by decide +kernel) (by decide +kernel), by decide⟩

/-- CONFIGURE body: the window, and the nominal frequency of 20 MHz. -/
def configureBody : List Byte :=
  [0x02#8, 0x00#8, 0x00#8, 0x00#8, 0xC8#8, 0x01#8, 0x01#8, 0x31#8, 0x2D#8, 0x00#8]

theorem witness_ConfigureWrites :
    (held readyPart (cmd 0 codeConfigure configureBody)).Takes .A (cmd 0 codeConfigure configureBody) ∧
    readPairs configureBody = some [(0x02#8, 200), (0x01#8, 20000000)] ∧
    (∀ x ∈ [((0x02#8 : Byte), 200), (0x01#8, 20000000)], readParam x.1 x.2 ≠ none) ∧
    (∀ e, (readyPart.engine e).state.inUse = false) ∧
    readPairs (configureBody.take 5) = some [(0x02#8, 200)] :=
  ⟨takes_held (by decide +kernel) (by decide +kernel), by decide, by decide, by decide +kernel, by decide⟩

/-- CONFIGURE bodies: mode FORCE_B, and a holdover limit of 3 s. -/
def forceBody : List Byte := [0x04#8, 0x00#8, 0x00#8, 0x00#8, 0x03#8]

def limitBody : List Byte := [0x08#8, 0x00#8, 0x00#8, 0x00#8, 0x03#8]

/-- The part with a DISTURBED lease whose engine has been in HOLDOVER for `n` seconds. -/
def holdoverPart (n : Nat) : State :=
  part (leaseIn .disturbed) { engineIn .holdover with relock := true, holdover := ⟨true, n, 0⟩ } runsListed

/-- A mode that drops the selection sends the LOCKED engine to HOLDOVER and disturbs its lease; a limit that the
holdover has spent faults the engine and fails the lease, one that it has not spent does neither. -/
theorem witness_ConfigureWrites_handed_on :
    (held activePart (cmd 0 codeConfigure forceBody)).Takes .A (cmd 0 codeConfigure forceBody) ∧
    seenAfter .configure (held activePart (cmd 0 codeConfigure forceBody)) (fun t =>
      (t.selection, (t.engine 0).state, (t.lease? 0).map fun l => (l.state, l.reason))) =
      some (none, .holdover, some (.disturbed, .holdover)) ∧
    (held (holdoverPart 3) (cmd 0 codeConfigure limitBody)).Takes .A (cmd 0 codeConfigure limitBody) ∧
    (held (holdoverPart 3) (cmd 0 codeConfigure limitBody)).Sound ∧
    (holdoverPart 3).Overdue [(0x08#8, 3)] 0 ∧
    seenAfter .configure (held (holdoverPart 3) (cmd 0 codeConfigure limitBody)) (fun t =>
      ((t.engine 0).state, (t.lease? 0).map fun l => (l.state, l.reason))) =
      some (.faulted, some (.failed, .engineFault)) ∧
    seenAfter .configure (held (holdoverPart 2) (cmd 0 codeConfigure limitBody)) (fun t =>
      ((t.engine 0).state, (t.lease? 0).map fun l => (l.state, l.reason))) =
      some (.holdover, some (.disturbed, .opened)) :=
  ⟨takes_held (by decide +kernel) (by decide +kernel), by decide +kernel,
    takes_held (by decide +kernel) (by decide +kernel), State.Sound.of_check (by decide +kernel),
    ⟨by decide +kernel, 3, by decide, by decide, by decide +kernel⟩, by decide +kernel, by decide +kernel⟩

theorem witness_ConfigureRefused :
    (held activePart (cmd 0 codeConfigure configureBody)).Takes .A (cmd 0 codeConfigure configureBody) ∧
    (held activePart (cmd 0 codeConfigure [0x02#8, 0x00#8, 0x00#8, 0x00#8, 0xC9#8])).Takes .A
      (cmd 0 codeConfigure [0x02#8, 0x00#8, 0x00#8, 0x00#8, 0xC9#8]) ∧
    readPairs [0x02#8, 0x00#8, 0x00#8, 0x00#8, 0xC9#8] = some [(0x02#8, 201)] ∧
    readParam 0x02#8 201 = none ∧ (activePart.engine 0).state.inUse = true ∧
    activePart.params.nominal ≠ 20000000 :=
  ⟨takes_held (by decide +kernel) (by decide +kernel), takes_held (by decide +kernel) (by decide +kernel),
    by decide, by decide, by decide +kernel, by decide +kernel⟩

/-- The first offending pair of a list of nine gives its position: the third names no parameter, the eighth repeats
the first. -/
theorem witness_ConfigureRefused_long :
    ∀ x ∈ [(ninePairs.set 10 0x09#8, Status.badArgument, [0x02#8]), (ninePairs.set 35 0x01#8, .badArgument, [0x07#8]),
        (ninePairs.take 40, .ok, [])],
      seenAfter .configure (held readyPart (cmd 0 codeConfigure x.1)) (fun t => (t.port .A).exchange) =
        some (.answered (responseTo (cmd 0 codeConfigure x.1) x.2.1 x.2.2)) := by decide +kernel

theorem witness_SetClientsWrites :
    (held readyPart (cmd 0 codeSetClients [0x01#8, 0x02#8, 0x00#8, 0x01#8, 0x07#8, 0x18#8])).Takes .A
      (cmd 0 codeSetClients [0x01#8, 0x02#8, 0x00#8, 0x01#8, 0x07#8, 0x18#8]) ∧
    readSetClients [0x01#8, 0x02#8, 0x00#8, 0x01#8, 0x07#8, 0x18#8] =
      some ⟨some 0x02#8, none, [(7, 24)]⟩ :=
  ⟨takes_held (by decide +kernel) (by decide +kernel), by decide⟩

theorem witness_HandoverMovesRole :
    (held readyPart (cmd 0 codeHandover [])).Takes .A (cmd 0 codeHandover []) ∧
    (held readyPart (cmd 1 codeHandover [])).Takes .A (cmd 1 codeHandover []) ∧
    (held readyPart (cmd 0 codeHandover [0#8])).Takes .A (cmd 0 codeHandover [0#8]) :=
  ⟨takes_held (by decide +kernel) (by decide +kernel), takes_held (by decide +kernel) (by decide +kernel),
    takes_held (by decide +kernel) (by decide +kernel)⟩

theorem witness_SoftResetsReset :
    (held retiredPart (cmd 0 codeSoftReset [scopeLeases])).Takes .A (cmd 0 codeSoftReset [scopeLeases]) ∧
    (held retiredPart (cmd 0 codeSoftReset [scopeDevice])).Takes .A (cmd 0 codeSoftReset [scopeDevice]) :=
  ⟨takes_held (by decide +kernel) (by decide +kernel), takes_held (by decide +kernel) (by decide +kernel)⟩

theorem witness_EngineClearActsOnFaulted :
    (held (readyPart.setEngine 5 { EngineRec.initial with state := .faulted })
      (cmd 0 codeEngineClear [0x05#8])).Takes .A (cmd 0 codeEngineClear [0x05#8]) ∧
    ((readyPart.setEngine 5 { EngineRec.initial with state := .faulted }).engine 5).state = .faulted ∧
    (readyPart.engine 5).state ≠ .faulted ∧ (0x05#8 : Byte).toNat = (5 : EngineId).1 ∧
    (held readyPart (cmd 0 codeEngineClear [0x06#8])).Takes .A (cmd 0 codeEngineClear [0x06#8]) ∧
    5 < (0x06#8 : Byte).toNat ∧
    (held readyPart (cmd 1 codeEngineClear [0x05#8])).Takes .A (cmd 1 codeEngineClear [0x05#8]) :=
  ⟨takes_held (by decide +kernel) (by decide +kernel), by decide +kernel, by decide +kernel, by decide,
    takes_held (by decide +kernel) (by decide +kernel), by decide,
    takes_held (by decide +kernel) (by decide +kernel)⟩

/-! ### Witnesses: the lease commands -/

theorem witness_OpenAccepted :
    (held activePart (cmd 1 codeOpen openBody)).Takes .A (cmd 1 codeOpen openBody) ∧
    activePart.tagInUse 1 openArgs.tag = false ∧ activePart.liveCount 1 < activePart.quota 1 ∧
    (activePart.slot 1).standing = .free ∧ (∀ j : SlotId, j < 1 → (activePart.slot j).standing ≠ .free) ∧
    eligible activePart.params.nominal openArgs.cls openArgs.plan.reduce = [.general] ∧
    (∀ x ∈ openArgs.entries,
      openArgs.plan.reduce.outputInRange activePart.params.nominal x.divider = true) ∧
    (∀ x ∈ openArgs.entries, (activePart.output x.output).holder = none) ∧
    activePart.ask ⟨openArgs.plan.reduce, [.general], openArgs.flags.exclusive, openArgs.pin, none⟩ =
      .ok 0 :=
  ⟨takes_held (by decide +kernel) (by decide +kernel), by decide +kernel, by decide +kernel,
    by decide +kernel, by decide +kernel, by decide +kernel, by decide +kernel, by decide +kernel,
    by decide +kernel⟩

/-- The status and body that a command of client 1 is answered with. -/
def answer (row : Instr) (code : Byte) (s : State) (body : List Byte) : Option (Option (Status × List Byte)) :=
  seenAfter row (held s (cmd 1 code body)) fun t =>
    match (t.port .A).exchange with
    | .answered r => some (r.status, r.body)
    | .empty => none
    | .held _ => none

/-- The answer to an OPEN. -/
def openAnswer (s : State) (body : List Byte) : Option (Option (Status × List Byte)) :=
  answer .openLease codeOpen s body

/-- The checks of RETUNE after the owner: the state, the outputs named, the plan's range, the outputs' range; and the
allocation's answer to a pin in another class. -/
theorem witness_HandleOwnerStateChecked_retune :
    answer .retune codeRetune (part (leaseIn .starting) lockedEngine runsListed)
      (retuneBody 0x00#8 0xFA#8 0x01#8 0xFF#8 0x14#8) = some (some (.wrongState, [0xFF#8])) ∧
    answer .retune codeRetune activePart
      [0x00#8, 0x07#8, 0x00#8, 0xFA#8, 0x01#8, 0xFF#8, 0xFF#8, 0x01#8, 0x01#8, 0x00#8, 0x14#8] =
      some (some (.badArgument, [0x00#8])) ∧
    answer .retune codeRetune activePart (retuneBody 0x00#8 0x64#8 0x01#8 0xFF#8 0x14#8) =
      some (some (.planRange, [0xFF#8])) ∧
    answer .retune codeRetune activePart (retuneBody 0x00#8 0xA0#8 0x01#8 0xFF#8 0x01#8) =
      some (some (.outputRange, [0x00#8])) ∧
    answer .retune codeRetune activePart (retuneBody 0x01#8 0x2C#8 0x01#8 0x05#8 0x0A#8) =
      some (some (.planRange, [0xFF#8])) :=
  ⟨by decide +kernel, by decide +kernel, by decide +kernel, by decide +kernel, by decide +kernel⟩

/-- OPEN body: a tag, a plan n/1, a class and one entry. -/
def openOf (tag n1 n0 cls o q : Byte) : List Byte :=
  [0x00#8, tag, n1, n0, 0x01#8, cls, 0x00#8, 0xFF#8, 0x01#8, o, 0x00#8, q]

/-- One part for each check of OPEN, in their order: the tag in use, the quota, a full table, a plan out of range, an
output over range, an output held, no engine. -/
theorem witness_OpenRefusedInOrder :
    openAnswer activePart (openOf 0x01#8 0x00#8 0xFA#8 0x00#8 0x05#8 0x0A#8) =
      some (some (.tagInUse, [0xFF#8])) ∧
    openAnswer (activePart.setQuota (1, 1)) openBody = some (some (.quota, [0xFF#8])) ∧
    openAnswer { readyPart with slots := Vector.replicate 24 ⟨0#8, .retired .B⟩ } openBody =
      some (some (.tableFull, [0xFF#8])) ∧
    openAnswer activePart (openOf 0x02#8 0x00#8 0xA0#8 0x01#8 0x05#8 0x0A#8) =
      some (some (.planRange, [0xFF#8])) ∧
    openAnswer activePart (openOf 0x02#8 0x00#8 0xA0#8 0x00#8 0x05#8 0x01#8) =
      some (some (.outputRange, [0x00#8])) ∧
    openAnswer activePart (openOf 0x02#8 0x00#8 0xA0#8 0x00#8 0x00#8 0x02#8) =
      some (some (.outputHeld, [0x00#8])) ∧
    openAnswer { readyPart with engines := Vector.replicate 6 { EngineRec.initial with state := .faulted } }
      openBody = some (some (.noEngine, [0xFF#8])) :=
  ⟨by decide +kernel, by decide +kernel, by decide +kernel, by decide +kernel, by decide +kernel,
    by decide +kernel, by decide +kernel⟩

/-- The part with a READY lease homed at port B. -/
def readyLeasePart : State := part { heldStart (leaseIn .ready) with home := .B } lockedEngine .quiet

theorem witness_StartMovesLeases :
    (held readyLeasePart (cmd 1 codeStart h0)).SoundRun ∧
    (held readyLeasePart (cmd 1 codeStart h0)).Takes .A (cmd 1 codeStart h0) ∧
    readStart h0 = some [⟨0x00#8, 0x07#8⟩] ∧
    readyLeasePart.reach ⟨0x00#8, 0x07#8⟩ = some (0, { heldStart (leaseIn .ready) with home := .B }) ∧
    (heldStart (leaseIn .ready)).startable = true ∧ (heldStart (leaseIn .ready)).ownedBy 1 = true ∧
    (held (part (heldStart (leaseIn .pending)) acquiringEngine .quiet) (cmd 1 codeStart h0)).SoundRun ∧
    (heldStart (leaseIn .pending)).startable = true :=
  ⟨State.SoundRun.of_check (by decide +kernel), takes_held (by decide +kernel) (by decide +kernel),
    by decide, by decide +kernel, by decide, by decide, State.SoundRun.of_check (by decide +kernel), by decide⟩

/-- A RETUNE that passes its checks on the part whose slot 0 holds `l`, by `takes` and the lease's own fields. -/
theorem retuneChecked {l : Lease} {x : EngineRec} {o : OutState} {n1 n0 d pin q : Byte} {a : RetuneArgs}
    {r : RetuneRequest}
    (takes : (held (part l x o) (cmd 1 codeRetune (retuneBody n1 n0 d pin q))).Takes .A
      (cmd 1 codeRetune (retuneBody n1 n0 d pin q)))
    (body : readRetune (retuneBody n1 n0 d pin q) = some a)
    (handle : (held (part l x o) (cmd 1 codeRetune (retuneBody n1 n0 d pin q))).reach a.handle = some (0, l))
    (owner : l.ownedBy 1 = true)
    (state : l.state = .pending ∨ l.state = .ready ∨ l.state = .active ∨ l.state = .disturbed)
    (outputs : outputsOf a.entries = outputsOf l.entries)
    (request : r = ⟨a.plan.reduce, a.cls, a.cls.getD l.cls, a.pin, a.entries,
      eligible 10000000 (a.cls.getD l.cls) a.plan.reduce⟩)
    (classes : r.classes ≠ [])
    (range : ∀ y ∈ a.entries, a.plan.reduce.outputInRange 10000000 y.divider = true) :
    (held (part l x o) (cmd 1 codeRetune (retuneBody n1 n0 d pin q))).RetuneChecked .A
      (cmd 1 codeRetune (retuneBody n1 n0 d pin q)) a 0 l r :=
  ⟨takes, rfl, body, handle, owner, state, outputs, request, classes, range⟩

/-- A PENDING lease, retuned in place to divider 20, and one that names what it has. -/
theorem witness_RetuneInPlace :
    (held (part (leaseIn .pending) acquiringEngine .quiet)
      (cmd 1 codeRetune (retuneBody 0x00#8 0xFA#8 0x01#8 0xFF#8 0x14#8))).RetuneChecked .A
      (cmd 1 codeRetune (retuneBody 0x00#8 0xFA#8 0x01#8 0xFF#8 0x14#8)) (retuneArgs 250 1 none 20) 0
      (leaseIn .pending) (retuneRequest 250 1 none 20) ∧
    (leaseIn .pending).servedUnder (retuneRequest 250 1 none 20) = true ∧
    (leaseIn .pending).unchangedBy (retuneRequest 250 1 none 20) = false ∧
    (leaseIn .pending).unchangedBy (retuneRequest 250 1 none 10) = true :=
  ⟨retuneChecked (takes_held (by decide +kernel) (by decide +kernel)) (by decide +kernel) (by decide +kernel)
    (by decide) (by decide) (by decide) (by decide +kernel) (by decide) (by decide +kernel),
    by decide, by decide, by decide⟩

/-- A PENDING lease, retuned to the plan 300/1: E1 answers. -/
theorem witness_RetuneRebinds :
    (held (part (leaseIn .pending) acquiringEngine .quiet)
      (cmd 1 codeRetune (retuneBody 0x01#8 0x2C#8 0x01#8 0xFF#8 0x0A#8))).RetuneChecked .A
      (cmd 1 codeRetune (retuneBody 0x01#8 0x2C#8 0x01#8 0xFF#8 0x0A#8)) (retuneArgs 300 1 none 10) 0
      (leaseIn .pending) (retuneRequest 300 1 none 10) ∧
    (leaseIn .pending).servedUnder (retuneRequest 300 1 none 10) = false ∧
    (part (leaseIn .pending) acquiringEngine .quiet).ask ⟨⟨300, 1⟩, [.general], false, none, some 0⟩ = .ok 1 ∧
    (part (leaseIn .pending) acquiringEngine .quiet).ask ⟨⟨300, 1⟩, [.general], false, some 0, some 0⟩ =
      .error .engineBusy :=
  ⟨retuneChecked (takes_held (by decide +kernel) (by decide +kernel)) (by decide +kernel) (by decide +kernel)
    (by decide) (by decide) (by decide) (by decide +kernel) (by decide) (by decide +kernel),
    by decide, by decide +kernel, by decide +kernel⟩

/-- An ACTIVE lease, retuned to divider 20 on its own engine; and a DISTURBED one with its output QUIET, whose
migration settles at once. -/
theorem witness_RetuneLocal :
    (held activePart (cmd 1 codeRetune (retuneBody 0x00#8 0xFA#8 0x01#8 0xFF#8 0x14#8))).RetuneChecked .A
      (cmd 1 codeRetune (retuneBody 0x00#8 0xFA#8 0x01#8 0xFF#8 0x14#8)) (retuneArgs 250 1 none 20) 0
      (leaseIn .active) (retuneRequest 250 1 none 20) ∧
    (held (part (leaseIn .disturbed) acquiringEngine .quiet)
      (cmd 1 codeRetune (retuneBody 0x00#8 0xFA#8 0x01#8 0xFF#8 0x14#8))).RetuneChecked .A
      (cmd 1 codeRetune (retuneBody 0x00#8 0xFA#8 0x01#8 0xFF#8 0x14#8)) (retuneArgs 250 1 none 20) 0
      (leaseIn .disturbed) (retuneRequest 250 1 none 20) ∧
    (leaseIn .active).servedUnder (retuneRequest 250 1 none 20) = true ∧
    (leaseIn .active).unchangedBy (retuneRequest 250 1 none 20) = false ∧
    seenAfter .retune (held activePart (cmd 1 codeRetune (retuneBody 0x00#8 0xFA#8 0x01#8 0xFF#8 0x14#8)))
      (fun t => (t.lease? 0).map Lease.state) = some (some .migrating) ∧
    seenAfter .retune (held (part (leaseIn .disturbed) acquiringEngine .quiet)
      (cmd 1 codeRetune (retuneBody 0x00#8 0xFA#8 0x01#8 0xFF#8 0x14#8)))
      (fun t => (t.lease? 0).map Lease.state) = some (some .disturbed) :=
  ⟨retuneChecked (takes_held (by decide +kernel) (by decide +kernel)) (by decide +kernel) (by decide +kernel)
    (by decide) (by decide) (by decide) (by decide +kernel) (by decide) (by decide +kernel),
    retuneChecked (takes_held (by decide +kernel) (by decide +kernel)) (by decide +kernel) (by decide +kernel)
    (by decide) (by decide) (by decide) (by decide +kernel) (by decide) (by decide +kernel),
    by decide, by decide, by decide +kernel, by decide +kernel⟩

theorem witness_RetuneOverlap :
    (held activePart (cmd 1 codeRetune (retuneBody 0x01#8 0x2C#8 0x01#8 0xFF#8 0x0A#8))).Sound ∧
    (held activePart (cmd 1 codeRetune (retuneBody 0x01#8 0x2C#8 0x01#8 0xFF#8 0x0A#8))).RetuneChecked .A
      (cmd 1 codeRetune (retuneBody 0x01#8 0x2C#8 0x01#8 0xFF#8 0x0A#8)) (retuneArgs 300 1 none 10) 0
      (leaseIn .active) (retuneRequest 300 1 none 10) ∧
    (leaseIn .active).servedUnder (retuneRequest 300 1 none 10) = false ∧
    activePart.ask ⟨⟨300, 1⟩, [.general], false, none, some 0⟩ = .ok 1 :=
  ⟨State.Sound.of_check (by decide +kernel),
    retuneChecked (takes_held (by decide +kernel) (by decide +kernel)) (by decide +kernel) (by decide +kernel)
    (by decide) (by decide) (by decide) (by decide +kernel) (by decide) (by decide +kernel),
    by decide, by decide +kernel⟩

/-- A lease that allows GAP, pinned to its own engine under a new plan: running, and with its output QUIET; the lease
without the flag is refused. -/
theorem witness_RetuneGap :
    (held (part { leaseIn .active with flags := ⟨false, false, false, true⟩ } lockedEngine runsListed)
      (cmd 1 codeRetune (retuneBody 0x01#8 0x2C#8 0x01#8 0x00#8 0x0A#8))).RetuneChecked .A
      (cmd 1 codeRetune (retuneBody 0x01#8 0x2C#8 0x01#8 0x00#8 0x0A#8)) (retuneArgs 300 1 (some 0) 10) 0
      { leaseIn .active with flags := ⟨false, false, false, true⟩ } (retuneRequest 300 1 (some 0) 10) ∧
    (held (part { leaseIn .disturbed with flags := ⟨false, false, false, true⟩ } acquiringEngine .quiet)
      (cmd 1 codeRetune (retuneBody 0x01#8 0x2C#8 0x01#8 0x00#8 0x0A#8))).RetuneChecked .A
      (cmd 1 codeRetune (retuneBody 0x01#8 0x2C#8 0x01#8 0x00#8 0x0A#8)) (retuneArgs 300 1 (some 0) 10) 0
      { leaseIn .disturbed with flags := ⟨false, false, false, true⟩ } (retuneRequest 300 1 (some 0) 10) ∧
    (leaseIn .active).servedUnder (retuneRequest 300 1 (some 0) 10) = false ∧
    (activePart.engine 0).users = 1 ∧ classOf 0 ∈ (retuneRequest 300 1 (some 0) 10).classes ∧
    EntriesOk (leaseIn .active).entries ∧ (leaseIn .active).flags.allowGap = false :=
  ⟨retuneChecked (takes_held (by decide +kernel) (by decide +kernel)) (by decide +kernel) (by decide +kernel)
    (by decide) (by decide) (by decide) (by decide +kernel) (by decide) (by decide +kernel),
    retuneChecked (takes_held (by decide +kernel) (by decide +kernel)) (by decide +kernel) (by decide +kernel)
    (by decide) (by decide) (by decide) (by decide +kernel) (by decide) (by decide +kernel),
    by decide, by decide +kernel, by decide, EntriesOk.of_check (by decide), by decide⟩

theorem witness_QuietLeaseFreed :
    (held (part (leaseIn .pending) acquiringEngine .quiet) (cmd 1 codeRelease h0)).Takes .A
      (cmd 1 codeRelease h0) ∧
    (held (part (leaseIn .pending) acquiringEngine .quiet) (cmd 0 codeRevoke h0)).Takes .A
      (cmd 0 codeRevoke h0) ∧
    (part (leaseIn .pending) acquiringEngine .quiet).reach ⟨0x00#8, 0x07#8⟩ =
      some (0, leaseIn .pending) ∧
    (∀ x ∈ (leaseIn .pending).entries,
      ((part (leaseIn .pending) acquiringEngine .quiet).output x.output).state = .quiet) ∧
    (leaseIn .pending).countOn 0 = 1 ∧ (leaseIn .pending).countOn 1 = 0 :=
  ⟨takes_held (by decide +kernel) (by decide +kernel), takes_held (by decide +kernel) (by decide +kernel),
    by decide +kernel, by decide +kernel, by decide, by decide⟩

theorem witness_RunningLeaseCloses :
    (held activePart (cmd 1 codeRelease h0)).Takes .A (cmd 1 codeRelease h0) ∧
    (held activePart (cmd 0 codeRevoke h0)).Takes .A (cmd 0 codeRevoke h0) ∧
    readHandle h0 = some ⟨0x00#8, 0x07#8⟩ ∧
    activePart.reach ⟨0x00#8, 0x07#8⟩ = some (0, leaseIn .active) ∧
    (∃ x ∈ (leaseIn .active).entries, (activePart.output x.output).state ≠ .quiet) ∧
    EntriesOk (leaseIn .active).entries ∧
    (part (leaseIn .closing) lockedEngine runsListed).reach ⟨0x00#8, 0x07#8⟩ = some (0, leaseIn .closing) :=
  ⟨takes_held (by decide +kernel) (by decide +kernel), takes_held (by decide +kernel) (by decide +kernel),
    by decide, by decide +kernel, by decide +kernel, EntriesOk.of_check (by decide), by decide +kernel⟩

/-- RETRY body on slot 0 that carries nothing but the handle. -/
def retryBody : List Byte := [0x00#8, 0x07#8, 0x00#8, 0x00#8, 0x00#8, 0xFF#8, 0xFF#8, 0x00#8]

/-- A FAILED lease. -/
def failedLease : Lease := { leaseIn .failed with engine := none, reason := .engineFault }

theorem witness_RetryRevivesLease :
    (held (part failedLease EngineRec.initial .quiet) (cmd 1 codeRetry retryBody)).Takes .A
      (cmd 1 codeRetry retryBody) ∧
    readRetry retryBody = some ⟨⟨0x00#8, 0x07#8⟩, none, none, none, none⟩ ∧
    (part failedLease EngineRec.initial .quiet).reach ⟨0x00#8, 0x07#8⟩ = some (0, failedLease) ∧
    EntriesOk failedLease.entries ∧ eligible 10000000 .general ⟨250, 1⟩ = [.general] ∧
    (∀ x ∈ failedLease.entries, (⟨250, 1⟩ : Plan).outputInRange 10000000 x.divider = true) ∧
    (part failedLease EngineRec.initial .quiet).ask ⟨⟨250, 1⟩, [.general], false, none, none⟩ = .ok 0 ∧
    (leaseIn .active).state ≠ .failed :=
  ⟨takes_held (by decide +kernel) (by decide +kernel), by decide, by decide +kernel,
    EntriesOk.of_check (by decide), by decide +kernel, by decide +kernel, by decide +kernel, by decide⟩

/-- The checks of RETRY: the outputs named, the plan's range, the outputs' range. -/
theorem witness_RetryRevivesLease_refused :
    answer .retry codeRetry (part failedLease EngineRec.initial .quiet)
      [0x00#8, 0x07#8, 0x00#8, 0x00#8, 0x00#8, 0xFF#8, 0xFF#8, 0x01#8, 0x01#8, 0x00#8, 0x0A#8] =
      some (some (.badArgument, [0x00#8])) ∧
    answer .retry codeRetry (part failedLease EngineRec.initial .quiet)
      [0x00#8, 0x07#8, 0x00#8, 0x64#8, 0x01#8, 0xFF#8, 0xFF#8, 0x00#8] =
      some (some (.planRange, [0xFF#8])) ∧
    answer .retry codeRetry (part failedLease EngineRec.initial .quiet)
      [0x00#8, 0x07#8, 0x00#8, 0xA0#8, 0x01#8, 0xFF#8, 0xFF#8, 0x01#8, 0x00#8, 0x00#8, 0x01#8] =
      some (some (.outputRange, [0x00#8])) :=
  ⟨by decide +kernel, by decide +kernel, by decide +kernel⟩

/-! ### Witnesses: pins and frames -/

theorem witness_PinsReset :
    State.reset.touched = [] ∧ State.reset.rstnLow = false ∧
    ({ State.reset with rstnLow := true } : State).rstnLow = true := ⟨rfl, rfl, rfl⟩

theorem witness_ChipSelectFixesFrame :
    readyPart.touched = [] ∧ (readyPart.port .A).csLow = false ∧ readyPart.rstnLow = false ∧
    ({ State.reset with rstnLow := true } : State).rstnLow = true ∧
    ((held readyPart (cmd 1 codeNotices [])).statusByte .A) = 0xA8#8 := by decide +kernel

/-- The frame of a response and the empty response, byte by byte with their CRC. -/
theorem test_response_frames :
    (⟨5#4, 0x9B#8, .notFound, true, [0xAA#8]⟩ : Response).frame =
      [0x50#8, 0x03#8, 0x01#8, 0x01#8, 0xAA#8, crc8 [0x50#8, 0x03#8, 0x01#8, 0x01#8, 0xAA#8]] ∧
    emptyFrame = [0x00#8, 0xFF#8, 0x00#8, 0x00#8, 0xFA#8] := by decide +kernel

/-- The pin of a port is at high impedance while chip select is high and while RSTN is low. -/
theorem test_sdo_drive :
    readyPart.sdoHighZ .A = true ∧ (inFrame readyPart).sdoHighZ .A = false ∧
    ({ inFrame readyPart with rstnLow := true } : State).sdoHighZ .A = true := by decide +kernel

/-- A cycle of seven bits, and one that a reset cut short, change nothing but chip select. -/
theorem witness_FrameFirstChecks_not_judged :
    seenAfter (.unknownFrameKind .A ⟨[], List.replicate 7 true⟩)
      (inFrame (readyPart.setFrameError .A .crcError)) (fun t => ((t.port .A).csLow, (t.port .A).frameError)) =
      some (false, .crcError) ∧
    seenAfter (.resync .A ⟨[0x3C#8], [true]⟩)
      (readyPart.setPort .A { readyPart.port .A with csLow := true, frameError := .crcError })
      (fun t => ((t.port .A).csLow, (t.port .A).frameError)) = some (false, .crcError) := by decide +kernel

theorem witness_FrameFirstChecks :
    (inFrame readyPart).InFrame .A (readyPart.frameAt .A) ∧ (inFrame readyPart).ready = true ∧
    (inFrame State.reset).InFrame .A (State.reset.frameAt .A) ∧ (inFrame State.reset).ready = false ∧
    0x01#8 ∉ knownKinds := ⟨⟨rfl, rfl⟩, rfl, ⟨rfl, rfl⟩, rfl, by decide⟩

/-- The lengths at the edges of a COMMAND frame: a body of 60 bytes is read, a length of 61 is refused. -/
theorem witness_CommandFrameJudged :
    (inFrame readyPart).InFrame .A (readyPart.frameAt .A) ∧ (inFrame readyPart).ready = true ∧
    60 < (0x3D#8 : Byte).toNat ∧ (0x3C#8 : Byte).toNat ≤ 60 ∧
    seenAfter (.commandFrame .A ⟨commandBytes 0x11#8 0x0C#8 (List.replicate 60 0#8), []⟩) (inFrame readyPart)
      (fun t => (t.port .A).exchange.isHeld) = some true ∧
    seenAfter (.commandFrame .A ⟨commandBytes 0x11#8 0x0C#8 (List.replicate 61 0#8), []⟩) (inFrame readyPart)
      (fun t => (t.port .A).frameError) = some .badKind ∧
    seenAfter (.commandFrame .A ⟨[0x11#8, 0x0C#8], []⟩) (inFrame readyPart) (fun t => (t.port .A).frameError) =
      some .frameShort ∧
    seenAfter (.commandFrame .A ⟨[0x11#8, 0x0C#8, 0x00#8, 0x00#8], []⟩) (inFrame readyPart)
      (fun t => (t.port .A).frameError) = some .crcError :=
  ⟨⟨rfl, rfl⟩, rfl, by decide, by decide, by decide +kernel, by decide +kernel, by decide +kernel,
    by decide +kernel⟩

/-- A part that has saved the exchange of sequence 1 with the CRC of an empty NOTICES of client 0. -/
def savedPart : State :=
  readyPart.setPort .A { readyPart.port .A with
    retry := some ⟨1#4, 0x9B#8, ⟨1#4, 0x9B#8, .ok, false, [0x00#8, 0x80#8, 0x00#8]⟩⟩ }

/-- The replay clause of CommandFrameJudged. -/
theorem witness_CommandFrameJudged_replay :
    (inFrame savedPart).InFrame .A (savedPart.frameAt .A) ∧ (inFrame savedPart).ready = true ∧
    (0x9B#8 : Byte) = crc8 [0x5C#8, 0x10#8, 0x0C#8, 0x00#8] ∧
    ((inFrame savedPart).port .A).exchange = .empty ∧
    ((inFrame savedPart).port .A).retry =
      some ⟨1#4, 0x9B#8, ⟨1#4, 0x9B#8, .ok, false, [0x00#8, 0x80#8, 0x00#8]⟩⟩ ∧
    (0x10#8 : Byte).extractLsb' 4 4 = 1#4 :=
  ⟨⟨rfl, rfl⟩, rfl, by decide +kernel, by decide +kernel, by decide +kernel, by decide⟩

/-- The replay of that exchange, a new body under its sequence number (SEQ_CONFLICT), and a new sequence number. -/
theorem witness_CommandFrameJudged_retry :
    seenAfter (.commandFrame .A ⟨commandBytes 0x10#8 0x0C#8 [], []⟩) (inFrame savedPart)
      (fun t => (t.port .A).exchange) =
      some (.answered ⟨1#4, 0x9B#8, .ok, true, [0x00#8, 0x80#8, 0x00#8]⟩) ∧
    seenAfter (.commandFrame .A ⟨commandBytes 0x10#8 0x0C#8 [0x00#8], []⟩) (inFrame savedPart)
      (fun t => ((t.port .A).frameError, (t.port .A).exchange)) = some (.seqConflict, .empty) ∧
    seenAfter (.commandFrame .A ⟨commandBytes 0x20#8 0x0C#8 [], []⟩) (inFrame savedPart)
      (fun t => (t.port .A).exchange.isHeld) = some true := by decide +kernel

/-- A part that holds a response of no body, whose frame is 5 bytes. -/
def answeredPart : State :=
  readyPart.setPort .A { readyPart.port .A with exchange := .answered ⟨1#4, 0x9B#8, .ok, false, []⟩ }

/-- The held and answered clauses of CommandFrameJudged. -/
theorem witness_CommandFrameJudged_standing :
    (inFrame (held readyPart (cmd 0 codeNotices []))).InFrame .A
      ((held readyPart (cmd 0 codeNotices [])).frameAt .A) ∧
    seenAfter (.commandFrame .A ⟨commandBytes 0x20#8 0x0C#8 [], []⟩)
      (inFrame (held readyPart (cmd 0 codeNotices []))) (fun t => ((t.port .A).frameError, (t.port .A).exchange)) =
      some (.portBusy, .held (cmd 0 codeNotices [])) ∧
    (inFrame answeredPart).InFrame .A (answeredPart.frameAt .A) ∧
    seenAfter (.commandFrame .A ⟨commandBytes 0x20#8 0x0C#8 [], []⟩) (inFrame answeredPart)
      (fun t => ((t.port .A).frameError, (t.port .A).exchange)) =
      some (.responseUnread, .answered ⟨1#4, 0x9B#8, .ok, false, []⟩) :=
  ⟨⟨rfl, rfl⟩, by decide +kernel, ⟨rfl, rfl⟩, by decide +kernel⟩

/-- A FETCH of 5 bytes delivers it, one of 4 does not. -/
theorem witness_FetchDelivers :
    (inFrame answeredPart).InFrame .A (answeredPart.frameAt .A) ∧
    (answeredPart.frameAt .A).delivers = some ⟨1#4, 0x9B#8, .ok, false, []⟩ ∧
    (⟨1#4, 0x9B#8, .ok, false, []⟩ : Response).frame.length = 5 ∧
    seenAfter (.fetch .A ⟨List.replicate 5 0#8, []⟩) (inFrame answeredPart) (fun t => (t.port .A).exchange) =
      some .empty ∧
    seenAfter (.fetch .A ⟨List.replicate 4 0#8, []⟩) (inFrame answeredPart)
      (fun t => (t.port .A).exchange.isAnswered) = some true :=
  ⟨⟨rfl, rfl⟩, by decide +kernel, by decide, by decide +kernel, by decide +kernel⟩

theorem witness_ResyncEmptiesPort :
    (inFrame retiredPart).InFrame .A (retiredPart.frameAt .A) ∧ (inFrame retiredPart).ready = true ∧
    (0x3D#8 : Byte) ≠ 0x3C#8 ∧ (retiredPart.slot 3).standing = .retired .B :=
  ⟨⟨rfl, rfl⟩, rfl, by decide, by decide +kernel⟩

/-- A RESYNC frees the slot RETIRED at its own port, with its entry, and leaves one RETIRED at the other port. -/
theorem witness_ResyncEmptiesPort_freed :
    (inFrame (retiredAt .A)).InFrame .A ((retiredAt .A).frameAt .A) ∧
    seenAfter (.resync .A ⟨[0x3C#8], []⟩) (inFrame (retiredAt .A)) (fun t => (t.slot 3, (t.port .A).notices[3])) =
      some (⟨0x00#8, .free⟩, none) ∧
    seenAfter (.resync .A ⟨[0x3C#8], []⟩) (inFrame retiredPart) (fun t => (t.slot 3, (t.port .B).notices[3])) =
      some (⟨0xFF#8, .retired .B⟩, some ⟨0xFF#8, 15, .released, true⟩) :=
  ⟨⟨rfl, rfl⟩, by decide +kernel, by decide +kernel⟩

/-! ### Witnesses: background events -/

theorem witness_LockStartsPendingLeases :
    (part (leaseIn .pending) acquiringEngine .quiet).SoundRun ∧
    (part (leaseIn .pending) acquiringEngine .quiet).touched = [] ∧
    acquiringEngine.state = .acquiring ∧ acquiringEngine.acquisition.standing = .running ∧
    (part (leaseIn .disturbed) { engineIn .holdover with relock := true } .quiet).SoundRun ∧
    (part (heldStart (leaseIn .pending)) acquiringEngine .quiet).SoundRun ∧ activePart.SoundRun :=
  ⟨State.SoundRun.of_check (by decide +kernel), rfl, rfl, rfl, State.SoundRun.of_check (by decide +kernel),
    State.SoundRun.of_check (by decide +kernel), State.SoundRun.of_check (by decide +kernel)⟩

/-- A second engine E1 with one user, beside `part`. -/
def twoPart (l : Lease) (x y : EngineRec) (o : OutState) : State := (part l x o).setEngine 1 y

/-- A MIGRATING lease of E0 with O0 from divider 10 to divider 20. -/
def migratingLease (mode : MigrationMode) (slipMute : Bool) : Lease :=
  { leaseIn .migrating with
    flags := ⟨false, false, slipMute, true⟩,
    migration := some ⟨mode, if mode = .overlap then some 1 else none,
      if mode = .loc then ⟨250, 1⟩ else ⟨300, 1⟩, none, none, [⟨0, 20⟩]⟩ }

/-- The part with that lease; in OVERLAP its target is E1, in GAP its engine is reserved. -/
def migratingPart (mode : MigrationMode) (x y : EngineRec) (o : OutState) : State :=
  if mode = .overlap then twoPart (migratingLease mode true) x y o
  else part (migratingLease mode true) { x with reserved := decide (mode = .gap) } o

/-- What a row makes of the lease in slot 0 (state, reason, engine), its output and the engine E0. -/
def leaseAfter (row : Instr) (s : State) :
    Option (Option (LeaseState × Reason × Option EngineId) × OutState × EngineState) :=
  seenAfter row s fun t => ((t.lease? 0).map fun l => (l.state, l.reason, l.engine), (t.output 0).state,
    (t.engine 0).state)

/-- E0 relocks: a DISTURBED lease that runs is ACTIVE at once, a quiet one is given its listed target. -/
theorem witness_LockStartsPendingLeases_disturbed :
    (part (leaseIn .disturbed) acquiringEngine runsListed).SoundRun ∧
    leaseAfter (.lockAchieved 0) (part (leaseIn .disturbed) acquiringEngine runsListed) =
      some (some (.active, .relocked, some 0), runsListed, .locked) ∧
    (part (leaseIn .disturbed) acquiringEngine .quiet).SoundRun ∧
    leaseAfter (.lockAchieved 0) (part (leaseIn .disturbed) acquiringEngine .quiet) =
      some (some (.disturbed, .opened, some 0), .changing .quiet (.clock 0 10) none, .locked) :=
  ⟨State.SoundRun.of_check (by decide +kernel), by decide +kernel, State.SoundRun.of_check (by decide +kernel),
    by decide +kernel⟩

/-- An engine relocks under a MIGRATING lease: LOCAL, the target and the source of OVERLAP, GAP; and a LOCAL lease
whose output has arrived settles. -/
theorem witness_LockStartsPendingLeases_migrating :
    (migratingPart .loc acquiringEngine acquiringEngine .quiet).SoundRun ∧
    leaseAfter (.lockAchieved 0) (migratingPart .loc acquiringEngine acquiringEngine .quiet) =
      some (some (.migrating, .opened, some 0), .changing .quiet (.clock 0 20) none, .locked) ∧
    leaseAfter (.lockAchieved 0) (migratingPart .loc acquiringEngine acquiringEngine (.running 0 20)) =
      some (some (.active, .migrated, some 0), .running 0 20, .locked) ∧
    (migratingPart .overlap lockedEngine acquiringEngine runsListed).SoundRun ∧
    leaseAfter (.lockAchieved 1) (migratingPart .overlap lockedEngine acquiringEngine runsListed) =
      some (some (.migrating, .opened, some 0), .changing (.clock 0 10) (.clock 1 20) none, .locked) ∧
    leaseAfter (.lockAchieved 0) (migratingPart .overlap acquiringEngine acquiringEngine .quiet) =
      some (some (.migrating, .opened, some 0), .changing .quiet (.clock 0 10) none, .locked) ∧
    (migratingPart .gap acquiringEngine acquiringEngine (.changing (.clock 0 10) .quiet none)).SoundRun ∧
    leaseAfter (.lockAchieved 0)
      (migratingPart .gap acquiringEngine acquiringEngine (.changing (.clock 0 10) .quiet none)) =
      some (some (.migrating, .opened, some 0), .changing (.clock 0 10) .quiet none, .locked) :=
  ⟨State.SoundRun.of_check (by decide +kernel), by decide +kernel, by decide +kernel,
    State.SoundRun.of_check (by decide +kernel), by decide +kernel, by decide +kernel,
    State.SoundRun.of_check (by decide +kernel), by decide +kernel⟩

/-- An engine slips under a MIGRATING lease with SLIP_MUTE: LOCAL mutes its output, OVERLAP one that heads the engine;
a LOCAL lease whose output is quiet settles DISTURBED. -/
theorem witness_SlipDisturbsLeases_migrating :
    (migratingPart .loc lockedEngine lockedEngine runsListed).Sound ∧
    leaseAfter (.lockLost 0) (migratingPart .loc lockedEngine lockedEngine runsListed) =
      some (some (.migrating, .slip, some 0), .changing (.clock 0 10) .quiet none, .acquiring) ∧
    leaseAfter (.lockLost 0) (migratingPart .loc lockedEngine lockedEngine .quiet) =
      some (some (.disturbed, .migrated, some 0), .quiet, .acquiring) ∧
    (migratingPart .overlap lockedEngine lockedEngine runsListed).Sound ∧
    leaseAfter (.lockLost 0) (migratingPart .overlap lockedEngine lockedEngine runsListed) =
      some (some (.migrating, .slip, some 0), .changing (.clock 0 10) .quiet none, .acquiring) ∧
    leaseAfter (.lockLost 1) (migratingPart .overlap lockedEngine lockedEngine runsListed) =
      some (some (.migrating, .slip, some 0), runsListed, .locked) :=
  ⟨State.Sound.of_check (by decide +kernel), by decide +kernel, by decide +kernel,
    State.Sound.of_check (by decide +kernel), by decide +kernel, by decide +kernel⟩

theorem witness_SlipDisturbsLeases :
    activePart.Sound ∧ activePart.touched = [] ∧ (activePart.engine 0).state = .locked ∧
    (activePart.engine 1).state = .off ∧ readyLeasePart.Sound ∧
    activePart.lease? 0 = some (leaseIn .active) :=
  ⟨State.Sound.of_check (by decide +kernel), rfl, by decide +kernel, by decide +kernel,
    State.Sound.of_check (by decide +kernel), by decide +kernel⟩

theorem witness_LingeringEngineTurnsOff :
    (readyPart.setEngine 5 { EngineRec.initial with state := .lingering }).touched = [] ∧
    ((readyPart.setEngine 5 { EngineRec.initial with state := .lingering }).engine 5).state = .lingering ∧
    (readyPart.engine 5).state ≠ .lingering := by decide +kernel

/-- `holdoverPart n` under a holdover limit of 3 s. -/
def limitedPart (n : Nat) : State := { holdoverPart n with params := { Params.initial with holdoverLimit := 3 } }

/-- The three ways to a fault: a first acquisition, a relock attempt in HOLDOVER, a holdover limit reached; the limit
not yet reached, and a timer that does not run, fault nothing. -/
theorem witness_FaultDeclared :
    (part (leaseIn .pending) acquiringEngine .quiet).Sound ∧ (holdoverPart 0).Sound ∧
    (limitedPart 3).Sound ∧ (limitedPart 3).touched = [] ∧
    leaseAfter (.holdoverTimerLimit 0) (limitedPart 3) =
      some (some (.failed, .engineFault, none), .quiet, .faulted) ∧
    leaseAfter (.holdoverTimerLimit 0) (limitedPart 2) =
      some (some (.disturbed, .opened, some 0), runsListed, .holdover) ∧
    leaseAfter (.acquisitionTimerExpiry 0) activePart =
      some (some (.active, .opened, some 0), runsListed, .locked) :=
  ⟨State.Sound.of_check (by decide +kernel), State.Sound.of_check (by decide +kernel),
    State.Sound.of_check (by decide +kernel), rfl, by decide +kernel, by decide +kernel, by decide +kernel⟩

/-- A MIGRATING lease that has lost its source. -/
def sourceGone : State :=
  (twoPart { migratingLease .overlap false with engine := none } EngineRec.initial acquiringEngine .quiet)

/-- The faults of OVERLAP: of the source under a LOCKED target; of the target under a LOCKED source whose output runs,
under one whose output changed over, under one that acquires; of the target when the source is gone. -/
theorem witness_FaultDeclared_overlap :
    (migratingPart .overlap acquiringEngine lockedEngine runsListed).Sound ∧
    leaseAfter (.acquisitionTimerExpiry 0) (migratingPart .overlap acquiringEngine lockedEngine runsListed) =
      some (some (.migrating, .engineFault, none), .changing .quiet (.clock 1 20) none, .faulted) ∧
    (migratingPart .overlap lockedEngine acquiringEngine runsListed).Sound ∧
    leaseAfter (.acquisitionTimerExpiry 1) (migratingPart .overlap lockedEngine acquiringEngine runsListed) =
      some (some (.active, .migrationFailed, some 0), runsListed, .locked) ∧
    leaseAfter (.acquisitionTimerExpiry 1)
      (migratingPart .overlap lockedEngine acquiringEngine (.running 1 20)) =
      some (some (.starting, .migrationFailed, some 0), .changing .quiet (.clock 0 10) none, .locked) ∧
    leaseAfter (.acquisitionTimerExpiry 1)
      (migratingPart .overlap acquiringEngine acquiringEngine runsListed) =
      some (some (.disturbed, .migrationFailed, some 0), runsListed, .acquiring) ∧
    sourceGone.Sound ∧
    leaseAfter (.acquisitionTimerExpiry 1) sourceGone = some (some (.failed, .engineFault, none), .quiet, .off) :=
  ⟨State.Sound.of_check (by decide +kernel), by decide +kernel, State.Sound.of_check (by decide +kernel),
    by decide +kernel, by decide +kernel, by decide +kernel, State.Sound.of_check (by decide +kernel),
    by decide +kernel⟩

/-- A CLOSING lease of E0 with E1 as its closing target. -/
def closingLease : Lease := { leaseIn .closing with closingTarget := some 1, reason := .released }

/-- The fault of an engine of a CLOSING lease frees it where its output was tied to that engine, and else leaves it
CLOSING on the other engine; LOCAL and GAP leases are FAILED. -/
theorem witness_FaultDeclared_closing :
    (twoPart closingLease acquiringEngine lockedEngine (.changing (.clock 0 10) .quiet none)).Sound ∧
    seenAfter (.acquisitionTimerExpiry 0)
      (twoPart closingLease acquiringEngine lockedEngine (.changing (.clock 0 10) .quiet none))
      (fun t => (t.slot 0, t.output 0)) = some (⟨7#8, .retired .A⟩, ⟨none, .quiet⟩) ∧
    (twoPart closingLease acquiringEngine lockedEngine (.changing (.clock 1 20) .quiet none)).Sound ∧
    leaseAfter (.acquisitionTimerExpiry 0)
      (twoPart closingLease acquiringEngine lockedEngine (.changing (.clock 1 20) .quiet none)) =
      some (some (.closing, .released, none), .changing (.clock 1 20) .quiet none, .faulted) ∧
    leaseAfter (.acquisitionTimerExpiry 0) (migratingPart .loc acquiringEngine lockedEngine runsListed) =
      some (some (.failed, .engineFault, none), .quiet, .faulted) ∧
    leaseAfter (.acquisitionTimerExpiry 0)
      (migratingPart .gap acquiringEngine lockedEngine (.changing (.clock 0 10) .quiet none)) =
      some (some (.failed, .engineFault, none), .quiet, .faulted) :=
  ⟨State.Sound.of_check (by decide +kernel), by decide +kernel, State.Sound.of_check (by decide +kernel),
    by decide +kernel, by decide +kernel, by decide +kernel⟩

/-- An engine of a lease that has spent 3 s in HOLDOVER. -/
def spentEngine : EngineRec := { engineIn .holdover with relock := true, holdover := ⟨true, 3, 0⟩ }

/-- A CONFIGURE of a limit of 3 s faults the engines of CLOSING and of OVERLAP leases; both engines of an OVERLAP
lease fault in its one event, and the lease's notice counts one change. -/
theorem witness_ConfigureWrites_faults :
    (held (twoPart closingLease spentEngine lockedEngine (.changing (.clock 0 10) .quiet none))
      (cmd 0 codeConfigure limitBody)).Takes .A (cmd 0 codeConfigure limitBody) ∧
    seenAfter .configure (held (twoPart closingLease spentEngine lockedEngine (.changing (.clock 0 10) .quiet none))
      (cmd 0 codeConfigure limitBody)) (fun t => (t.slot 0, t.output 0, (t.engine 0).state)) =
      some (⟨7#8, .retired .A⟩, ⟨none, .quiet⟩, .faulted) ∧
    leaseAfter .configure (held (migratingPart .overlap spentEngine lockedEngine runsListed)
      (cmd 0 codeConfigure limitBody)) =
      some (some (.migrating, .engineFault, none), .changing .quiet (.clock 1 20) none, .faulted) ∧
    seenAfter .configure (held (migratingPart .overlap spentEngine spentEngine runsListed)
      (cmd 0 codeConfigure limitBody)) (fun t =>
        ((t.lease? 0).map fun l => (l.state, l.reason), (t.port .A).notices[0].map Notice.count)) =
      some (some (.failed, .engineFault), some 1) :=
  ⟨takes_held (by decide +kernel) (by decide +kernel), by decide +kernel, by decide +kernel, by decide +kernel⟩

/-- A lock and a slip under leases that migrate: the target of OVERLAP, the engine of LOCAL and that of GAP change as
any other engine does; and a CLOSING lease keeps its slot, its entry and its output. -/
theorem witness_LockAndSlip_engines :
    (migratingPart .overlap lockedEngine acquiringEngine runsListed).SoundRun ∧
    seenAfter (.lockAchieved 1) (migratingPart .overlap lockedEngine acquiringEngine runsListed)
      (fun t => t.engine 1) = some { lockedEngine with acquisition := ⟨.stopped, 0, 40⟩ } ∧
    seenAfter (.lockAchieved 0)
      (migratingPart .gap acquiringEngine acquiringEngine (.changing (.clock 0 10) .quiet none))
      (fun t => t.engine 0) = some { lockedEngine with acquisition := ⟨.stopped, 0, 40⟩, reserved := true } ∧
    (migratingPart .loc lockedEngine lockedEngine runsListed).Sound ∧
    seenAfter (.lockLost 0) (migratingPart .loc lockedEngine lockedEngine runsListed) (fun t => t.engine 0) =
      some { lockedEngine with state := .acquiring, acquisition := ⟨.running, 0, 40⟩ } ∧
    (twoPart closingLease acquiringEngine lockedEngine (.changing (.clock 0 10) .quiet none)).SoundRun ∧
    (∀ row ∈ [Instr.lockAchieved 0, .lockLost 1], seenAfter row
      (twoPart closingLease acquiringEngine lockedEngine (.changing (.clock 0 10) .quiet none))
      (fun t => (t.slot 0, (t.port .A).notices[0], t.output 0)) =
      some (⟨7#8, .live closingLease⟩, none, ⟨some 0, .changing (.clock 0 10) .quiet none⟩)) :=
  ⟨State.SoundRun.of_check (by decide +kernel), by decide +kernel, by decide +kernel,
    State.Sound.of_check (by decide +kernel), by decide +kernel, State.SoundRun.of_check (by decide +kernel),
    by decide +kernel⟩

/-- The other engine of a CLOSING lease loses its user where the fault frees the lease, and keeps its record where the
lease stays CLOSING on it. -/
theorem witness_FaultDeclared_closing_other :
    seenAfter (.acquisitionTimerExpiry 0)
      (twoPart closingLease acquiringEngine lockedEngine (.changing (.clock 0 10) .quiet none))
      (fun t => ((t.engine 1).state, (t.engine 1).users)) = some (.lingering, 0) ∧
    (twoPart closingLease acquiringEngine lockedEngine (.changing (.clock 0 10) .quiet none)).freedWith 0 1 = 1 ∧
    seenAfter (.acquisitionTimerExpiry 0)
      (twoPart closingLease acquiringEngine lockedEngine (.changing (.clock 1 20) .quiet none))
      (fun t => t.engine 1) = some lockedEngine ∧
    (twoPart closingLease acquiringEngine lockedEngine (.changing (.clock 1 20) .quiet none)).freedWith 0 1 = 0 := by
  decide +kernel

/-- The part with a STARTING lease whose output changes toward its listed source. -/
def startingPart : State := part (leaseIn .starting) lockedEngine (.changing .quiet (.clock 0 10) none)

theorem witness_CompletionTakesTarget :
    startingPart.touched = [] ∧ (startingPart.output 0).state = .changing .quiet (.clock 0 10) none ∧
    (startingPart.output 0).holder = some 0 ∧ startingPart.lease? 0 = some (leaseIn .starting) ∧
    (startingPart.output 1).state.isChanging = false ∧
    seenAfter (.changeoverDone 0) startingPart (fun t => (t.lease? 0).map fun l => (l.state, l.reason)) =
      some (some (.active, .started)) := by decide +kernel

/-- Completions of DISTURBED leases, under a LOCKED engine and under one that acquires; of MIGRATING leases that
settle, LOCAL, OVERLAP and GAP, and of one that does not; of a CLOSING lease. -/
theorem witness_CompletionTakesTarget_others :
    leaseAfter (.changeoverDone 0) (part (leaseIn .disturbed) lockedEngine (.changing .quiet (.clock 0 10) none)) =
      some (some (.active, .relocked, some 0), runsListed, .locked) ∧
    leaseAfter (.changeoverDone 0)
      (part (leaseIn .disturbed) acquiringEngine (.changing .quiet (.clock 0 10) none)) =
      some (some (.disturbed, .opened, some 0), runsListed, .acquiring) ∧
    leaseAfter (.changeoverDone 0)
      (migratingPart .loc lockedEngine lockedEngine (.changing (.clock 0 10) (.clock 0 20) none)) =
      some (some (.active, .migrated, some 0), .running 0 20, .locked) ∧
    leaseAfter (.changeoverDone 0)
      (migratingPart .overlap acquiringEngine lockedEngine (.changing (.clock 0 10) (.clock 1 20) none)) =
      some (some (.active, .migrated, some 1), .running 1 20, .off) ∧
    leaseAfter (.changeoverDone 0)
      (migratingPart .gap lockedEngine lockedEngine (.changing (.clock 0 10) .quiet none)) =
      some (some (.pending, .migrated, some 0), .quiet, .acquiring) ∧
    leaseAfter (.changeoverDone 0)
      (migratingPart .overlap lockedEngine lockedEngine (.changing .quiet (.clock 0 10) (some (.clock 1 20)))) =
      some (some (.migrating, .opened, some 0), .changing (.clock 0 10) (.clock 1 20) none, .locked) ∧
    seenAfter (.changeoverDone 0) (part closingLease lockedEngine (.changing (.clock 0 10) .quiet none))
      (fun t => (t.slot 0, t.output 0)) = some (⟨7#8, .retired .A⟩, ⟨none, .quiet⟩) :=
  ⟨by decide +kernel, by decide +kernel, by decide +kernel, by decide +kernel, by decide +kernel,
    by decide +kernel, by decide +kernel⟩

theorem selectionValid_of_refA {s : State} (h : s.selection = some .refA ∨ s.selection = none)
    (k : s.refA.state = .valid) : s.SelectionValid := by
  intro r hr
  rcases h with h | h
  · rw [h] at hr; cases hr; exact k
  · rw [h] at hr; cases hr

theorem witness_ActivityEvents :
    readyPart.ready = true ∧ readyPart.touched = [] ∧
    (readyPart.input .refB).state = .absent ∧ (readyPart.input .refA).state ≠ .absent :=
  ⟨rfl, rfl, rfl, by decide +kernel⟩

/-- The loss of the selected input, to NONE and to the other input: the LOCKED engine enters HOLDOVER, with a relock
attempt where an input is selected, and its lease is DISTURBED; READY goes to PENDING, a LOCAL lease that is quiet
settles. -/
theorem witness_ActivityEvents_selection :
    leaseAfter (.activityLoss .refA) activePart =
      some (some (.disturbed, .holdover, some 0), runsListed, .holdover) ∧
    seenAfter (.activityLoss .refA) { activePart with refB := validInput } (fun t =>
      (t.selection, (t.engine 0).state, (t.engine 0).relock, t.deviceNotices.refSelection)) =
      some (some .refB, .holdover, true, true) ∧
    leaseAfter (.activityLoss .refA) readyLeasePart =
      some (some (.pending, .holdover, some 0), .quiet, .holdover) ∧
    leaseAfter (.activityLoss .refA) (migratingPart .overlap lockedEngine lockedEngine runsListed) =
      some (some (.migrating, .holdover, some 0), runsListed, .holdover) ∧
    leaseAfter (.activityLoss .refA) (migratingPart .loc lockedEngine lockedEngine .quiet) =
      some (some (.disturbed, .migrated, some 0), .quiet, .holdover) :=
  ⟨by decide +kernel, by decide +kernel, by decide +kernel, by decide +kernel, by decide +kernel⟩

/-- Offsets at the window's edge, 20 ppm: 20 is good, 21 is not. -/
theorem witness_MeasurementJudged :
    readyPart.ready = true ∧ (readyPart.input .refA).state = .valid ∧ (readyPart.input .refA).strikes = 0 ∧
    (measuredOffset readyPart.params.nominal 1000020).natAbs ≤ readyPart.params.window ∧
    readyPart.params.window < (measuredOffset readyPart.params.nominal 1000021).natAbs ∧
    (∀ st ∈ [InputState.qualifying, .valid, .disqualified],
      (({ readyPart with refA := { validInput with state := st } } : State).input .refA).state = st) := by
  decide +kernel

/-- A second strike drops the selection, and a passed trial under AUTO_REVERT takes it. -/
theorem witness_MeasurementJudged_selection :
    seenAfter (.measurement .refA 1000021) { activePart with refA := { validInput with strikes := 1 } } (fun t =>
      (t.refA.state, t.selection, (t.engine 0).state)) = some (.disqualified, none, .holdover) ∧
    seenAfter (.qualificationTimerExpiry .refA)
      { activePart with refA := { validInput with state := .qualifying }, refB := validInput,
                        selection := some .refB } (fun t =>
      (t.refA.state, t.selection, (t.engine 0).state)) = some (.valid, some .refA, .holdover) := by
  decide +kernel

/-- The loss of the selected input takes the engine of a LOCAL migration and both of an OVERLAP one to HOLDOVER. -/
theorem witness_ActivityEvents_migrating :
    seenAfter (.activityLoss .refA) (migratingPart .loc lockedEngine lockedEngine runsListed)
      (fun t => t.engine 0) = some { lockedEngine with state := .holdover, holdover := ⟨true, 0, 0⟩ } ∧
    seenAfter (.activityLoss .refA) (migratingPart .overlap lockedEngine lockedEngine runsListed)
      (fun t => ((t.engine 0).state, (t.engine 1).state)) = some (.holdover, .holdover) := by decide +kernel

/-! ### Witnesses: shared operations and invariants -/

theorem witness_AllocationAnswers :
    readyPart.ask ⟨⟨250, 1⟩, [.general], false, none, none⟩ = .ok 0 ∧
    readyPart.ask ⟨⟨250, 1⟩, [.general], false, some 5, none⟩ = .error .planRange ∧
    readyPart.ask ⟨⟨250, 1⟩, [.fine], false, some 5, some 5⟩ = .error .engineBusy ∧
    readyPart.ask ⟨⟨250, 1⟩, [], false, none, none⟩ = .error .noEngine := by decide +kernel

/-- Requests pinned to E0: OFF, LINGERING under another plan, shared, under another plan, EXCLUSIVE. -/
theorem witness_AllocationAnswers_pinned :
    readyPart.ask ⟨⟨250, 1⟩, [.general], true, some 0, none⟩ = .ok 0 ∧
    (readyPart.setEngine 0 { EngineRec.initial with state := .lingering, plan := some ⟨300, 1⟩ }).ask
      ⟨⟨250, 1⟩, [.general], true, some 0, none⟩ = .ok 0 ∧
    activePart.ask ⟨⟨250, 1⟩, [.general], false, some 0, none⟩ = .ok 0 ∧
    activePart.ask ⟨⟨300, 1⟩, [.general], false, some 0, none⟩ = .error .engineBusy ∧
    activePart.ask ⟨⟨250, 1⟩, [.general], true, some 0, none⟩ = .error .engineBusy := by decide +kernel

/-- What taking an engine, its last user's leaving and reprogramming make of engine records. -/
theorem witness_AllocationAnswers_records :
    EngineRec.initial.commit ⟨⟨250, 1⟩, [.general], true, none, none⟩ true 40 =
      { engineIn .acquiring with exclusive := true, acquisition := ⟨.running, 0, 40⟩ } ∧
    ({ lockedEngine with state := .lingering, users := 0, linger := ⟨true, 7, 500⟩ } : EngineRec).commit
      ⟨⟨250, 1⟩, [.general], false, none, none⟩ true 40 = { lockedEngine with linger := ⟨false, 0, 500⟩ } ∧
    lockedEngine.commit ⟨⟨250, 1⟩, [.general], false, none, none⟩ true 40 = { lockedEngine with users := 2 } ∧
    lockedEngine.dropUser 500 =
      { lockedEngine with state := .lingering, users := 0, linger := ⟨true, 0, 500⟩ } ∧
    lockedEngine.dropUser 0 = EngineRec.initial ∧
    spentEngine.program false 40 ⟨300, 1⟩ =
      { engineIn .acquiring with plan := some ⟨300, 1⟩, acquisition := ⟨.waiting, 0, 0⟩ } := by decide

/-- VCO clocks of 2500 MHz in tenths of a nanosecond, a common fall of the divided clocks of each at 2.2 ns. -/
def vcoClocks : VcoClocks := fun _ => ⟨2, 22⟩

/-- An output that changes from (E0, 16) to (E0, 20) (04 4.8), from quiet to (E0, 20), and one that runs there: the
pins agree from the changeovers' ends on, at 2.2 ns. -/
theorem witness_ChangeoverHasNoRunt_records :
    (∀ e, 0 < (vcoClocks e).half) ∧
    (OutState.changing (.clock 0 16) (.clock 0 20) none).doneAt vcoClocks 0 = some 22 ∧
    (OutState.changing .quiet (.clock 0 20) none).doneAt vcoClocks 3 = some 22 ∧
    (vcoClocks 0).divided 16 = ⟨32, 22⟩ ∧ (vcoClocks 0).divided 20 = ⟨40, 22⟩ ∧
    ∀ u ∈ [22, 40, 61, 62, 101, 102],
      (OutState.changing (.clock 0 16) (.clock 0 20) none).pinAt vcoClocks 0 u = decide (62 ≤ u ∧ u < 102) ∧
      (OutState.changing .quiet (.clock 0 20) none).pinAt vcoClocks 3 u = decide (62 ≤ u ∧ u < 102) ∧
      (OutState.running 0 20).pinAt vcoClocks 0 u = decide (62 ≤ u ∧ u < 102) :=
  ⟨fun _ => Nat.zero_lt_two, by decide, by decide, by decide, by decide, by decide⟩

theorem witness_ChangeoverHasNoRunt : 0 < (⟨1, 0⟩ : Wave).half := by decide

/-- The invariants at a state that is not the reset state: a part with an ACTIVE lease. -/
theorem witness_invariants_of_leases :
    activePart.Sound ∧ activePart.SoundRun ∧ activePart.Books ∧ activePart.TagsUnique ∧
    activePart.SelectionValid :=
  ⟨State.Sound.of_check (by decide +kernel), State.SoundRun.of_check (by decide +kernel),
    State.Books.of_check (by decide +kernel), tagsUnique_of_one (by decide +kernel),
    selectionValid_of_refA (.inl (by decide +kernel)) (by decide +kernel)⟩

theorem witness_invariants_of_inputs_and_outputs :
    activePart.InputsSound ∧ startingPart.OutputsSound ∧ activePart.EnginesFollow ∧
    activePart.ConfigInRange ∧ activePart.NoticesOk ∧ activePart.DormantUntilReady := by
  refine ⟨fun r => ?_, fun o => ?_, fun e => ?_, ?_, ?_, fun h => ?_⟩
  · cases r
    · exact ⟨by decide +kernel, by decide +kernel, by decide +kernel⟩
    · exact ⟨by decide +kernel, by decide +kernel, by decide +kernel⟩
  · by_cases h : o = 0
    · subst h
      exact ⟨by decide, by decide⟩
    · have : (startingPart.output o).state = .quiet := by
        revert o; decide +kernel
      rw [this]
      trivial
  · have h : ∀ e, (activePart.engine e).state = .locked ∧ (activePart.engine e).relock = false ∨
        (activePart.engine e).state = .off ∧ (activePart.engine e).relock = false := by decide +kernel
    rcases h e with ⟨h, k⟩ | ⟨h, k⟩
    · exact ⟨fun _ => rfl, fun _ => rfl, by simp [h], by simp [h], by simp [k]⟩
    · exact ⟨fun _ => rfl, fun _ => rfl, by simp [h], by simp [h], by simp [k]⟩
  · exact ⟨⟨by decide, by decide, by decide, by decide, by decide, by decide⟩, by decide +kernel,
      fun p => by cases p <;> decide +kernel⟩
  · have hn : ∀ i : SlotId, activePart.portA.notices[i] = none ∧ activePart.portB.notices[i] = none ∧
        (activePart.slot i).standing ≠ .retired .A ∧ (activePart.slot i).standing ≠ .retired .B := by
      decide +kernel
    refine ⟨fun p i n h => ?_, fun p i h => ?_⟩
    · cases p
      · have := (hn i).1; rw [show (activePart.port .A) = activePart.portA from rfl, this] at h; cases h
      · have := (hn i).2.1; rw [show (activePart.port .B) = activePart.portB from rfl, this] at h; cases h
    · cases p
      · exact absurd h (hn i).2.2.1
      · exact absurd h (hn i).2.2.2
  · exact absurd h (by decide +kernel)

end Sys2Proof.Tests
end

/-! ## The readers of a body

What each reading of a body accepts (R181), stated once; the statements about the layouts and the entry
lists of OPEN, RETUNE and RETRY are read off these. -/

namespace Sys2Proof.Machine

/-! ### Bytes and numbers -/

@[simp] theorem byte_toNat_self (b : Byte) : byte b.toNat = b := by simp [byte]

theorem byte_toNat {n : Nat} (h : n < 256) : (byte n).toNat = n := by
  simpa [byte] using Nat.mod_eq_of_lt h

/-- A number of two bytes splits into them and no others (R178). -/
theorem number_two_eq_iff (a b : Byte) (n : Nat) :
    number [a, b] = n ↔ n < 65536 ∧ a = byte (n / 256) ∧ b = byte n := by
  simp only [number, List.foldl_cons, List.foldl_nil, byte, BitVec.toNat_eq, BitVec.toNat_ofNat]
  have := a.isLt
  have := b.isLt
  omega

/-- A number of four bytes splits into them and no others (R178). -/
theorem number_four_eq_iff (a b c d : Byte) (n : Nat) :
    number [a, b, c, d] = n ↔ n < 4294967296 ∧
      a = byte (n / 16777216) ∧ b = byte (n / 65536) ∧ c = byte (n / 256) ∧ d = byte n := by
  simp only [number, List.foldl_cons, List.foldl_nil, byte, BitVec.toNat_eq, BitVec.toNat_ofNat]
  have := a.isLt
  have := b.isLt
  have := c.isLt
  have := d.isLt
  omega

theorem number_two_bytes {n : Nat} (h : n < 65536) : number [byte (n / 256), byte n] = n :=
  (number_two_eq_iff _ _ _).2 ⟨h, rfl, rfl⟩

/-- A byte below a bound of at most 256 reads as its number. -/
theorem readFin_eq_some_iff {n : Nat} (hn : n ≤ 256) (b : Byte) (x : Fin n) :
    readFin n b = some x ↔ b = byte x.1 := by
  have := x.isLt
  unfold readFin
  constructor
  · intro h
    split at h
    · cases h; simp
    · cases h
  · rintro rfl
    have hx : (byte x.1).toNat = x.1 := byte_toNat (by omega)
    simp [hx]

theorem readFin_byte {n : Nat} (hn : n ≤ 256) (x : Fin n) : readFin n (byte x.1) = some x :=
  (readFin_eq_some_iff hn _ x).2 rfl

theorem readFin_eq_none_iff (n : Nat) (b : Byte) : readFin n b = none ↔ n ≤ b.toNat := by
  unfold readFin
  split <;> simp <;> omega

/-! ### Entry lists -/

/-- The bytes of an entry list: three for each entry (11.2). -/
def entriesBytes (es : List Entry) : List Byte :=
  es.flatMap fun x => [byte x.output.1, byte (x.divider / 256), byte x.divider]

/-- An entry at the front of the bytes: its output, its divider and the rest are read alone. -/
theorem readEntries_cons_eq_some_iff (o q1 q0 : Byte) (rest : List Byte) (es : List Entry) :
    readEntries (o :: q1 :: q0 :: rest) = some es ↔ ∃ x xs, es = x :: xs ∧ readEntries rest = some xs ∧
      o = byte x.output.1 ∧ number [q1, q0] = x.divider ∧ 1 ≤ x.divider ∧ x.divider ≤ 1024 := by
  simp only [readEntries]
  constructor
  · intro h
    split at h
    · rename_i o' xs ho hxs
      split at h
      · rename_i hq
        cases h
        exact ⟨_, xs, rfl, hxs, (readFin_eq_some_iff (by decide) o o').1 ho, rfl, hq⟩
      · cases h
    · cases h
  · rintro ⟨x, xs, rfl, hxs, rfl, hq, hr⟩
    rw [readFin_byte (by decide), hxs]
    simp [hq, hr]

/-- Entries read from the three bytes of each, with every divider in range (R26). -/
theorem readEntries_eq_some_iff : ∀ (bs : List Byte) (es : List Entry),
    readEntries bs = some es ↔ bs = entriesBytes es ∧ ∀ x ∈ es, 1 ≤ x.divider ∧ x.divider ≤ 1024
  | [], es => by cases es <;> simp [readEntries, entriesBytes]
  | [_], es => by cases es <;> simp [readEntries, entriesBytes]
  | [_, _], es => by cases es <;> simp [readEntries, entriesBytes]
  | o :: q1 :: q0 :: rest, es => by
    rw [readEntries_cons_eq_some_iff]
    constructor
    · rintro ⟨x, xs, rfl, hxs, rfl, hq, hr⟩
      obtain ⟨rfl, hdiv⟩ := (readEntries_eq_some_iff rest xs).1 hxs
      obtain ⟨-, rfl, rfl⟩ := (number_two_eq_iff q1 q0 _).1 hq
      exact ⟨rfl, List.forall_mem_cons.2 ⟨hr, hdiv⟩⟩
    · rintro ⟨hb, hdiv⟩
      cases es with
      | nil => cases hb
      | cons x xs =>
        simp only [entriesBytes, List.flatMap_cons, List.cons_append, List.nil_append, List.cons.injEq] at hb
        obtain ⟨rfl, rfl, rfl, hrest⟩ := hb
        obtain ⟨hx, hxs⟩ := List.forall_mem_cons.1 hdiv
        exact ⟨x, xs, rfl, (readEntries_eq_some_iff rest xs).2 ⟨hrest, hxs⟩, rfl,
          number_two_bytes (by omega), hx⟩

/-- A counted entry list of at most four in order (R26). -/
theorem readEntryList_eq_some_iff (k : Byte) (rest : List Byte) (es : List Entry) :
    readEntryList k rest = some es ↔ k = byte es.length ∧ rest = entriesBytes es ∧ es.length ≤ 4 ∧
      ascending es = true ∧ ∀ x ∈ es, 1 ≤ x.divider ∧ x.divider ≤ 1024 := by
  unfold readEntryList
  constructor
  · intro h
    split at h
    · rename_i es' hes
      split at h
      · rename_i hc
        cases h
        obtain ⟨hb, hdiv⟩ := (readEntries_eq_some_iff _ _).1 hes
        exact ⟨by rw [hc.1]; simp, hb, by omega, hc.2.2, hdiv⟩
      · cases h
    · cases h
  · rintro ⟨rfl, hb, hl, ha, hdiv⟩
    rw [(readEntries_eq_some_iff _ _).2 ⟨hb, hdiv⟩]
    have : (byte es.length).toNat = es.length := byte_toNat (by omega)
    simp [this, hl, ha]

/-- A counted entry list that may not be empty reads as a list of one to four entries in order (R11, R26). -/
theorem readEntryList1_eq_some_iff (k : Byte) (rest : List Byte) (es : List Entry) :
    readEntryList1 k rest = some es ↔ k = byte es.length ∧ rest = entriesBytes es ∧ EntriesOk es := by
  have key := readEntryList_eq_some_iff k rest
  unfold readEntryList1
  constructor
  · intro h
    split at h
    · cases h
    · rename_i hne
      obtain ⟨hk, hb, hl, ha, hdiv⟩ := (key es).1 h
      have : es ≠ [] := fun he => hne (he ▸ h)
      exact ⟨hk, hb, ⟨⟨List.length_pos_iff.2 this, hl⟩, ha, hdiv⟩⟩
  · rintro ⟨hk, hb, ⟨hl, ha, hdiv⟩⟩
    rw [(key es).2 ⟨hk, hb, hl.2, ha, hdiv⟩]
    cases es with
    | nil => simp at hl
    | cons x xs => rfl

end Sys2Proof.Machine

/-! ## What a step does to leases, engines and outputs

The invariants of the lease table read the board alone: the leases, the engine records and the output
records. A step is taken apart once, into the operations that write the board; a property that these
operations keep is kept by every step (`StepClosed.step`). -/

namespace Sys2Proof.Machine

/-! ### The board -/

/-- The leases, the engine records and the output records of `t` are those of `s`. -/
structure SameBoard (s t : State) : Prop where
  leases : ∀ i, t.lease? i = s.lease? i
  engines : ∀ e, t.engine e = s.engine e
  outputs : ∀ o, t.output o = s.output o

namespace SameBoard

variable {s t u : State}

theorem refl (s : State) : SameBoard s s := ⟨fun _ => rfl, fun _ => rfl, fun _ => rfl⟩

theorem symm (h : SameBoard s t) : SameBoard t s :=
  ⟨fun i => (h.leases i).symm, fun e => (h.engines e).symm, fun o => (h.outputs o).symm⟩

theorem trans (h : SameBoard s t) (k : SameBoard t u) : SameBoard s u :=
  ⟨fun i => (k.leases i).trans (h.leases i), fun e => (k.engines e).trans (h.engines e),
    fun o => (k.outputs o).trans (h.outputs o)⟩

/-- The three tables of the board fix it. -/
theorem of_tables (hs : t.slots = s.slots) (he : t.engines = s.engines) (ho : t.outputs = s.outputs) :
    SameBoard s t :=
  ⟨fun i => by simp only [State.lease?, State.slot, hs], fun e => by simp only [State.engine, he],
    fun o => by simp only [State.output, ho]⟩

theorem setPort (p : Port) (x : PortState) (h : SameBoard s t) : SameBoard s (t.setPort p x) :=
  h.trans (of_tables (by simp) (by simp) (by simp))

theorem touched (xs : List SlotId) (h : SameBoard s t) : SameBoard s { t with touched := xs } :=
  h.trans (of_tables rfl rfl rfl)

theorem deviceNotices (d : DeviceNotices) (h : SameBoard s t) : SameBoard s { t with deviceNotices := d } :=
  h.trans (of_tables rfl rfl rfl)

theorem setInput (r : RefInput) (x : InputRec) (h : SameBoard s t) : SameBoard s (t.setInput r x) :=
  h.trans (of_tables (by simp) (by simp) (by simp))

theorem raiseRefInput (r : RefInput) (h : SameBoard s t) : SameBoard s (t.raiseRefInput r) := by
  cases r <;> exact h.deviceNotices _

theorem raise (i : SlotId) (closed : Bool) (h : SameBoard s t) : SameBoard s (t.raise i closed) := by
  unfold State.raise
  split
  · exact h
  · exact (h.setPort _ _).touched _

theorem tell (told : Bool) (i : SlotId) (h : SameBoard s t) : SameBoard s (t.tell told i) := by
  unfold State.tell
  split
  · exact h
  · exact h.raise i false

/-- A slot whose lease is none, written so that it stays none. -/
theorem setSlot_of_none {i : SlotId} {x : Slot} (hi : t.lease? i = none) (hx : x.standing.lease? = none)
    (h : SameBoard s t) : SameBoard s (t.setSlot i x) := by
  refine h.trans ⟨fun j => ?_, fun _ => by simp, fun _ => by simp⟩
  rw [State.lease_setSlot]
  split
  · rename_i hj; rw [hj, hi, hx]
  · rfl

/-- Freeing a RETIRED slot ends no lease (R2). -/
theorem freeRetired (i : SlotId) (h : SameBoard s t) : SameBoard s (t.freeRetired i) := by
  unfold State.freeRetired
  split
  · rename_i hst
    exact h.setSlot_of_none (by simp only [State.lease?, hst, Standing.lease?]) rfl
  · exact h
  · exact h

theorem forEach {α : Type} {f : α → State → State} (hf : ∀ x t, SameBoard t (f x t)) (xs : List α)
    (h : SameBoard s t) : SameBoard s (Machine.forEach xs f t) :=
  forEach_keeps (P := SameBoard s) f (fun x _ hu => hu.trans (hf x _)) xs h

theorem portResync (p : Port) (h : SameBoard s t) : SameBoard s (t.portResync p) := by
  unfold State.portResync
  refine forEach (fun i u => ?_) _ ?_
  · split
    · exact (refl u).freeRetired i
    · exact refl u
  · split
    · exact (h.setPort _ _).deviceNotices _
    · exact h.setPort _ _

theorem judgeResync (p : Port) (rest : List Byte) (h : SameBoard s t) :
    SameBoard s (t.judgeResync p rest) := by
  unfold State.judgeResync
  split
  · exact h.setPort _ _
  · split
    · exact h.portResync p
    · exact h.setPort _ _

theorem judge (p : Port) (f : Frame) (kind : Byte) (rest : List Byte) (h : SameBoard s t) :
    SameBoard s (t.judge p f kind rest) := by
  unfold State.judge
  split
  · exact h.setPort _ _
  split
  · exact h.setPort _ _
  split
  · exact h.setPort _ _
  split
  · exact h.setPort _ _
  split
  · exact h.judgeResync p rest
  · exact h.setPort _ _

/-- No frame touches a lease, an engine or an output (R142, R145). -/
theorem endFrame (p : Port) (x : ShiftedIn) (h : SameBoard s t) : SameBoard s (t.endFrame p x) := by
  unfold State.endFrame
  split
  · split
    · exact (h.setPort _ _).judge _ _ _ _
    · exact h.setPort _ _
  · exact h

theorem chipSelectFall (p : Port) (h : SameBoard s t) : SameBoard s (t.chipSelectFall p) := by
  unfold State.chipSelectFall
  split
  · exact h
  · exact h.setPort _ _

theorem clearNotices (p : Port) (h : SameBoard s t) : SameBoard s (t.clearNotices p) := by
  have hf : SameBoard s (Machine.forEach allSlots
      (fun i u => if t.noticeClosed p i then u.freeRetired i else u) t) := by
    refine forEach (fun i u => ?_) _ h
    split
    · exact (refl u).freeRetired i
    · exact refl u
  unfold State.clearNotices
  dsimp only
  split
  · exact (hf.setPort _ _).deviceNotices _
  · exact hf.setPort _ _

theorem setMask (p : Port) (m : Option Byte) (h : SameBoard s t) : SameBoard s (t.setMask p m) := by
  cases m with
  | none => exact h
  | some m => exact h.setPort _ _

theorem setClients (a : ClientArgs) (h : SameBoard s t) : SameBoard s (t.setClients a) :=
  forEach (f := State.setQuota) (fun _ _ => of_tables rfl rfl rfl) _ ((h.setMask _ _).setMask _ _)

theorem afterTaking (p : Port) (h : SameBoard s t) : SameBoard s (t.afterTaking p) :=
  (h.setPort _ _).trans (of_tables rfl rfl rfl)

theorem afterFind (o : OutputId) (h : SameBoard s t) : SameBoard s (t.afterFind o) := by
  unfold State.afterFind
  split
  · exact h.trans (of_tables rfl rfl rfl)
  · exact h

theorem retrialInput (r : RefInput) (h : SameBoard s t) : SameBoard s (t.retrialInput r) := by
  unfold State.retrialInput
  dsimp only
  split
  · exact h.setInput _ _
  · exact (h.setInput _ _).raiseRefInput _

end SameBoard

/-- A part without leases whose engines and outputs stand at their power-on values (R4, R72, R86). -/
structure State.Blank (s : State) : Prop where
  leases : ∀ i, s.lease? i = none
  engines : ∀ e, s.engine e = EngineRec.initial
  outputs : ∀ o, s.output o = OutputRec.initial

theorem State.reset_blank : State.reset.Blank := ⟨by simp, by simp, by simp⟩

theorem State.Blank.of_sameBoard {s t : State} (h : s.Blank) (k : SameBoard s t) : t.Blank :=
  ⟨fun i => (k.leases i).trans (h.leases i), fun e => (k.engines e).trans (h.engines e),
    fun o => (k.outputs o).trans (h.outputs o)⟩

theorem State.coldReset_blank (s : State) : s.coldReset.Blank :=
  State.reset_blank.of_sameBoard (.of_tables rfl rfl rfl)

/-! ### The resets of SOFT_RESET -/

/-- A slot after a lease reset: FREE under its next generation unless it was FREE (R4, R174). -/
def Slot.freed (x : Slot) : Slot := if x.standing = .free then x else ⟨x.gen + 1, .free⟩

theorem Slot.freed_standing (x : Slot) : x.freed.standing = .free := by
  unfold Slot.freed
  split <;> simp_all

theorem State.freeSlot_slot (s : State) (i j : SlotId) :
    (s.freeSlot i).slot j = if j = i then (s.slot i).freed else s.slot j := by
  unfold State.freeSlot Slot.freed
  by_cases hj : j = i
  · subst hj
    split <;> simp_all
  · split <;> simp [State.slot_setSlot, hj]

/-- A loop that writes, for each slot of a list without repeats, its own slot from that slot's record. -/
theorem forEach_slot_map {g : Slot → Slot} {f : SlotId → State → State}
    (hf : ∀ i t j, (f i t).slot j = if j = i then g (t.slot i) else t.slot j) {xs : List SlotId}
    (hn : xs.Nodup) (s : State) (j : SlotId) :
    (forEach xs f s).slot j = if j ∈ xs then g (s.slot j) else s.slot j := by
  induction xs generalizing s with
  | nil => rfl
  | cons x xs ih =>
    obtain ⟨hx, hxs⟩ := List.nodup_cons.1 hn
    rw [show forEach (x :: xs) f s = forEach xs f (f x s) from rfl, ih hxs, hf]
    by_cases hj : j = x
    · subst hj; simp [hx]
    · simp [hj]

theorem State.leaseReset_slots (s : State) :
    s.leaseReset.slots = (forEach allSlots State.freeSlot s).slots := by
  unfold State.leaseReset
  generalize forEach allSlots State.freeSlot s = t
  rfl

theorem State.leaseReset_slot (s : State) (i : SlotId) : s.leaseReset.slot i = (s.slot i).freed := by
  have h := forEach_slot_map (g := Slot.freed) (f := State.freeSlot) (fun i t j => t.freeSlot_slot i j)
    allSlots_nodup s i
  rw [if_pos (mem_allSlots i)] at h
  simpa only [State.slot, s.leaseReset_slots] using h

theorem State.leaseReset_blank (s : State) : s.leaseReset.Blank :=
  ⟨fun i => by rw [State.lease?, s.leaseReset_slot, Slot.freed_standing]; rfl,
    fun e => by simp [State.leaseReset, State.engine], fun o => by simp [State.leaseReset, State.output]⟩

theorem State.deviceReset_blank (p : Port) (s : State) : (s.deviceReset p).Blank := by
  unfold State.deviceReset
  generalize hr : s.leaseReset = t
  exact (hr ▸ s.leaseReset_blank).of_sameBoard (SameBoard.setPort _ _ (.of_tables rfl rfl rfl))

/-! ### Checks that have passed -/

theorem bind_eq_ok_iff {α β : Type} {x : Except Denial α} {f : α → Except Denial β} {b : β} :
    (x >>= f) = .ok b ↔ ∃ a, x = .ok a ∧ f a = .ok b := by
  cases x with
  | error d => exact ⟨nofun, nofun⟩
  | ok a => exact ⟨fun h => ⟨a, rfl, h⟩, fun ⟨_, rfl, k⟩ => k⟩

theorem ensure_eq_ok_iff {b : Bool} {d : Denial} {u : Unit} : ensure b d = .ok u ↔ b = true := by
  cases b <;> simp [ensure]

theorem need_eq_ok_iff {α : Type} {o : Option α} {d : Denial} {x : α} : need o d = .ok x ↔ o = some x := by
  cases o <;> simp [need]

theorem bodyOf_eq_ok_iff {α : Type} {read : List Byte → Option α} {c : HeldCommand} {x : α} :
    bodyOf read c = .ok x ↔ read c.body = some x := need_eq_ok_iff

theorem granted_eq_ok_iff {r : Except Status EngineId} {e : EngineId} : granted r = .ok e ↔ r = .ok e := by
  cases r <;> simp [granted]

theorem checkEach_eq_ok_iff {α : Type} {ok : α → Bool} {st : Status} {k : Nat} {xs : List α} {u : Unit} :
    checkEach ok st k xs = .ok u ↔ ∀ x ∈ xs, ok x = true := by
  refine ⟨fun h => ?_, fun h => checkEach_ok k h⟩
  induction xs generalizing k with
  | nil => simp
  | cons x xs ih =>
    simp only [checkEach] at h
    split at h
    · rename_i hx
      exact List.forall_mem_cons.2 ⟨hx, ih h⟩
    · cases h

theorem sameOutputs_eq_ok_iff {carried own : List Entry} {u : Unit} :
    sameOutputs carried own = .ok u ↔ outputsOf carried = outputsOf own := by
  rw [← mismatch_eq_none 0]
  unfold sameOutputs
  cases mismatch 0 carried own <;> simp

/-- The handle reaches the lease, and the client may act on it (R18). -/
theorem State.owned_eq_ok_iff {s : State} {c : HeldCommand} {h : Handle} {x : SlotId × Lease} :
    s.owned c h = .ok x ↔ s.reach h = some x ∧ x.2.ownedBy c.client = true := by
  simp only [State.owned, bind_eq_ok_iff, need_eq_ok_iff, ensure_eq_ok_iff]
  constructor
  · rintro ⟨y, hy, -, ho, hk⟩
    cases hk
    exact ⟨hy, ho⟩
  · rintro ⟨hx, ho⟩
    exact ⟨x, hx, (), ho, rfl⟩

/-- A handle that reaches a lease names its slot and its generation (R5). -/
theorem State.reach_eq_some_iff {s : State} {h : Handle} {i : SlotId} {l : Lease} :
    s.reach h = some (i, l) ↔ h.slot = byte i.1 ∧ (s.slot i).gen = h.gen ∧ s.lease? i = some l := by
  unfold State.reach
  constructor
  · intro k
    split at k
    · cases k
    · rename_i j hj
      split at k
      · rename_i hg
        obtain ⟨l', hl', heq⟩ := Option.map_eq_some_iff.1 k
        cases heq
        exact ⟨(readFin_eq_some_iff (by decide) _ _).1 hj, hg, hl'⟩
      · cases k
  · rintro ⟨hs, hg, hl⟩
    rw [hs, readFin_byte (by decide)]
    simp [hg, hl]

end Sys2Proof.Machine

/-! ## The commands that write the board, and every step

What an accepted command has checked, and the taking apart of a step. -/

namespace Sys2Proof.Machine

/-! ### What an accepted command has checked -/

/-- What an accepted OPEN of a client has checked (R25): its body `a`, the eligible classes, the free slot and the
engine found. -/
structure State.OpenChecked (s : State) (client : ClientId) (a : OpenArgs) (cs : List EngineClass)
    (i : SlotId) (e : EngineId) : Prop where
  entries : EntriesOk a.entries
  tag : s.tagInUse client a.tag = false
  slot : s.lowestFree = some i
  unheld : ∀ x ∈ a.entries, (s.output x.output).holder = none
  engine : s.ask (a.request cs) = .ok e

/-- What an accepted START has checked of its slots (R33). -/
structure State.StartChecked (s : State) (is : List SlotId) : Prop where
  nodup : is.Nodup
  startable : ∀ i ∈ is, ∀ l, s.lease? i = some l → l.startable = true

/-- A request of RETUNE that names the outputs of its lease, in slot `i` (R90). -/
structure State.RetuneFits (s : State) (i : SlotId) (l : Lease) (r : RetuneRequest) : Prop where
  lease : s.lease? i = some l
  entries : EntriesOk r.entries
  outputs : outputsOf r.entries = outputsOf l.entries

/-- What an accepted RETRY has checked of the FAILED lease in slot `i` (R121). -/
structure State.RetryChecked (s : State) (i : SlotId) (l : Lease) (r : AllocRequest) (es : List Entry)
    (e : EngineId) : Prop where
  lease : s.lease? i = some l
  failed : l.state = .failed
  entries : EntriesOk es ∨ es = l.entries
  outputs : outputsOf es = outputsOf l.entries
  engine : s.ask r = .ok e
  exclusive : r.exclusive = l.flags.exclusive

theorem readOpen_entries {body : List Byte} {a : OpenArgs} (h : readOpen body = some a) :
    EntriesOk a.entries := by
  unfold readOpen at h
  split at h
  · split at h
    · rename_i hes
      cases h
      exact ((readEntryList1_eq_some_iff _ _ _).1 hes).2.2
    · cases h
  · cases h

theorem readRetune_entries {body : List Byte} {a : RetuneArgs} (h : readRetune body = some a) :
    EntriesOk a.entries := by
  unfold readRetune at h
  split at h
  · split at h
    · rename_i hes
      cases h
      exact ((readEntryList1_eq_some_iff _ _ _).1 hes).2.2
    · cases h
  · cases h

/-- The list of a RETRY is absent where it is empty (R181). -/
theorem readRetry_entries {body : List Byte} {a : RetryArgs} (h : readRetry body = some a) {es : List Entry}
    (hes : a.entries = some es) : EntriesOk es := by
  unfold readRetry at h
  split at h
  · split at h
    · rename_i es' hread
      cases h
      dsimp only at hes
      split at hes
      · cases hes
      · rename_i hne
        cases hes
        obtain ⟨-, -, hl, ha, hd⟩ := (readEntryList_eq_some_iff _ _ _).1 hread
        exact ⟨⟨List.length_pos_iff.2 hne, hl⟩, ha, hd⟩
    · cases h
  · cases h

theorem readStart_nodup {body : List Byte} {hs : List Handle} (h : readStart body = some hs) : hs.Nodup := by
  unfold readStart at h
  split at h
  · split at h
    · rename_i hc
      cases h
      exact hc.2.2
    · cases h
  · cases h

/-- The handles of a list resolve to the leases that they reach, in their order (R33). -/
theorem State.resolve_eq_ok_iff {s : State} {k : Nat} {hs : List Handle} {xs : List (SlotId × Lease)} :
    s.resolve k hs = .ok xs ↔ xs.map some = hs.map s.reach := by
  induction hs generalizing k xs with
  | nil => cases xs <;> simp [State.resolve]
  | cons h hs ih =>
    simp only [State.resolve, bind_eq_ok_iff, need_eq_ok_iff]
    constructor
    · rintro ⟨x, hx, ys, hys, hk⟩
      cases hk
      simp [hx, ih.1 hys]
    · intro hm
      cases xs with
      | nil => cases hm
      | cons x ys =>
        simp only [List.map_cons, List.cons.injEq] at hm
        exact ⟨x, hm.1.symm, ys, ih.2 hm.2, rfl⟩

/-- Handles that reach leases are given back by their slots. -/
theorem State.handles_of_resolved {s : State} {hs : List Handle} {xs : List (SlotId × Lease)}
    (h : xs.map some = hs.map s.reach) :
    hs = (xs.map Prod.fst).map fun i => ⟨byte i.1, (s.slot i).gen⟩ := by
  induction hs generalizing xs with
  | nil =>
    cases xs with
    | nil => rfl
    | cons x ys => cases h
  | cons g hs ih =>
    cases xs with
    | nil => cases h
    | cons x ys =>
      simp only [List.map_cons, List.cons.injEq] at h
      obtain ⟨hslot, hgen, -⟩ := State.reach_eq_some_iff.1 h.1.symm
      rw [List.map_cons, List.map_cons, ← ih h.2]
      cases g
      simp_all

theorem State.lease_of_resolved {s : State} {hs : List Handle} {xs : List (SlotId × Lease)}
    (h : xs.map some = hs.map s.reach) {x : SlotId × Lease} (hx : x ∈ xs) : s.lease? x.1 = some x.2 := by
  have : some x ∈ hs.map s.reach := h ▸ List.mem_map_of_mem hx
  obtain ⟨g, -, hg⟩ := List.mem_map.1 this
  exact (State.reach_eq_some_iff.1 hg).2.2

@[simp] theorem retuneReply_state (st : Status) (i : SlotId) (s : State) : (retuneReply st i s).state = s := by
  unfold retuneReply
  split <;> rfl

section runs

variable {p : Port} {c : HeldCommand} {s : State} {r : Reply}

theorem runOpen_ok (h : runOpen p c s = .ok r) :
    ∃ a cs i e, s.OpenChecked c.client a cs i e ∧ r.state = s.openAccepted p c.client a cs i e := by
  simp only [runOpen, bind_eq_ok_iff, bodyOf_eq_ok_iff, ensure_eq_ok_iff, need_eq_ok_iff,
    checkEach_eq_ok_iff, granted_eq_ok_iff] at h
  obtain ⟨a, ha, -, htag, -, -, i, hi, cs, -, -, hheld, e, he, hr⟩ := h
  cases hr
  exact ⟨a, cs, i, e, ⟨readOpen_entries ha, by simpa using htag, hi, by simpa using hheld, he⟩, rfl⟩

theorem runStart_ok (h : runStart p c s = .ok r) :
    ∃ is, s.StartChecked is ∧ r.state = forEach is (State.startOne p) s := by
  simp only [runStart, bind_eq_ok_iff, bodyOf_eq_ok_iff, checkEach_eq_ok_iff,
    State.resolve_eq_ok_iff] at h
  obtain ⟨hs, hread, xs, hxs, -, -, -, hst, hr⟩ := h
  cases hr
  refine ⟨xs.map Prod.fst, ⟨?_, fun i hi l hl => ?_⟩, rfl⟩
  · have hn := readStart_nodup hread
    rw [State.handles_of_resolved hxs] at hn
    exact List.Nodup.of_map _ hn
  · obtain ⟨x, hx, rfl⟩ := List.mem_map.1 hi
    have := State.lease_of_resolved hxs hx
    rw [hl] at this
    cases this
    exact hst x hx

theorem runRetune_ok (h : runRetune p c s = .ok r) :
    ∃ told i l q, s.RetuneFits i l q ∧ l.state.retunable = true ∧ s.retuneCase told i l q = .ok r := by
  simp only [runRetune, bind_eq_ok_iff, bodyOf_eq_ok_iff, ensure_eq_ok_iff, sameOutputs_eq_ok_iff,
    State.owned_eq_ok_iff] at h
  obtain ⟨a, ha, ⟨i, l⟩, ⟨hreach, -⟩, -, hst, -, hout, cs, -, hcase⟩ := h
  exact ⟨_, i, l, _, ⟨(State.reach_eq_some_iff.1 hreach).2.2, readRetune_entries ha, hout⟩, hst, hcase⟩

theorem runRelease_ok (h : runRelease p c s = .ok r) :
    ∃ told i l, s.lease? i = some l ∧ l.state ≠ .closing ∧ r.state = s.endLease told .released i l := by
  simp only [runRelease, bind_eq_ok_iff, bodyOf_eq_ok_iff, ensure_eq_ok_iff, State.owned_eq_ok_iff,
    decide_eq_true_eq] at h
  obtain ⟨g, -, ⟨i, l⟩, ⟨hreach, -⟩, -, hst, hr⟩ := h
  cases hr
  exact ⟨_, i, l, (State.reach_eq_some_iff.1 hreach).2.2, hst, rfl⟩

theorem runRevoke_ok (h : runRevoke p c s = .ok r) :
    ∃ i l, s.lease? i = some l ∧ l.state ≠ .closing ∧ r.state = s.endLease false .revoked i l := by
  simp only [runRevoke, supervisorOnly, bind_eq_ok_iff, bodyOf_eq_ok_iff, ensure_eq_ok_iff, need_eq_ok_iff,
    decide_eq_true_eq] at h
  obtain ⟨-, -, g, -, ⟨i, l⟩, hreach, -, hst, hr⟩ := h
  cases hr
  exact ⟨i, l, (State.reach_eq_some_iff.1 hreach).2.2, hst, rfl⟩

/-- The acceptance of a RETRY on engine `e` (R122). -/
def State.retryAccepted (s : State) (told : Bool) (i : SlotId) (l : Lease) (r : AllocRequest)
    (cls : LeaseClass) (pin : Option EngineId) (es : List Entry) (e : EngineId) : State :=
  (((s.commit r e).setLease i (l.retriedOn r.plan cls pin es e)).enter i).tell told i

theorem runRetry_ok (h : runRetry p c s = .ok r) :
    ∃ told i l q cls pin es e, s.RetryChecked i l q es e ∧
      r.state = s.retryAccepted told i l q cls pin es e := by
  simp only [runRetry, bind_eq_ok_iff, bodyOf_eq_ok_iff, ensure_eq_ok_iff, sameOutputs_eq_ok_iff,
    State.owned_eq_ok_iff, granted_eq_ok_iff, decide_eq_true_eq] at h
  obtain ⟨a, ha, ⟨i, l⟩, ⟨hreach, -⟩, -, hst, -, hout, cs, -, e, he, hr⟩ := h
  cases hr
  refine ⟨_, i, l, _, _, _, _, e, ⟨(State.reach_eq_some_iff.1 hreach).2.2, hst, ?_, hout, he, rfl⟩, rfl⟩
  cases hes : a.entries with
  | none => exact .inr rfl
  | some es => exact .inl (readRetry_entries ha hes)

theorem runEngineClear_ok (h : runEngineClear p c s = .ok r) :
    ∃ e, (s.engine e).state = .faulted ∧ r.state = s.setEngine e (s.engine e).turnOff := by
  simp only [runEngineClear, supervisorOnly, bind_eq_ok_iff, bodyOf_eq_ok_iff, ensure_eq_ok_iff,
    decide_eq_true_eq] at h
  obtain ⟨-, -, e, -, -, hst, hr⟩ := h
  cases hr
  exact ⟨e, hst, rfl⟩

theorem runConfigure_ok (h : runConfigure p c s = .ok r) : ∃ ws, r.state = s.configure ws := by
  simp only [runConfigure, bind_eq_ok_iff] at h
  obtain ⟨-, -, ps, -, -, -, hr⟩ := h
  cases hr
  exact ⟨_, rfl⟩

theorem runSoftReset_ok (h : runSoftReset p c s = .ok r) :
    r.state = s.deviceReset p ∨ r.state = s.leaseReset := by
  simp only [runSoftReset, bind_eq_ok_iff] at h
  obtain ⟨-, -, device, -, hr⟩ := h
  rw [← Except.ok.inj hr]
  cases device with
  | false => exact .inr rfl
  | true => exact .inl rfl

/-- What holds after the last check of a run holds of the run. -/
theorem of_bind {α : Type} {Q : Prop} {x : Except Denial α} {f : α → Except Denial Reply}
    (h : (x >>= f) = .ok r) (hf : ∀ a, f a = .ok r → Q) : Q :=
  let ⟨a, _, k⟩ := bind_eq_ok_iff.1 h
  hf a k

/-! The commands that read, or write ports and clients alone, leave the board. -/

theorem runQueryLease_board (h : runQueryLease p c s = .ok r) : SameBoard s r.state :=
  of_bind h fun _ k => of_bind k fun _ k => by cases k; exact .refl s

theorem runLookupTag_board (h : runLookupTag p c s = .ok r) : SameBoard s r.state :=
  of_bind h fun _ k => by split at k <;> cases k <;> exact .refl s

theorem runListClient_board (h : runListClient p c s = .ok r) : SameBoard s r.state :=
  of_bind h fun _ k => of_bind k fun _ k => by cases k; exact .refl s

theorem runFindOutput_board (h : runFindOutput p c s = .ok r) : SameBoard s r.state :=
  of_bind h fun o k => by cases k; exact (SameBoard.refl s).afterFind o

theorem runQueryEngine_board (h : runQueryEngine p c s = .ok r) : SameBoard s r.state :=
  of_bind h fun _ k => by cases k; exact .refl s

theorem runQueryReference_board (h : runQueryReference p c s = .ok r) : SameBoard s r.state :=
  of_bind h fun _ k => by cases k; exact .refl s

theorem runNotices_board (h : runNotices p c s = .ok r) : SameBoard s r.state :=
  of_bind h fun _ k => by rw [← Except.ok.inj k]; exact (SameBoard.refl s).clearNotices p

theorem runSetIrq_board (h : runSetIrq p c s = .ok r) : SameBoard s r.state :=
  of_bind h fun _ k => by cases k; exact (SameBoard.refl s).setPort _ _

theorem runReadConfig_board (h : runReadConfig p c s = .ok r) : SameBoard s r.state :=
  of_bind h fun _ k => by cases k; exact .refl s

theorem runSetClients_board (h : runSetClients p c s = .ok r) : SameBoard s r.state :=
  of_bind h fun _ k => of_bind k fun a k => by cases k; exact (SameBoard.refl s).setClients a

theorem runHandover_board (h : runHandover p c s = .ok r) : SameBoard s r.state :=
  of_bind h fun _ k => of_bind k fun _ k => by cases k; exact .of_tables rfl rfl rfl

end runs

end Sys2Proof.Machine

/-! ## Every step

A property of the board that the operations of `StepClosed` keep is kept by every step. -/

namespace Sys2Proof.Machine

theorem SameBoard.pinRelease (v : Level) (s : State) : SameBoard s (s.pinRelease v) := by
  unfold State.pinRelease
  split
  · exact .of_tables rfl rfl rfl
  · exact .refl s

theorem SameBoard.oscillatorStable (s : State) : SameBoard s s.oscillatorStable := by
  unfold State.oscillatorStable
  split
  · exact .refl s
  · exact .of_tables rfl rfl rfl

/-- A property of the board that every operation of the part on leases, engines and outputs keeps, each in the
states in which the part performs it. -/
structure StepClosed (P : State → Prop) : Prop where
  board : ∀ {s t}, SameBoard s t → P s → P t
  blank : ∀ {s}, s.Blank → P s
  ticked : ∀ {s} e n, P s → P (s.setEngine e ((s.engine e).tick n))
  cleared : ∀ {s} e, P s → (s.engine e).state = .lingering ∨ (s.engine e).state = .faulted →
    P (s.setEngine e (s.engine e).turnOff)
  locked : ∀ {s} e, P s → (s.engine e).state = .acquiring ∨ (s.engine e).state = .holdover →
    P (forEach allSlots (onLocked e) (s.setEngine e (s.engine e).lock))
  slipped : ∀ {s} e n, P s → (s.engine e).state = .locked →
    P (forEach allSlots (onSlip e) (s.setEngine e ((s.engine e).slip n)))
  faulted : ∀ {s} e r, P s → (s.engine e).state = .acquiring ∨ (s.engine e).state = .holdover →
    P (s.declareFault e r)
  reselected : ∀ {s}, P s → P s.announceSelection
  completed : ∀ {s} o, P s → (s.output o).state.isChanging = true →
    P ((s.setOutput o { s.output o with state := (s.output o).state.complete }).reportCompletion o)
  opened : ∀ {s} p c a cs i e, P s → s.OpenChecked c a cs i e → P (s.openAccepted p c a cs i e)
  started : ∀ {s} p is, P s → s.StartChecked is → P (forEach is (State.startOne p) s)
  rewritten : ∀ {s} told i l r, P s → s.RetuneFits i l r → l.state = .pending ∨ l.state = .ready →
    l.servedUnder r = true → P (s.retuneInPlace told i l r)
  rebound : ∀ {s} told i l r e, P s → s.RetuneFits i l r → l.state = .pending ∨ l.state = .ready →
    s.ask (r.alloc l) = .ok e → P (s.rebind told i l r e)
  redivided : ∀ {s} told i l r e, P s → s.RetuneFits i l r → l.state = .active ∨ l.state = .disturbed →
    l.engine = some e → l.servedUnder r = true → P (s.retuneLocal told i l r e)
  overlapped : ∀ {s} told i l r e t, P s → s.RetuneFits i l r → l.state = .active ∨ l.state = .disturbed →
    l.engine = some e → s.ask (r.alloc l) = .ok t → P (s.retuneOverlap told i l r t)
  quieted : ∀ {s} told i l r e, P s → s.RetuneFits i l r → l.state = .active ∨ l.state = .disturbed →
    l.engine = some e → (s.engine e).users = 1 → P (s.retuneGap told i l r e)
  ended : ∀ {s} told q i l, P s → s.lease? i = some l → l.state ≠ .closing → P (s.endLease told q i l)
  retried : ∀ {s} told i l r cls pin es e, P s → s.RetryChecked i l r es e →
    P (s.retryAccepted told i l r cls pin es e)

namespace StepClosed

variable {P : State → Prop} (hP : StepClosed P)

include hP

/-! ### Takings -/

/-- A taking keeps what every accepted run of its command keeps: a refusal changes no lease, engine or output. -/
theorem taking {mine : HeldCommand → Bool} {run : Port → HeldCommand → State → Except Denial Reply}
    (hr : ∀ p c s r, run p c s = .ok r → P s → P r.state) {s : State} (h : P s) :
    P (event (State.take mine run) s) := by
  refine hP.board ((SameBoard.refl _).touched []) ?_
  have h := hP.board ((SameBoard.refl s).touched []) h
  generalize ({ s with touched := [] } : State) = s at h ⊢
  unfold State.take
  split
  · exact h
  rename_i p c _
  split
  swap
  · exact h
  have h := hP.board ((SameBoard.refl s).afterTaking p) h
  unfold State.respond
  split
  · split
    · rename_i r hrun
      exact hP.board ((SameBoard.refl _).setPort _ _) (hr p c _ r hrun h)
    · exact hP.board ((SameBoard.refl _).setPort _ _) h
  · exact hP.board ((SameBoard.refl _).setPort _ _) h

theorem moveOff {s : State} {told : Bool} {i : SlotId} {l : Lease} {q : RetuneRequest} {e : EngineId} {r : Reply}
    (h : P s) (hf : s.RetuneFits i l q) (hs : l.state = .active ∨ l.state = .disturbed)
    (he : l.engine = some e) (hr : s.moveOff told i l q e = .ok r) : P r.state := by
  have gap : ∀ st, s.gapOrRefuse told i l q e st = .ok r → P r.state := fun st hg => by
    simp only [State.gapOrRefuse, bind_eq_ok_iff, ensure_eq_ok_iff] at hg
    obtain ⟨-, ha, hk⟩ := hg
    rw [← Except.ok.inj hk, retuneReply_state]
    simp only [State.gapAllowed, Bool.and_eq_true, decide_eq_true_eq] at ha
    exact hP.quieted told i l q e h hf hs he ha.1.1.2
  unfold State.moveOff at hr
  split at hr
  · exact gap _ hr
  · split at hr
    · rename_i t ht
      rw [← Except.ok.inj hr, retuneReply_state]
      exact hP.overlapped told i l q e t h hf hs he ht
    · exact gap _ hr
    · cases hr

theorem retuneCase {s : State} {told : Bool} {i : SlotId} {l : Lease} {q : RetuneRequest} {r : Reply}
    (h : P s) (hf : s.RetuneFits i l q) (hs : l.state.retunable = true)
    (hr : s.retuneCase told i l q = .ok r) : P r.state := by
  unfold State.retuneCase at hr
  split at hr
  · rwa [← Except.ok.inj hr, retuneReply_state]
  split at hr
  · rename_i hq
    have hq : l.state = .pending ∨ l.state = .ready := by simpa using hq
    split at hr
    · rename_i hserved
      rw [← Except.ok.inj hr, retuneReply_state]
      exact hP.rewritten told i l q h hf hq hserved
    · simp only [bind_eq_ok_iff, granted_eq_ok_iff] at hr
      obtain ⟨e, he, hk⟩ := hr
      rw [← Except.ok.inj hk, retuneReply_state]
      exact hP.rebound told i l q e h hf hq he
  · rename_i hq
    have hq : l.state = .active ∨ l.state = .disturbed := by
      revert hq hs
      cases l.state <;> simp [LeaseState.retunable]
    split at hr
    · cases hr
    · rename_i e he
      split at hr
      · rename_i hserved
        rw [← Except.ok.inj hr, retuneReply_state]
        exact hP.redivided told i l q e h hf hq he hserved
      · exact hP.moveOff h hf hq he hr

/-! ### The selection and the configuration -/

theorem reevaluate {s : State} (h : P s) : P s.reevaluate := by
  unfold State.reevaluate
  dsimp only
  split
  · exact h
  · exact hP.board ((SameBoard.refl _).deviceNotices _)
      (hP.reselected (hP.board (SameBoard.of_tables (s := s) rfl rfl rfl) h))

theorem updateInput {s : State} (r : RefInput) (x : InputRec) (h : P s) : P (s.updateInput r x) := by
  unfold State.updateInput
  split
  · exact hP.board ((SameBoard.refl s).setInput r x) h
  · exact hP.reevaluate (hP.board (((SameBoard.refl s).setInput r x).raiseRefInput r) h)

theorem checkHoldovers {s : State} (h : P s) : P s.checkHoldovers := by
  refine forEach_keeps (P := P) _ (fun e t ht => ?_) allEngines h
  split
  · rename_i hl
    exact hP.faulted e _ ht (.inr (EngineRec.atHoldoverLimit_iff.1 hl).1)
  · exact ht

theorem configure {s : State} (ws : List ParamWrite) (h : P s) : P (s.configure ws) := by
  have ht : P { s with params := ws.foldl Params.write s.params } :=
    hP.board (SameBoard.of_tables (s := s) rfl rfl rfl) h
  unfold State.configure
  generalize ({ s with params := ws.foldl Params.write s.params } : State) = t at ht ⊢
  have hu : P (if t.params.nominal = s.params.nominal then t else t.nominalChanged) := by
    split
    · exact ht
    · exact hP.reevaluate (hP.board (((SameBoard.refl t).retrialInput _).retrialInput _) ht)
  dsimp only
  generalize (if t.params.nominal = s.params.nominal then t else t.nominalChanged) = u at hu ⊢
  have hv : P (if t.params.mode = s.params.mode && t.params.priority = s.params.priority then u
      else u.reevaluate) := by
    split
    · exact hu
    · exact hP.reevaluate hu
  split
  · exact hP.checkHoldovers hv
  · exact hv

/-! ### Time -/

theorem tick {s : State} (h : P s) : P s.tick := by
  unfold State.tick
  split
  · have ht := forEach_keeps (P := P) (fun e u => u.setEngine e ((u.engine e).tick s.params.holdoverLimit))
      (fun e t ht => hP.ticked e _ ht) allEngines h
    generalize forEach allEngines
      (fun e u => u.setEngine e ((u.engine e).tick s.params.holdoverLimit)) s = t at ht ⊢
    exact hP.board (SameBoard.of_tables (s := t) rfl rfl rfl) ht
  · exact h

/-! ### Every event -/

/-- An event whose work keeps the property. -/
theorem event {f : State → State} (hf : ∀ t, P t → P (f t)) {s : State} (h : P s) : P (Machine.event f s) :=
  hP.board ((SameBoard.refl _).touched []) (hf _ (hP.board ((SameBoard.refl s).touched []) h))

/-- An event that leaves the board. -/
theorem quietEvent {f : State → State} (hf : ∀ t, SameBoard t (f t)) {s : State} (h : P s) :
    P (Machine.event f s) :=
  hP.event (fun t ht => hP.board (hf t) ht) h

/-- The event of a taking that leaves the board. -/
theorem quietTaking {mine : HeldCommand → Bool} {run : Port → HeldCommand → State → Except Denial Reply}
    (hr : ∀ p c s r, run p c s = .ok r → SameBoard s r.state) {s : State} (h : P s) :
    P (Machine.event (State.take mine run) s) :=
  hP.taking (fun p c s r hrun hs => hP.board (hr p c s r hrun) hs) h

theorem lockAchieved (e : EngineId) {s : State} (h : P s) : P (s.lockAchieved e) := by
  unfold State.lockAchieved
  split
  · rename_i hm
    refine hP.locked e h ?_
    unfold EngineRec.mayLock at hm
    split at hm <;> simp_all
  · exact h

theorem lockLost (e : EngineId) {s : State} (h : P s) : P (s.lockLost e) := by
  unfold State.lockLost
  split
  · rename_i hs
    exact hP.slipped e _ h hs
  · rename_i hs
    exact hP.cleared e h (.inl hs)
  all_goals exact h

theorem acquisitionExpiry (e : EngineId) {s : State} (h : P s) : P (s.acquisitionExpiry e) := by
  unfold State.acquisitionExpiry
  split
  · rename_i r hr
    refine hP.faulted e r h ?_
    unfold EngineRec.expiryFault at hr
    split at hr <;> simp_all
  · exact h

theorem holdoverLimitReached (e : EngineId) {s : State} (h : P s) : P (s.holdoverLimitReached e) := by
  unfold State.holdoverLimitReached
  split
  · rename_i hl
    exact hP.faulted e _ h (.inr (EngineRec.atHoldoverLimit_iff.1 hl).1)
  · exact h

theorem lingerExpiry (e : EngineId) {s : State} (h : P s) : P (s.lingerExpiry e) := by
  unfold State.lingerExpiry
  split
  · rename_i hs
    exact hP.cleared e h (.inl hs)
  · exact h

theorem changeoverDone (o : OutputId) {s : State} (h : P s) : P (s.changeoverDone o) := by
  unfold State.changeoverDone
  split
  · rename_i hc
    exact hP.completed o h hc
  · exact h

theorem activityStart (r : RefInput) {s : State} (h : P s) : P (s.activityStart r) := by
  unfold State.activityStart
  split
  · exact hP.updateInput _ _ h
  · exact h

theorem activityLoss (r : RefInput) {s : State} (h : P s) : P (s.activityLoss r) := by
  unfold State.activityLoss
  split
  · exact hP.updateInput _ _ h
  · exact h

theorem measurement (r : RefInput) (n : Nat) {s : State} (h : P s) : P (s.measurement r n) := by
  unfold State.measurement
  split
  · exact hP.updateInput _ _ h
  · exact h

theorem qualificationExpiry (r : RefInput) {s : State} (h : P s) : P (s.qualificationExpiry r) := by
  unfold State.qualificationExpiry
  split
  · exact hP.updateInput _ _ h
  · exact h

theorem pinReset {s : State} (h : P s) : P s.pinReset := by
  unfold State.pinReset
  split
  · exact h
  · exact hP.board (SameBoard.of_tables (s := s.coldReset) rfl rfl rfl) (hP.blank s.coldReset_blank)

theorem softReset {p : Port} {c : HeldCommand} {s : State} {r : Reply} (hr : runSoftReset p c s = .ok r) :
    P r.state := by
  rcases runSoftReset_ok hr with h | h <;> rw [h]
  · exact hP.blank (s.deviceReset_blank p)
  · exact hP.blank s.leaseReset_blank

end StepClosed

end Sys2Proof.Machine

namespace Sys2Proof.Machine
namespace StepClosed

variable {P : State → Prop} (hP : StepClosed P)

include hP

/-- Every command answers a state that has the property. -/
theorem exec (i : Instr) {s : State} (h : P s) : ∃ t, Machine.exec i s = .next t ∧ P t := by
  cases i with
  | powerOnReset v =>
    exact ⟨_, rfl, hP.event (fun t _ => hP.board
      (SameBoard.of_tables (s := t.coldReset) (t := t.coldReset.sampleSupsel v) rfl rfl rfl)
      (hP.blank t.coldReset_blank)) h⟩
  | pinResetAssert => exact ⟨_, rfl, hP.event (fun _ ht => hP.pinReset ht) h⟩
  | pinResetRelease v => exact ⟨_, rfl, hP.quietEvent (SameBoard.pinRelease v) h⟩
  | oscillatorStable => exact ⟨_, rfl, hP.quietEvent SameBoard.oscillatorStable h⟩
  | nop p rest => exact ⟨_, rfl, hP.quietEvent (fun t => (SameBoard.refl t).endFrame p _) h⟩
  | commandFrame p rest => exact ⟨_, rfl, hP.quietEvent (fun t => (SameBoard.refl t).endFrame p _) h⟩
  | fetch p rest => exact ⟨_, rfl, hP.quietEvent (fun t => (SameBoard.refl t).endFrame p _) h⟩
  | resync p rest => exact ⟨_, rfl, hP.quietEvent (fun t => (SameBoard.refl t).endFrame p _) h⟩
  | unknownFrameKind p bytes => exact ⟨_, rfl, hP.quietEvent (fun t => (SameBoard.refl t).endFrame p _) h⟩
  | chipSelectFall p => exact ⟨_, rfl, hP.quietEvent (fun t => (SameBoard.refl t).chipSelectFall p) h⟩
  | openLease =>
    refine ⟨_, rfl, hP.taking (fun p c s r hr hs => ?_) h⟩
    obtain ⟨a, cs, i, e, hc, hk⟩ := runOpen_ok hr
    exact hk ▸ hP.opened p _ a cs i e hs hc
  | start =>
    refine ⟨_, rfl, hP.taking (fun p c s r hr hs => ?_) h⟩
    obtain ⟨is, hc, hk⟩ := runStart_ok hr
    exact hk ▸ hP.started p is hs hc
  | retune =>
    refine ⟨_, rfl, hP.taking (fun p c s r hr hs => ?_) h⟩
    obtain ⟨told, i, l, q, hf, hst, hk⟩ := runRetune_ok hr
    exact hP.retuneCase hs hf hst hk
  | release =>
    refine ⟨_, rfl, hP.taking (fun p c s r hr hs => ?_) h⟩
    obtain ⟨told, i, l, hl, hst, hk⟩ := runRelease_ok hr
    exact hk ▸ hP.ended told _ i l hs hl hst
  | revoke =>
    refine ⟨_, rfl, hP.taking (fun p c s r hr hs => ?_) h⟩
    obtain ⟨i, l, hl, hst, hk⟩ := runRevoke_ok hr
    exact hk ▸ hP.ended false _ i l hs hl hst
  | retry =>
    refine ⟨_, rfl, hP.taking (fun p c s r hr hs => ?_) h⟩
    obtain ⟨told, i, l, q, cls, pin, es, e, hc, hk⟩ := runRetry_ok hr
    exact hk ▸ hP.retried told i l q cls pin es e hs hc
  | queryLease => exact ⟨_, rfl, hP.quietTaking (fun _ _ _ _ => runQueryLease_board) h⟩
  | lookupTag => exact ⟨_, rfl, hP.quietTaking (fun _ _ _ _ => runLookupTag_board) h⟩
  | listClient => exact ⟨_, rfl, hP.quietTaking (fun _ _ _ _ => runListClient_board) h⟩
  | findOutput => exact ⟨_, rfl, hP.quietTaking (fun _ _ _ _ => runFindOutput_board) h⟩
  | queryEngine => exact ⟨_, rfl, hP.quietTaking (fun _ _ _ _ => runQueryEngine_board) h⟩
  | queryReference => exact ⟨_, rfl, hP.quietTaking (fun _ _ _ _ => runQueryReference_board) h⟩
  | notices => exact ⟨_, rfl, hP.quietTaking (fun _ _ _ _ => runNotices_board) h⟩
  | setIrq => exact ⟨_, rfl, hP.quietTaking (fun _ _ _ _ => runSetIrq_board) h⟩
  | readConfig => exact ⟨_, rfl, hP.quietTaking (fun _ _ _ _ => runReadConfig_board) h⟩
  | configure =>
    refine ⟨_, rfl, hP.taking (fun p c s r hr hs => ?_) h⟩
    obtain ⟨ws, hk⟩ := runConfigure_ok hr
    exact hk ▸ hP.configure ws hs
  | setClients => exact ⟨_, rfl, hP.quietTaking (fun _ _ _ _ => runSetClients_board) h⟩
  | handover => exact ⟨_, rfl, hP.quietTaking (fun _ _ _ _ => runHandover_board) h⟩
  | softResetLeases => exact ⟨_, rfl, hP.taking (fun _ _ _ _ hr _ => hP.softReset hr) h⟩
  | softResetDevice => exact ⟨_, rfl, hP.taking (fun _ _ _ _ hr _ => hP.softReset hr) h⟩
  | engineClear =>
    refine ⟨_, rfl, hP.taking (fun p c s r hr hs => ?_) h⟩
    obtain ⟨e, hst, hk⟩ := runEngineClear_ok hr
    exact hk ▸ hP.cleared e hs (.inr hst)
  | unknownCommandCode => exact ⟨_, rfl, hP.taking (fun _ _ _ _ hr _ => by cases hr) h⟩
  | lockAchieved e => exact ⟨_, rfl, hP.event (fun _ ht => hP.lockAchieved e ht) h⟩
  | lockLost e => exact ⟨_, rfl, hP.event (fun _ ht => hP.lockLost e ht) h⟩
  | acquisitionTimerExpiry e => exact ⟨_, rfl, hP.event (fun _ ht => hP.acquisitionExpiry e ht) h⟩
  | holdoverTimerLimit e => exact ⟨_, rfl, hP.event (fun _ ht => hP.holdoverLimitReached e ht) h⟩
  | lingerTimerExpiry e => exact ⟨_, rfl, hP.event (fun _ ht => hP.lingerExpiry e ht) h⟩
  | changeoverDone o => exact ⟨_, rfl, hP.event (fun _ ht => hP.changeoverDone o ht) h⟩
  | activityStart r => exact ⟨_, rfl, hP.event (fun _ ht => hP.activityStart r ht) h⟩
  | activityLoss r => exact ⟨_, rfl, hP.event (fun _ ht => hP.activityLoss r ht) h⟩
  | measurement r n => exact ⟨_, rfl, hP.event (fun _ ht => hP.measurement r n ht) h⟩
  | qualificationTimerExpiry r => exact ⟨_, rfl, hP.event (fun _ ht => hP.qualificationExpiry r ht) h⟩

/-- Every step keeps the property. -/
theorem step {s t : State} (h : P s) (hst : Machine.step s = .next t) : P t := by
  unfold Machine.step at hst
  split at hst
  · cases hst
    exact hP.tick h
  · rename_i c rest _
    obtain ⟨u, hu, hk⟩ := hP.exec c (hP.board (SameBoard.of_tables (s := s)
      (t := { s with pending := rest }) rfl rfl rfl) h)
    rw [hu] at hst
    cases hst
    exact hk

end StepClosed

end Sys2Proof.Machine

/-! ## The books: user counts and the leases that count

What the engine operations make of a user count, what the sum over the leases makes of a change in one slot,
and the books while the fault of an engine is being applied. -/

namespace Sys2Proof.Machine

/-! ### The count of one engine -/

/-- `EngineRec.CountOk` but for the users that a FAULTED engine may still have where `q` holds: the engine whose
fault is being applied to its leases one by one (R66, R117). -/
structure EngineRec.CountBut (q : Prop) (x : EngineRec) : Prop where
  idle : x.users = 0 → x.state = .off ∨ x.state = .lingering ∨ x.state = .faulted
  unused : x.state = .off ∨ x.state = .lingering → x.users = 0
  faulted : x.state = .faulted → q ∨ x.users = 0
  exclusive : x.exclusive = true → x.users = 1
  reserved : x.reserved = true → x.users = 1

theorem EngineRec.countBut_false_iff (x : EngineRec) : x.CountBut False ↔ x.CountOk := by
  constructor
  · intro h
    refine ⟨⟨h.idle, ?_⟩, h.exclusive, h.reserved⟩
    rintro (hs | hs | hs)
    · exact h.unused (.inl hs)
    · exact h.unused (.inr hs)
    · exact (h.faulted hs).resolve_left id
  · intro h
    exact ⟨h.idle.1, fun hs => h.idle.2 (by tauto), fun hs => .inr (h.idle.2 (by tauto)), h.exclusive,
      h.reserved⟩

/-- What an allocation answers with (R59, R60): an engine that is OFF, LINGERING, or in use and shared, and is not
reserved. -/
structure EngineRec.Answers (r : AllocRequest) (x : EngineRec) : Prop where
  state : x.state ≠ .faulted
  reserved : x.reserved = false
  shared : x.state ≠ .off → x.state ≠ .lingering → x.exclusive = false ∧ r.exclusive = false

theorem EngineRec.Answers.of_sharable {r : AllocRequest} {x : EngineRec} (h : x.sharable r = true)
    (hs : x.state ≠ .faulted) : x.Answers r := by
  simp only [EngineRec.sharable, Bool.and_eq_true, Bool.not_eq_true'] at h
  exact ⟨hs, h.1.2, fun _ _ => ⟨h.1.1.2, h.2⟩⟩

theorem EngineRec.Answers.of_inSharePass {r : AllocRequest} {x : EngineRec} (h : x.inSharePass r = true) :
    x.Answers r := by
  unfold EngineRec.inSharePass at h
  split at h
  case h_1 hs =>
    simp only [Bool.and_eq_true, Bool.not_eq_true'] at h
    exact ⟨by simp [hs], h.2, fun _ hl => absurd hs hl⟩
  case h_2 hs => exact .of_sharable (Bool.and_eq_true_iff.1 h).1 (by simp [hs])
  case h_3 hs => exact .of_sharable (Bool.and_eq_true_iff.1 h).1 (by simp [hs])
  case h_4 hs => exact .of_sharable (Bool.and_eq_true_iff.1 h).1 (by simp [hs])
  all_goals cases h

theorem candidates_not_excluded {r : AllocRequest} {e : EngineId} (h : e ∈ candidates r) :
    r.excluded ≠ some e := by
  simp only [candidates, List.mem_filter, Bool.and_eq_true, decide_eq_true_eq] at h
  exact h.2.2

theorem State.search_answers {s : State} {r : AllocRequest} {e : EngineId} (h : s.search r = some e) :
    (s.engine e).Answers r ∧ r.excluded ≠ some e := by
  unfold State.search at h
  dsimp only at h
  split at h
  · rename_i f hf
    cases h
    have hp := List.find?_some hf
    exact ⟨.of_inSharePass hp, candidates_not_excluded (List.mem_of_find?_eq_some hf)⟩
  · split at h
    · rename_i f hf
      cases h
      have hp := List.find?_some hf
      simp only [EngineRec.inFreePass, Bool.and_eq_true, decide_eq_true_eq, Bool.not_eq_true'] at hp
      exact ⟨⟨by simp [hp.1], hp.2, fun ho => absurd hp.1 ho⟩,
        candidates_not_excluded (List.mem_of_find?_eq_some hf)⟩
    · have hp := List.find?_some h
      simp only [EngineRec.inReclaimPass, Bool.and_eq_true, decide_eq_true_eq, Bool.not_eq_true'] at hp
      exact ⟨⟨by simp [hp.1], hp.2, fun _ hl => absurd hp.1 hl⟩,
        candidates_not_excluded (List.mem_of_find?_eq_some h)⟩

theorem State.askPinned_answers {s : State} {r : AllocRequest} {f e : EngineId} (h : s.askPinned r f = .ok e) :
    (s.engine e).Answers r ∧ r.excluded ≠ some e := by
  unfold State.askPinned at h
  dsimp only at h
  split at h
  · cases h
  split at h
  · cases h
  rename_i hb
  simp only [Bool.or_eq_true, decide_eq_true_eq, not_or, Bool.not_eq_true] at hb
  obtain ⟨⟨hs, hr⟩, hx⟩ := hb
  split at h
  · rename_i ho
    cases h
    simp only [Bool.or_eq_true, decide_eq_true_eq] at ho
    exact ⟨⟨hs, hr, fun h1 h2 => (ho.elim h1 h2).elim⟩, hx⟩
  split at h
  · rename_i hsh
    cases h
    exact ⟨.of_sharable hsh hs, hx⟩
  · cases h

/-- The engine that answers a request may take it, and is not the excluded one (R58 to R60). -/
theorem State.ask_answers {s : State} {r : AllocRequest} {e : EngineId} (h : s.ask r = .ok e) :
    (s.engine e).Answers r ∧ r.excluded ≠ some e := by
  unfold State.ask at h
  split at h
  · exact State.askPinned_answers h
  · split at h
    · rename_i f hf
      cases h
      exact State.search_answers hf
    · cases h

namespace EngineRec.CountBut

variable {q : Prop} {x y : EngineRec}

theorem congr (h : x.CountBut q) (hu : y.users = x.users) (hs : y.state = x.state)
    (he : y.exclusive = x.exclusive) (hr : y.reserved = x.reserved) : y.CountBut q :=
  ⟨by rw [hu, hs]; exact h.idle, by rw [hu, hs]; exact h.unused, by rw [hu, hs]; exact h.faulted,
    by rw [hu, he]; exact h.exclusive, by rw [hu, hr]; exact h.reserved⟩

/-- An engine in use has a user. -/
theorem users_pos (h : x.CountBut q) (hs : x.state = .acquiring ∨ x.state = .locked ∨ x.state = .holdover) :
    0 < x.users := by
  refine Nat.pos_of_ne_zero fun hu => ?_
  have := h.idle hu
  rcases hs with hs | hs | hs <;> simp [hs] at this

theorem initial : EngineRec.initial.CountBut q :=
  ⟨fun _ => .inl rfl, fun _ => rfl, fun _ => .inr rfl, by simp [EngineRec.initial], by simp [EngineRec.initial]⟩

theorem turnOff (hu : x.users = 0) : x.turnOff.CountBut q :=
  ⟨fun _ => .inl rfl, fun _ => hu, fun _ => .inr hu, by simp [EngineRec.turnOff], by simp [EngineRec.turnOff]⟩

/-- Between the states in use an engine keeps its users and its marks, or loses marks. -/
theorem inUse (h : x.CountBut q) (hx : 0 < x.users) (hu : y.users = x.users)
    (hs : y.state = .acquiring ∨ y.state = .locked ∨ y.state = .holdover)
    (he : y.exclusive = true → x.exclusive = true) (hr : y.reserved = true → x.reserved = true) :
    y.CountBut q :=
  ⟨fun hz => by omega, fun hy => by rcases hs with hs | hs | hs <;> simp [hs] at hy,
    fun hy => by rcases hs with hs | hs | hs <;> simp [hs] at hy,
    fun hy => hu.trans (h.exclusive (he hy)), fun hy => hu.trans (h.reserved (hr hy))⟩

theorem program (b : Bool) (n : Nat) (p : Plan) (h : x.CountBut q) (hx : 0 < x.users) :
    (x.program b n p).CountBut q :=
  h.inUse hx rfl (.inl rfl) id (by simp [EngineRec.program])

theorem lock (h : x.CountBut q) (hx : 0 < x.users) : x.lock.CountBut q :=
  h.inUse hx rfl (.inr (.inl rfl)) id id

theorem slip (n : Nat) (h : x.CountBut q) (hx : 0 < x.users) : (x.slip n).CountBut q :=
  h.inUse hx rfl (.inl rfl) id id

theorem fail (r : FaultReason) (hq : q) (h : x.CountBut q) : (x.fail r).CountBut q :=
  ⟨fun _ => .inr (.inr rfl), by simp [EngineRec.fail], fun _ => .inl hq, h.exclusive,
    by simp [EngineRec.fail]⟩

theorem reselect (b : Bool) (n : Nat) (h : x.CountBut q) : (x.reselect b n).CountBut q := by
  unfold EngineRec.reselect
  split
  case h_1 hs => exact h.inUse (h.users_pos (.inr (.inl hs))) rfl (.inr (.inr rfl)) id id
  case h_4 hs => exact .turnOff (h.unused (.inr hs))
  all_goals exact h.congr rfl rfl rfl rfl

/-- The zero-user event leaves an engine without users and marks at rest (R57). -/
theorem zeroUsers (n : Nat) (hu : x.users = 0) : (x.zeroUsers n).CountBut q := by
  unfold EngineRec.zeroUsers
  split
  case h_1 hs =>
    split
    · exact .turnOff hu
    · exact ⟨fun _ => .inr (.inl rfl), fun _ => hu, fun _ => .inr hu, by simp, by simp⟩
  case h_2 hs => exact .turnOff hu
  case h_3 hs => exact .turnOff hu
  all_goals
    rename_i hs
    exact ⟨fun _ => by simp [hs], fun _ => hu, fun _ => .inr hu, by simp, by simp⟩

theorem dropUser (n : Nat) (h : x.CountBut q) : (x.dropUser n).CountBut q := by
  unfold EngineRec.dropUser
  split
  · exact .zeroUsers n rfl
  · rename_i hu
    refine ⟨fun hz => ?_, fun hs => ?_, fun hs => ?_, fun hx => ?_, fun hx => ?_⟩
    · dsimp only at hz; omega
    · have := h.unused hs; omega
    · exact .inl ((h.faulted hs).resolve_right (by omega))
    · have := h.exclusive hx; omega
    · have := h.reserved hx; omega

/-- The engine that answers a request takes one user more (R61). -/
theorem commit {r : AllocRequest} (b : Bool) (n : Nat) (h : x.CountBut q) (ha : x.Answers r) :
    (x.commit r b n).CountBut q := by
  have idle (hu : x.users = 0) : ∀ y : EngineRec, y.users = x.users + 1 → y.state = .acquiring ∨ y.state = .locked →
      (y.reserved = true → x.reserved = true) → y.CountBut q := fun y hy hs hr =>
    ⟨fun hz => by omega, fun k => by rcases hs with hs | hs <;> simp [hs] at k,
      fun k => by rcases hs with hs | hs <;> simp [hs] at k, fun _ => by omega,
      fun k => by simp [ha.reserved] at hr; simp [hr] at k⟩
  have used (hs : x.state ≠ .off) (hl : x.state ≠ .lingering) :
      ({ x with users := x.users + 1, exclusive := x.exclusive || r.exclusive } : EngineRec).CountBut q := by
    obtain ⟨h1, h2⟩ := ha.shared hs hl
    exact ⟨fun hz => by simp at hz, fun k => (k.elim hs hl).elim, fun k => absurd k ha.state,
      by simp [h1, h2], by simp [ha.reserved]⟩
  unfold EngineRec.commit
  dsimp only
  split
  case h_1 hs => exact idle (h.unused (.inl hs)) _ rfl (.inl rfl) (by simp [EngineRec.program])
  case h_2 hs =>
    split
    · exact idle (h.unused (.inr hs)) _ rfl (.inr rfl) id
    · exact idle (h.unused (.inr hs)) _ rfl (.inl rfl) (by simp [EngineRec.program])
  all_goals
    rename_i hs
    exact used (by simp [hs]) (by simp [hs])

end EngineRec.CountBut

/-! ### The leases that count on an engine -/

/-- How often the lease of slot `i`, if any, counts on engine `e` (R55). -/
def State.countAt (s : State) (i : SlotId) (e : EngineId) : Nat :=
  match s.lease? i with
  | some l => l.countOn e
  | none => 0

theorem State.countAt_of_lease {s : State} {i : SlotId} {l : Lease} (h : s.lease? i = some l) (e : EngineId) :
    s.countAt i e = l.countOn e := by simp [State.countAt, h]

theorem State.countAt_of_none {s : State} {i : SlotId} (h : s.lease? i = none) (e : EngineId) :
    s.countAt i e = 0 := by simp [State.countAt, h]

theorem State.countAt_congr {s t : State} {i : SlotId} (h : t.lease? i = s.lease? i) (e : EngineId) :
    t.countAt i e = s.countAt i e := by simp [State.countAt, h]

theorem State.usersOf_eq_sum (s : State) (e : EngineId) : s.usersOf e = ∑ i, s.countAt i e :=
  (Fin.sum_univ_def fun i => s.countAt i e).symm

/-- A change of one slot changes the sum by what the slot counts. -/
theorem State.usersOf_change {s t : State} {i : SlotId} (h : ∀ j, j ≠ i → t.lease? j = s.lease? j)
    (e : EngineId) : t.usersOf e + s.countAt i e = s.usersOf e + t.countAt i e := by
  rw [t.usersOf_eq_sum, s.usersOf_eq_sum, ← Finset.add_sum_erase _ _ (Finset.mem_univ i),
    ← Finset.add_sum_erase (a := i) _ (fun j => s.countAt j e) (Finset.mem_univ i)]
  have : ∑ j ∈ Finset.univ.erase i, t.countAt j e = ∑ j ∈ Finset.univ.erase i, s.countAt j e :=
    Finset.sum_congr rfl fun j hj => State.countAt_congr (h j (Finset.ne_of_mem_erase hj)) e
  omega

theorem State.countAt_le_usersOf (s : State) (i : SlotId) (e : EngineId) : s.countAt i e ≤ s.usersOf e := by
  rw [s.usersOf_eq_sum]
  exact Finset.single_le_sum (f := fun j => s.countAt j e) (fun _ _ => Nat.zero_le _) (Finset.mem_univ i)

/-- Two slots count together. -/
theorem State.countAt_add_le_usersOf (s : State) {i j : SlotId} (h : j ≠ i) (e : EngineId) :
    s.countAt i e + s.countAt j e ≤ s.usersOf e := by
  rw [s.usersOf_eq_sum, ← Finset.add_sum_erase _ _ (Finset.mem_univ i)]
  exact Nat.add_le_add_left (Finset.single_le_sum (f := fun k => s.countAt k e) (fun _ _ => Nat.zero_le _)
    (Finset.mem_erase.2 ⟨h, Finset.mem_univ j⟩)) _

theorem Lease.countOn_pos_of_engine {l : Lease} {e : EngineId} (h : l.engine = some e) : 0 < l.countOn e := by
  simp [Lease.countOn, Lease.runsFrom, h]

theorem Lease.migratesTo_iff (l : Lease) (e : EngineId) : l.migratesTo e = true ↔ l.migrationTarget = some e := by
  unfold Lease.migratesTo Lease.migrationTarget
  split <;> simp_all

/-- The count of a lease, one for each of the three engines that it may name (R55). -/
theorem Lease.countOn_eq (l : Lease) (e : EngineId) : l.countOn e =
    (if l.engine = some e then 1 else 0) + (if l.migrationTarget = some e then 1 else 0) +
      (if l.closingTarget = some e then 1 else 0) := by
  simp only [Lease.countOn, Lease.runsFrom, decide_eq_true_eq, l.migratesTo_iff]

/-- Where a lease counts on an engine. -/
theorem Lease.countOn_pos_iff (l : Lease) (e : EngineId) : 0 < l.countOn e ↔
    l.engine = some e ∨ l.migrationTarget = some e ∨ l.closingTarget = some e := by
  rw [l.countOn_eq]
  by_cases h1 : l.engine = some e <;> by_cases h2 : l.migrationTarget = some e <;>
    by_cases h3 : l.closingTarget = some e <;> simp [h1, h2, h3]

end Sys2Proof.Machine

/-! ## The books: well-formed leases and the primitive writes -/

namespace Sys2Proof.Machine

/-! ### Well-formed leases -/

/-- The states of a lease that has an engine and neither migrates nor closes (R15). -/
structure LeaseState.Plain (st : LeaseState) : Prop where
  migrating : st ≠ .migrating
  closing : st ≠ .closing
  failed : st ≠ .failed

namespace LeaseState.Plain

theorem pending : Plain .pending := ⟨by decide, by decide, by decide⟩
theorem ready : Plain .ready := ⟨by decide, by decide, by decide⟩
theorem starting : Plain .starting := ⟨by decide, by decide, by decide⟩
theorem active : Plain .active := ⟨by decide, by decide, by decide⟩
theorem disturbed : Plain .disturbed := ⟨by decide, by decide, by decide⟩

theorem of_pending_or_ready {st : LeaseState} (h : st = .pending ∨ st = .ready) : st.Plain := by
  rcases h with rfl | rfl
  · exact pending
  · exact ready

theorem of_active_or_disturbed {st : LeaseState} (h : st = .active ∨ st = .disturbed) : st.Plain := by
  rcases h with rfl | rfl
  · exact active
  · exact disturbed

end LeaseState.Plain

/-- `l` claims what `k` claims: the same engines, outputs and migration, under the same flags. -/
structure Lease.SameClaims (k l : Lease) : Prop where
  engine : l.engine = k.engine
  migration : l.migration = k.migration
  closingTarget : l.closingTarget = k.closingTarget
  entries : l.entries = k.entries
  plan : l.plan = k.plan
  flags : l.flags = k.flags

theorem Lease.SameClaims.refl (l : Lease) : l.SameClaims l := ⟨rfl, rfl, rfl, rfl, rfl, rfl⟩

theorem Lease.SameClaims.migrationTarget {k l : Lease} (h : k.SameClaims l) :
    l.migrationTarget = k.migrationTarget := by
  unfold Lease.migrationTarget
  rw [h.migration]

theorem Lease.SameClaims.countOn {k l : Lease} (h : k.SameClaims l) (e : EngineId) :
    l.countOn e = k.countOn e := by
  rw [l.countOn_eq, k.countOn_eq, h.engine, h.closingTarget, h.migrationTarget]

theorem Lease.migrationTarget_of_none {l : Lease} (h : l.migration = none) : l.migrationTarget = none := by
  simp [Lease.migrationTarget, h]

theorem Lease.migrationTarget_of_some {l : Lease} {m : Migration} (h : l.migration = some m) :
    l.migrationTarget = m.target := by simp [Lease.migrationTarget, h]

theorem EntriesOk.nodup {es : List Entry} (h : EntriesOk es) : (outputsOf es).Nodup :=
  nodup_of_ascending h.order

namespace Lease.Wf

variable {l k : Lease}

theorem no_migration (h : l.Wf) (hs : l.state ≠ .migrating) : l.migration = none := by
  cases hm : l.migration with
  | none => rfl
  | some m => exact absurd (h.migrating.1 (by rw [hm]; rfl)) hs

theorem no_closingTarget (h : l.Wf) (hs : l.state ≠ .closing) : l.closingTarget = none := by
  cases hc : l.closingTarget with
  | none => rfl
  | some e => exact absurd (h.closing (by rw [hc]; rfl)).1 hs

theorem unarmed (h : l.Wf) (hs : l.state ≠ .pending) : l.armed = false := by
  cases ha : l.armed with
  | false => rfl
  | true => exact absurd (h.armed ha).1 hs

theorem has_record (h : l.Wf) (hs : l.state = .migrating) : ∃ m, l.migration = some m :=
  Option.isSome_iff_exists.1 (h.migrating.2 hs)

/-- A lease that is neither FAILED nor CLOSING and has no migration target has an engine (R12). -/
theorem has_engine (h : l.Wf) (hf : l.state ≠ .failed) (hc : l.state ≠ .closing)
    (ht : l.migrationTarget = none) : ∃ e, l.engine = some e := by
  cases he : l.engine with
  | some e => exact ⟨e, rfl⟩
  | none =>
    rcases h.engine he with hs | hs | hs
    · exact absurd hs hf
    · exact absurd hs hc
    · rw [ht] at hs; cases hs

theorem plain_engine (h : l.Wf) (hs : l.state.Plain) : ∃ e, l.engine = some e :=
  h.has_engine hs.failed hs.closing (migrationTarget_of_none (h.no_migration hs.migrating))

/-- The lease of a plain state that names an engine and nothing else. -/
theorem of_plain {e : EngineId} (hes : EntriesOk l.entries) (he : l.engine = some e)
    (hm : l.migration = none) (hc : l.closingTarget = none) (hs : l.state.Plain)
    (ha : l.armed = true → l.state = .pending ∧ l.flags.heldStart = true)
    (hr : l.state = .ready → l.flags.heldStart = true) : l.Wf where
  entries := hes
  migrating := by simp [hm, hs.migrating]
  record m h := by simp [hm] at h
  closing h := by simp [hc] at h
  failed h := absurd h hs.failed
  engine h := by simp [he] at h
  armed := ha
  ready := hr

/-- A lease moved from one plain state to another. -/
theorem restate (h : l.Wf) (hl : l.state.Plain) (hk : k.state.Plain) (same : l.SameClaims k)
    (ha : k.armed = true → k.state = .pending ∧ k.flags.heldStart = true)
    (hr : k.state = .ready → k.flags.heldStart = true) : k.Wf := by
  obtain ⟨e, he⟩ := h.plain_engine hl
  exact of_plain (same.entries ▸ h.entries) (same.engine.trans he)
    (same.migration.trans (h.no_migration hl.migrating))
    (same.closingTarget.trans (h.no_closingTarget hl.closing)) hk ha hr

/-- A lease that keeps its state and its claims. -/
theorem congr (h : l.Wf) (same : l.SameClaims k) (hs : k.state = l.state) (ha : k.armed = l.armed) : k.Wf where
  entries := same.entries ▸ h.entries
  migrating := by rw [same.migration, hs]; exact h.migrating
  record m hm := by
    obtain ⟨ht, hd, ho, he, hp⟩ := h.record m (same.migration ▸ hm)
    exact ⟨ht, by rw [same.engine]; exact hd, by rw [same.entries]; exact ho, he, by rw [same.plan]; exact hp⟩
  closing := by rw [same.closingTarget, same.engine, hs]; exact h.closing
  failed := by rw [same.engine, hs]; exact h.failed
  engine := by rw [same.engine, same.migrationTarget, hs]; exact h.engine
  armed := by rw [ha, hs, same.flags]; exact h.armed
  ready := by rw [hs, same.flags]; exact h.ready

/-- The count of a plain lease is that of its engine. -/
theorem plain_countOn (h : l.Wf) (hs : l.state.Plain) (e : EngineId) :
    l.countOn e = if l.engine = some e then 1 else 0 := by
  rw [l.countOn_eq, migrationTarget_of_none (h.no_migration hs.migrating), h.no_closingTarget hs.closing]
  simp

/-- A lease under migration counts on its engine and on the target. -/
theorem migrating_countOn (h : l.Wf) {m : Migration} (hs : l.state = .migrating) (hm : l.migration = some m)
    (e : EngineId) :
    l.countOn e = (if l.engine = some e then 1 else 0) + (if m.target = some e then 1 else 0) := by
  rw [l.countOn_eq, migrationTarget_of_some hm, h.no_closingTarget (by simp [hs])]
  simp

end Lease.Wf

/-! ### The books while a fault is being applied -/

/-- `State.Books` but for the users of engine `q`, if any, whose fault is being applied to its leases. -/
structure State.BooksBut (q : Option EngineId) (s : State) : Prop where
  leases : ∀ i l, s.lease? i = some l → l.Wf
  users : ∀ e, (s.engine e).users = s.usersOf e
  engines : ∀ e, (s.engine e).CountBut (q = some e)

theorem State.booksBut_none_iff (s : State) : s.BooksBut none ↔ s.Books := by
  constructor
  · intro h
    exact ⟨h.leases, h.users, fun e => (EngineRec.countBut_false_iff _).1 (by simpa using h.engines e)⟩
  · intro h
    exact ⟨h.leases, h.users, fun e => by simpa using (EngineRec.countBut_false_iff _).2 (h.engines e)⟩

section frames

variable (s : State) (o : Option EngineId) (r : AllocRequest) (e : EngineId) (i : SlotId)

@[simp] theorem State.dropUser_none : s.dropUser none = s := rfl
@[simp] theorem State.dropUser_slot : (s.dropUser o).slot i = s.slot i := by cases o <;> rfl
@[simp] theorem State.dropUser_lease : (s.dropUser o).lease? i = s.lease? i := by cases o <;> rfl
@[simp] theorem State.dropUser_output (b : OutputId) : (s.dropUser o).output b = s.output b := by cases o <;> rfl
@[simp] theorem State.commit_slot : (s.commit r e).slot i = s.slot i := rfl
@[simp] theorem State.commit_lease : (s.commit r e).lease? i = s.lease? i := rfl
@[simp] theorem State.commit_output (b : OutputId) : (s.commit r e).output b = s.output b := rfl

theorem State.dropUser_users (f : EngineId) :
    ((s.dropUser o).engine f).users = (s.engine f).users - if o = some f then 1 else 0 := by
  rw [s.dropUser_engine]
  split <;> simp

theorem State.commit_users (f : EngineId) :
    ((s.commit r e).engine f).users = (s.engine f).users + if f = e then 1 else 0 := by
  rw [s.commit_engine]
  split
  · rename_i h; simp [h]
  · rfl

theorem State.giveUp_lease (l : Lease) : (s.giveUp l).lease? i = s.lease? i := by simp [State.giveUp]

theorem State.giveUp_users (l : Lease) (f : EngineId) :
    ((s.giveUp l).engine f).users = (s.engine f).users - l.countOn f := by
  simp only [State.giveUp, State.dropUser_users, State.setHolders_engine, l.countOn_eq]
  omega

/-- The lease of one slot written twice is the one written last. -/
theorem State.setLease_setLease (k l : Lease) : (s.setLease i k).setLease i l = s.setLease i l := by
  simp [State.setLease, State.setSlot, State.slot]

theorem State.lease_setLease_ne {j : SlotId} (h : j ≠ i) (l : Lease) : (s.setLease i l).lease? j = s.lease? j := by
  rw [State.lease_setLease, if_neg h]

end frames

namespace State.BooksBut

variable {q : Option EngineId} {s t : State} {i : SlotId} {l k : Lease}

theorem congr (h : s.BooksBut q) (hl : ∀ i, t.lease? i = s.lease? i) (he : ∀ e, t.engine e = s.engine e) :
    t.BooksBut q where
  leases i l hi := h.leases i l (hl i ▸ hi)
  users e := by
    rw [he, h.users, s.usersOf_eq_sum, t.usersOf_eq_sum]
    exact Finset.sum_congr rfl fun i _ => (State.countAt_congr (hl i) e).symm
  engines e := he e ▸ h.engines e

theorem board (h : s.BooksBut q) (k : SameBoard s t) : t.BooksBut q := h.congr k.leases k.engines

theorem giveEach (want : OutState → Entry → Option Target) (es : List Entry) (h : s.BooksBut q) :
    (s.giveEach want es).BooksBut q :=
  h.congr (by simp) (by simp)

theorem tell (told : Bool) (i : SlotId) (h : s.BooksBut q) : (s.tell told i).BooksBut q :=
  h.board ((SameBoard.refl s).tell told i)

theorem countOn_le (h : s.BooksBut q) (hl : s.lease? i = some l) (e : EngineId) :
    l.countOn e ≤ (s.engine e).users := by
  rw [h.users, ← State.countAt_of_lease hl]
  exact s.countAt_le_usersOf i e

/-- An engine that two slots count on has two users. -/
theorem countAt_add_le (h : s.BooksBut q) {j : SlotId} (hj : j ≠ i) (e : EngineId) :
    s.countAt i e + s.countAt j e ≤ (s.engine e).users := by
  rw [h.users]
  exact s.countAt_add_le_usersOf hj e

/-- The lease of one slot changes, and the user counts with it. -/
theorem of_slot (h : s.BooksBut q) (others : ∀ j, j ≠ i → t.lease? j = s.lease? j)
    (wf : ∀ k, t.lease? i = some k → k.Wf)
    (users : ∀ f, (t.engine f).users + s.countAt i f = (s.engine f).users + t.countAt i f)
    (engines : ∀ f, (t.engine f).CountBut (q = some f)) : t.BooksBut q where
  leases j k hj := by
    by_cases hji : j = i
    · subst hji; exact wf k hj
    · exact h.leases j k (others j hji ▸ hj)
  users f := by
    have h1 := State.usersOf_change others f
    have h2 := users f
    have h3 := h.users f
    omega
  engines := engines

/-- The lease of one slot is rewritten; it counts as before. -/
theorem relabel (h : s.BooksBut q) (hl : s.lease? i = some l) (wf : k.Wf)
    (hc : ∀ f, k.countOn f = l.countOn f) : (s.setLease i k).BooksBut q :=
  h.of_slot (fun j hj => s.lease_setLease_ne i hj k) (fun k' hk => by simp at hk; exact hk ▸ wf)
    (fun f => by simp [State.countAt, hl, hc]) (by simpa using h.engines)

/-- A lease of a plain state is moved to another. -/
theorem restate (h : s.BooksBut q) (hl : s.lease? i = some l) (hs : l.state.Plain) (hk : k.state.Plain)
    (same : l.SameClaims k) (ha : k.armed = true → k.state = .pending ∧ k.flags.heldStart = true)
    (hr : k.state = .ready → k.flags.heldStart = true) : (s.setLease i k).BooksBut q :=
  h.relabel hl ((h.leases i l hl).restate hs hk same ha hr) same.countOn

theorem dropUser_engines (h : ∀ f, (s.engine f).CountBut (q = some f)) (o : Option EngineId) (f : EngineId) :
    ((s.dropUser o).engine f).CountBut (q = some f) := by
  rw [s.dropUser_engine]
  split
  · exact (h f).dropUser _
  · exact h f

/-- An engine loses a user, and the lease of one slot the count on it. -/
theorem drop (h : s.BooksBut q) (hl : s.lease? i = some l) (o : Option EngineId) (wf : k.Wf)
    (hc : ∀ f, k.countOn f + (if o = some f then 1 else 0) = l.countOn f) :
    ((s.dropUser o).setLease i k).BooksBut q := by
  refine h.of_slot (i := i) (fun j hj => ?_) (fun k' hk => ?_) (fun f => ?_) ?_
  · rw [State.lease_setLease_ne _ _ hj, State.dropUser_lease]
  · simp at hk
    exact hk ▸ wf
  · have := h.countOn_le hl f
    have := hc f
    simp only [State.engine_setLease, State.dropUser_users, State.countAt_of_lease hl,
      State.countAt_of_lease (State.lease_setLease_same _ _ _)]
    omega
  · simpa using dropUser_engines h.engines o

/-- An engine that answers a request takes a user, another engine may lose one, and the lease of one slot counts so. -/
theorem exchange (h : s.BooksBut q) {r : AllocRequest} {e : EngineId} (ha : (s.engine e).Answers r)
    (o : Option EngineId) (wf : k.Wf)
    (hc : ∀ f, k.countOn f + (if o = some f then 1 else 0) = s.countAt i f + (if f = e then 1 else 0)) :
    (((s.commit r e).dropUser o).setLease i k).BooksBut q := by
  refine h.of_slot (i := i) (fun j hj => ?_) (fun k' hk => ?_) (fun f => ?_) ?_
  · rw [State.lease_setLease_ne _ _ hj, State.dropUser_lease, State.commit_lease]
  · simp at hk
    exact hk ▸ wf
  · have h1 := h.users f
    have h2 := s.countAt_le_usersOf i f
    have h3 := hc f
    simp only [State.engine_setLease, State.dropUser_users, State.commit_users,
      State.countAt_of_lease (State.lease_setLease_same _ _ _)]
    omega
  · have hcommit : ∀ f, ((s.commit r e).engine f).CountBut (q = some f) := fun f => by
      rw [s.commit_engine]
      split
      · rename_i hf; subst hf; exact (h.engines f).commit _ _ ha
      · exact h.engines f
    simpa using dropUser_engines hcommit o

/-- A lease gives up what it holds, and its slot is live no longer. -/
theorem free (h : s.BooksBut q) (hl : s.lease? i = some l)
    (others : ∀ j, j ≠ i → t.lease? j = s.lease? j) (gone : t.lease? i = none)
    (he : ∀ f, t.engine f = (s.giveUp l).engine f) : t.BooksBut q := by
  refine h.of_slot others (fun k hk => by rw [gone] at hk; cases hk) (fun f => ?_) (fun f => ?_)
  · have := h.countOn_le hl f
    rw [he, s.giveUp_users, State.countAt_of_lease hl, State.countAt_of_none gone]
    omega
  · rw [he]
    refine dropUser_engines (fun f => ?_) _ f
    rw [State.setHolders_engine]
    exact dropUser_engines (dropUser_engines h.engines _) _ f

/-- One engine is written, its users kept. -/
theorem setEngine (h : s.BooksBut q) (e : EngineId) {x : EngineRec} (hu : x.users = (s.engine e).users)
    (hx : x.CountBut (q = some e)) : (s.setEngine e x).BooksBut q where
  leases i l hi := h.leases i l (by simpa using hi)
  users f := by
    have : (s.setEngine e x).usersOf f = s.usersOf f := rfl
    rw [this, ← h.users, State.engine_setEngine]
    split
    · rename_i hf; rw [hf, hu]
    · rfl
  engines f := by
    rw [State.engine_setEngine]
    split
    · rename_i hf; subst hf; exact hx
    · exact h.engines f

end State.BooksBut

end Sys2Proof.Machine

/-! ## The books: what befalls the lease of one slot -/

namespace Sys2Proof.Machine

/-! ### Loops over slots -/

/-- A loop over distinct slots. `G` holds throughout, `pre` of the slots still to come, `post` of the slots done with
and of those outside the list. -/
theorem forEach_slots {G : State → Prop} {pre post : SlotId → State → Prop} {f : SlotId → State → State}
    (round : ∀ i s, G s → pre i s → G (f i s) ∧ post i (f i s))
    (keepPre : ∀ i j s, j ≠ i → G s → pre i s → pre j s → pre j (f i s))
    (keepPost : ∀ i j s, j ≠ i → G s → pre i s → post j s → post j (f i s))
    {xs : List SlotId} (hn : xs.Nodup) {s : State} (hG : G s) (hpre : ∀ i ∈ xs, pre i s)
    (hpost : ∀ i ∉ xs, post i s) : G (forEach xs f s) ∧ ∀ i, post i (forEach xs f s) := by
  induction xs generalizing s with
  | nil => exact ⟨hG, fun i => hpost i (by simp)⟩
  | cons x xs ih =>
    obtain ⟨hx, hxs⟩ := List.nodup_cons.1 hn
    have hpx := hpre x (by simp)
    refine ih hxs (round x s hG hpx).1 (fun i hi => ?_) (fun i hi => ?_)
    · exact keepPre x i s (fun h => hx (h ▸ hi)) hG hpx (hpre i (by simp [hi]))
    · by_cases h : i = x
      · subst h; exact (round i s hG hpx).2
      · exact keepPost x i s h hG hpx (hpost i (by simp [h, hi]))

/-- The same loop over every slot. -/
theorem forEach_allSlots {G : State → Prop} {pre post : SlotId → State → Prop} {f : SlotId → State → State}
    (round : ∀ i s, G s → pre i s → G (f i s) ∧ post i (f i s))
    (keepPre : ∀ i j s, j ≠ i → G s → pre i s → pre j s → pre j (f i s))
    (keepPost : ∀ i j s, j ≠ i → G s → pre i s → post j s → post j (f i s))
    {s : State} (hG : G s) (hpre : ∀ i, pre i s) :
    G (forEach allSlots f s) ∧ ∀ i, post i (forEach allSlots f s) :=
  forEach_slots round keepPre keepPost allSlots_nodup hG (fun i _ => hpre i)
    fun i hi => absurd (mem_allSlots i) hi

/-! ### A slot that is freed -/

theorem State.retire_lease (s : State) (i : SlotId) (l : Lease) (j : SlotId) :
    (s.retire i l).lease? j = if j = i then none else s.lease? j := by
  have hb := ((SameBoard.refl s).raise i true).leases j
  unfold State.retire
  simp only [State.lease_setSlot, Standing.lease?, hb]

theorem State.retire_engine (s : State) (i : SlotId) (l : Lease) (e : EngineId) :
    (s.retire i l).engine e = s.engine e := by
  have hb := ((SameBoard.refl s).raise i true).engines e
  simp only [State.retire, State.engine_setSlot, hb]

theorem State.retire_output (s : State) (i : SlotId) (l : Lease) (o : OutputId) :
    (s.retire i l).output o = s.output o := by
  have hb := ((SameBoard.refl s).raise i true).outputs o
  simp only [State.retire, State.output_setSlot, hb]

theorem State.freeTold_lease (s : State) (i : SlotId) (l : Lease) (j : SlotId) :
    (s.freeTold i l).lease? j = if j = i then none else s.lease? j := by
  simp [State.freeTold, State.discardNotice, State.lease_setSlot, Standing.lease?]

theorem State.freeTold_engine (s : State) (i : SlotId) (l : Lease) (e : EngineId) :
    (s.freeTold i l).engine e = s.engine e := by
  simp [State.freeTold, State.discardNotice]

theorem State.freeTold_output (s : State) (i : SlotId) (l : Lease) (o : OutputId) :
    (s.freeTold i l).output o = s.output o := by
  simp [State.freeTold, State.discardNotice]

/-! ### Leases of one state made into another -/

theorem State.activeIfLocked_plain (s : State) (o : Option EngineId) : (s.activeIfLocked o).Plain := by
  unfold State.activeIfLocked
  split
  · split
    · exact .active
    · exact .disturbed
  · exact .disturbed

theorem State.activeIfLocked_ne (s : State) (o : Option EngineId) :
    s.activeIfLocked o ≠ .pending ∧ s.activeIfLocked o ≠ .ready := by
  unfold State.activeIfLocked
  split
  · split <;> exact ⟨by decide, by decide⟩
  · exact ⟨by decide, by decide⟩

namespace Lease.Wf

variable {l : Lease} {m : Migration}

theorem target_none (h : l.Wf) (hm : l.migration = some m) (hmode : m.mode ≠ .overlap) : m.target = none := by
  have := (h.record m hm).target
  cases ht : m.target with
  | none => rfl
  | some t => exact absurd (this.1 (by rw [ht]; rfl)) hmode

/-- A LOCAL or GAP migration has an engine under it (R12, R13). -/
theorem migrating_engine (h : l.Wf) (hs : l.state = .migrating) (hm : l.migration = some m)
    (hmode : m.mode ≠ .overlap) : ∃ e, l.engine = some e :=
  h.has_engine (by simp [hs]) (by simp [hs])
    ((migrationTarget_of_some hm).trans (h.target_none hm hmode))

theorem overlap_target (h : l.Wf) (hm : l.migration = some m) (hmode : m.mode = .overlap) :
    ∃ t, m.target = some t ∧ l.engine ≠ some t := by
  obtain ⟨t, ht⟩ := Option.isSome_iff_exists.1 ((h.record m hm).target.2 hmode)
  exact ⟨t, ht, fun he => (h.record m hm).distinct (by rw [ht]; rfl) (ht.trans he.symm)⟩

/-- The lease that ends a migration on an engine (R97, R101, R105). -/
theorem adopted (h : l.Wf) (hs : l.state = .migrating) (hm : l.migration = some m) {e : EngineId}
    {st : LeaseState} {armed : Bool} (hst : st.Plain) (hr : st ≠ .ready)
    (ha : armed = true → st = .pending ∧ l.flags.heldStart = true) :
    ({ l.adopt m with engine := some e, state := st, armed := armed } : Lease).Wf :=
  .of_plain (e := e) (h.record m hm).entries rfl rfl (h.no_closingTarget (by simp [hs])) hst ha
    fun h => absurd h hr

/-- The lease that RELEASE and REVOKE put into CLOSING (R113). -/
theorem closed (h : l.Wf) (r : Reason) :
    ({ l with
      state := .closing, reason := r, armed := false, migration := none,
      closingTarget := l.migrationTarget } : Lease).Wf := by
  have distinct : l.migrationTarget.isSome = true → l.migrationTarget ≠ l.engine := fun ht => by
    cases hm : l.migration with
    | none => rw [migrationTarget_of_none hm] at ht; cases ht
    | some m =>
      rw [migrationTarget_of_some hm] at ht ⊢
      exact (h.record m hm).distinct ht
  exact ⟨h.entries, by simp, fun m hm => (by cases hm), fun ht => ⟨rfl, distinct ht⟩, by simp,
    fun _ => .inr (.inl rfl), by simp, by simp⟩

/-- It counts as before: the migration target has become the closing target. -/
theorem closed_countOn (h : l.Wf) (hs : l.state ≠ .closing) (r : Reason) (e : EngineId) :
    ({ l with
      state := .closing, reason := r, armed := false, migration := none,
      closingTarget := l.migrationTarget } : Lease).countOn e = l.countOn e := by
  rw [countOn_eq, l.countOn_eq, h.no_closingTarget hs]
  simp [migrationTarget]

/-- The lease that an engine fault makes FAILED (R117). -/
theorem failed_of (hes : EntriesOk l.entries) (hc : l.closingTarget = none) (r : Reason) :
    ({ l with engine := none, armed := false, migration := none, state := .failed, reason := r } : Lease).Wf where
  entries := hes
  migrating := by simp
  record m hm := by cases hm
  closing h := by rw [hc] at h; cases h
  failed _ := rfl
  engine _ := .inl rfl
  armed h := by cases h
  ready h := by cases h

end Lease.Wf

namespace State.BooksBut

variable {q : Option EngineId} {s t : State} {i : SlotId} {l : Lease}

/-! ### Settling -/

/-- The end of a LOCAL migration (R97). -/
theorem finishLocal (h : s.BooksBut q) (hl : s.lease? i = some l) {m : Migration} (hs : l.state = .migrating)
    (hm : l.migration = some m) (hmode : m.mode = .loc) : (s.finishMigration i l m).BooksBut q := by
  have hw := h.leases i l hl
  obtain ⟨e, he⟩ := hw.migrating_engine hs hm (by simp [hmode])
  have hst := s.activeIfLocked_ne l.engine
  have wf := hw.adopted (m := m) (e := e) (armed := l.armed) hs hm (s.activeIfLocked_plain l.engine) hst.2
    (by simp [hw.unarmed (by simp [hs])])
  unfold State.finishMigration
  simp only [hmode]
  rw [show ({ l.adopt m with state := s.activeIfLocked l.engine } : Lease) =
    { l.adopt m with engine := some e, state := s.activeIfLocked l.engine, armed := l.armed } by
      simp [Lease.adopt, he]]
  refine h.relabel hl wf fun f => ?_
  rw [wf.plain_countOn (s.activeIfLocked_plain _), hw.migrating_countOn hs hm,
    hw.target_none hm (by simp [hmode]), he]
  simp

/-- The end of an OVERLAP migration: the old engine loses its user (R101). -/
theorem finishOverlap (h : s.BooksBut q) (hl : s.lease? i = some l) {m : Migration} (hs : l.state = .migrating)
    (hm : l.migration = some m) (hmode : m.mode = .overlap) : (s.finishMigration i l m).BooksBut q := by
  have hw := h.leases i l hl
  obtain ⟨t, ht, -⟩ := hw.overlap_target hm hmode
  have hst := (s.dropUser l.engine).activeIfLocked_ne m.target
  have hp := (s.dropUser l.engine).activeIfLocked_plain m.target
  have wf := hw.adopted (m := m) (e := t) (armed := l.armed) hs hm hp hst.2
    (by simp [hw.unarmed (by simp [hs])])
  unfold State.finishMigration
  simp only [hmode]
  rw [show ({ l.adopt m with engine := m.target, state := (s.dropUser l.engine).activeIfLocked m.target } : Lease) =
    { l.adopt m with
      engine := some t, state := (s.dropUser l.engine).activeIfLocked m.target, armed := l.armed } by
      simp [Lease.adopt, ht]]
  refine h.drop hl l.engine wf fun f => ?_
  rw [wf.plain_countOn hp, hw.migrating_countOn hs hm, ht]
  simp only [Option.some.injEq]
  omega

/-- The end of a GAP migration: the engine is programmed anew (R105). -/
theorem finishGap (h : s.BooksBut q) (hl : s.lease? i = some l) {m : Migration} (hs : l.state = .migrating)
    (hm : l.migration = some m) (hmode : m.mode = .gap) : (s.finishMigration i l m).BooksBut q := by
  have hw := h.leases i l hl
  obtain ⟨e, he⟩ := hw.migrating_engine hs hm (by simp [hmode])
  have wf := hw.adopted (m := m) (e := e) (st := .pending) (armed := l.flags.heldStart) hs hm
    .pending (by decide) (fun ha => ⟨rfl, ha⟩)
  have hu : 0 < (s.engine e).users := lt_of_lt_of_le (Lease.countOn_pos_of_engine he) (h.countOn_le hl e)
  have ht : (s.reprogram e m.plan).BooksBut q := h.setEngine e rfl ((h.engines e).program _ _ _ hu)
  unfold State.finishMigration
  simp only [hmode, he]
  rw [show ({ l.adopt m with state := .pending, armed := l.flags.heldStart } : Lease) =
    { l.adopt m with engine := some e, state := .pending, armed := l.flags.heldStart } by
      simp [Lease.adopt, he]]
  refine ht.relabel (l := l) (by simpa [State.reprogram] using hl) wf fun f => ?_
  rw [wf.plain_countOn .pending, hw.migrating_countOn hs hm,
    hw.target_none hm (by simp [hmode]), he]
  simp

theorem finishMigration (h : s.BooksBut q) (hl : s.lease? i = some l) {m : Migration}
    (hs : l.state = .migrating) (hm : l.migration = some m) : (s.finishMigration i l m).BooksBut q := by
  cases hmode : m.mode with
  | loc => exact h.finishLocal hl hs hm hmode
  | overlap => exact h.finishOverlap hl hs hm hmode
  | gap => exact h.finishGap hl hs hm hmode

theorem settle (told : Bool) (i : SlotId) (h : s.BooksBut q) : (s.settle told i).BooksBut q := by
  unfold State.settle
  split
  · exact h
  · rename_i l hl
    split
    · rename_i m hs hm
      split
      · exact (h.finishMigration hl hs hm).tell told i
      · exact h
    · exact h

/-! ### Announcements -/

/-- A lease moved between plain states in a background event. -/
theorem background {k : Lease} {st : LeaseState} (r : Reason) (h : s.BooksBut q) (hl : s.lease? i = some l)
    (hs : l.state.Plain) (hst : st.Plain) (same : l.SameClaims k)
    (ha : k.armed = true → st = .pending ∧ k.flags.heldStart = true)
    (hr : st = .ready → k.flags.heldStart = true) : (s.background i k st r).BooksBut q :=
  (h.restate (k := { k with state := st, reason := r }) hl hs hst
    ⟨same.engine, same.migration, same.closingTarget, same.entries, same.plan, same.flags⟩ ha hr).board
    ((SameBoard.refl _).raise i false)

/-- A lease that keeps its state in a background event. -/
theorem renote (r : Reason) (h : s.BooksBut q) (hl : s.lease? i = some l) :
    (s.background i l l.state r).BooksBut q :=
  (h.relabel (k := { l with state := l.state, reason := r }) hl
    ((h.leases i l hl).congr ⟨rfl, rfl, rfl, rfl, rfl, rfl⟩ rfl rfl) fun _ => rfl).board
    ((SameBoard.refl _).raise i false)

theorem mute (l : Lease) (h : s.BooksBut q) : (s.mute l).BooksBut q := by
  unfold State.mute
  split
  · exact h.giveEach _ _
  · exact h

theorem startPending (e : EngineId) (h : s.BooksBut q) (hl : s.lease? i = some l) (hs : l.state = .pending) :
    (s.startPending e i l).BooksBut q := by
  have hp : l.state.Plain := hs ▸ .pending
  unfold State.startPending
  split
  · rename_i hc
    simp only [Bool.and_eq_true, Bool.not_eq_true'] at hc
    exact h.background _ hl hp .ready (.refl l) (by simp [hc.2]) fun _ => hc.1
  · exact (h.background (k := { l with armed := false }) (st := .starting) _ hl hp .starting
      ⟨rfl, rfl, rfl, rfl, rfl, rfl⟩ (by simp) (by simp)).giveEach _ _

theorem relock (e : EngineId) (h : s.BooksBut q) (hl : s.lease? i = some l) (hs : l.state = .disturbed) :
    (s.relock e i l).BooksBut q := by
  have ha := (h.leases i l hl).unarmed (by simp [hs])
  unfold State.relock
  split
  · exact h.background _ hl (hs ▸ .disturbed) .active (.refl l) (by simp [ha]) (by simp)
  · exact h.giveEach _ _

theorem migrationLocked (e : EngineId) (l : Lease) (m : Migration) (h : s.BooksBut q) :
    (s.migrationLocked e l m).BooksBut q := by
  unfold State.migrationLocked
  split
  · exact h.giveEach _ _
  · split
    · exact h.giveEach _ _
    · split
      · exact h
      · exact h.giveEach _ _
  · exact h

theorem onLocked (e : EngineId) (i : SlotId) (h : s.BooksBut q) : (Machine.onLocked e i s).BooksBut q := by
  unfold Machine.onLocked
  split
  · exact h
  rename_i l hl
  split
  swap
  · exact h
  split
  case h_1 hs => exact h.startPending e hl hs
  case h_2 hs => exact h.relock e hl hs
  case h_3 =>
    split
    · exact (h.migrationLocked e l _).settle false i
    · exact h
  all_goals exact h

/-- A lease on a slipping or holding engine goes to a state that is neither PENDING with START armed nor READY. -/
theorem unsettle {st : LeaseState} (r : Reason) (h : s.BooksBut q) (hl : s.lease? i = some l)
    (hs : l.state.Plain) (hn : l.state ≠ .pending) (hst : st = .pending ∨ st = .disturbed) :
    (s.background i l st r).BooksBut q := by
  have ha := (h.leases i l hl).unarmed hn
  rcases hst with rfl | rfl
  · exact h.background r hl hs .pending (.refl l) (by simp [ha]) (by simp)
  · exact h.background r hl hs .disturbed (.refl l) (by simp [ha]) (by simp)

theorem migrationSlip (e : EngineId) (l : Lease) (m : Migration) (h : s.BooksBut q) :
    (s.migrationSlip e l m).BooksBut q := by
  unfold State.migrationSlip
  split
  · exact h.mute l
  · split
    · exact h.giveEach _ _
    · exact h
  · exact h

theorem onSlip (e : EngineId) (i : SlotId) (h : s.BooksBut q) : (Machine.onSlip e i s).BooksBut q := by
  unfold Machine.onSlip
  split
  · exact h
  rename_i l hl
  split
  swap
  · exact h
  split
  case h_1 hs => exact h.unsettle _ hl (hs ▸ .ready) (by simp [hs]) (.inl rfl)
  case h_2 hs => exact (h.unsettle _ hl (hs ▸ .starting) (by simp [hs]) (.inr rfl)).mute l
  case h_3 hs => exact (h.unsettle _ hl (hs ▸ .active) (by simp [hs]) (.inr rfl)).mute l
  case h_4 hs => exact (h.unsettle _ hl (hs ▸ .disturbed) (by simp [hs]) (.inr rfl)).mute l
  case h_5 hs =>
    split
    · exact ((hs ▸ h.renote _ hl).migrationSlip e l _).settle false i
    · exact h
  all_goals exact h

theorem onHoldover (e : EngineId) (i : SlotId) (h : s.BooksBut q) : (Machine.onHoldover e i s).BooksBut q := by
  unfold Machine.onHoldover
  split
  · exact h
  rename_i l hl
  split
  swap
  · exact h
  split
  case h_1 hs => exact h.unsettle _ hl (hs ▸ .ready) (by simp [hs]) (.inl rfl)
  case h_2 hs => exact h.unsettle _ hl (hs ▸ .starting) (by simp [hs]) (.inr rfl)
  case h_3 hs => exact h.unsettle _ hl (hs ▸ .active) (by simp [hs]) (.inr rfl)
  case h_4 hs => exact h.unsettle _ hl (hs ▸ .disturbed) (by simp [hs]) (.inr rfl)
  case h_5 hs =>
    split
    · exact (hs ▸ h.renote _ hl).settle false i
    · exact h
  all_goals exact h

/-! ### Freeing and closing -/

theorem closeIfQuiet (i : SlotId) (h : s.BooksBut q) : (s.closeIfQuiet i).BooksBut q := by
  unfold State.closeIfQuiet
  split
  · exact h
  rename_i l hl
  split
  · refine h.free hl (fun j hj => ?_) ?_ fun f => State.retire_engine _ i l f
    · rw [State.retire_lease, if_neg hj, State.giveUp_lease]
    · rw [State.retire_lease, if_pos rfl]
  · exact h

theorem giveUp_congr (s t : State) {k l : Lease} (same : l.SameClaims k) (he : ∀ f, t.engine f = s.engine f)
    (hp : t.params = s.params) (f : EngineId) : (t.giveUp k).engine f = (s.giveUp l).engine f := by
  have hd : ∀ (u v : State), u.params = v.params → (∀ f, u.engine f = v.engine f) → ∀ o f,
      (u.dropUser o).engine f = (v.dropUser o).engine f := fun u v hp he o f => by
    rw [u.dropUser_engine, v.dropUser_engine, he, hp]
  have hdp : ∀ (u : State) o, (u.dropUser o).params = u.params := fun u o => by cases o <;> rfl
  simp only [State.giveUp, same.engine, same.closingTarget, same.migrationTarget, same.entries]
  refine hd _ _ ?_ (fun g => ?_) _ f
  · rw [State.setHolders_frame _ _ _ State.params fun _ _ _ => rfl,
      State.setHolders_frame _ _ _ State.params fun _ _ _ => rfl, hdp, hdp, hdp, hdp, hp]
  · rw [State.setHolders_engine, State.setHolders_engine]
    exact hd _ _ (by rw [hdp, hdp, hp]) (hd _ _ hp he _) _ g

theorem startClosing (told : Bool) (r : Reason) (h : s.BooksBut q) (hl : s.lease? i = some l)
    (hs : l.state ≠ .closing) : (s.startClosing told r i l).BooksBut q :=
  have hw := h.leases i l hl
  ((h.relabel hl (hw.closed r) (hw.closed_countOn hs r)).tell told i).giveEach _ _

theorem endLease (told : Bool) (r : Reason) (h : s.BooksBut q) (hl : s.lease? i = some l)
    (hs : l.state ≠ .closing) : (s.endLease told r i l).BooksBut q := by
  unfold State.endLease
  split
  swap
  · exact h.startClosing told r hl hs
  have hg : ∀ f, (((s.setLease i { l with reason := r }).giveUp l).engine f) = (s.giveUp l).engine f :=
    giveUp_congr s _ (.refl l) (by simp) (by simp)
  have hj : ∀ j, j ≠ i → ((s.setLease i { l with reason := r }).giveUp l).lease? j = s.lease? j := fun j hj => by
    rw [State.giveUp_lease, State.lease_setLease_ne _ _ hj]
  dsimp only
  split
  · exact h.free hl (fun j hji => by rw [State.freeTold_lease, if_neg hji, hj j hji])
      (by rw [State.freeTold_lease, if_pos rfl]) fun f => by rw [State.freeTold_engine, hg]
  · exact h.free hl (fun j hji => by rw [State.retire_lease, if_neg hji, hj j hji])
      (by rw [State.retire_lease, if_pos rfl]) fun f => by rw [State.retire_engine, hg]

end State.BooksBut

end Sys2Proof.Machine

/-! ## The books: faults, completions and commands -/

namespace Sys2Proof.Machine

/-- A lease entered on engine `e`: its state by the engine's standing, and its outputs given their targets where it is
STARTING (R30, R93, R122). -/
theorem State.setLease_enter (s : State) (i : SlotId) {k : Lease} {e : EngineId} (he : k.engine = some e) :
    (s.setLease i k).enter i =
      let t := s.setLease i { k with state := startState (s.isLocked e) k.flags.heldStart }
      if s.isLocked e = true ∧ k.flags.heldStart = false then t.giveEach (wantClock e) k.entries else t := by
  have hlock : (s.setLease i k).isLocked e = s.isLocked e := rfl
  unfold State.enter
  simp only [State.lease_setLease_same, he, hlock, State.setLease_setLease]
  cases s.isLocked e <;> cases k.flags.heldStart <;> simp [startState]

theorem startState_plain (locked held : Bool) : (startState locked held).Plain := by
  cases locked <;> cases held
  · exact .pending
  · exact .pending
  · exact .starting
  · exact .ready

theorem startState_ready {locked held : Bool} (h : startState locked held = .ready) :
    locked = true ∧ held = true := by
  revert h
  cases locked <;> cases held <;> simp [startState]

/-- A CLOSING lease without the faulted engine `e` (R119). -/
def Lease.forget (e : EngineId) (l : Lease) : Lease :=
  { l with
    engine := if l.engine = some e then none else l.engine,
    closingTarget := if l.closingTarget = some e then none else l.closingTarget }

namespace Lease.Wf

variable {l : Lease} {e : EngineId}

theorem forget (h : l.Wf) (hs : l.state = .closing) (e : EngineId) : (l.forget e).Wf := by
  have hm := h.no_migration (by simp [hs])
  refine ⟨h.entries, by simp [Lease.forget, hm, hs], by simp [Lease.forget, hm], fun hc => ⟨hs, ?_⟩,
    by simp [Lease.forget, hs], fun _ => .inr (.inl hs), by simp [Lease.forget, h.unarmed (by simp [hs])],
    by simp [Lease.forget, hs]⟩
  simp only [Lease.forget] at hc ⊢
  by_cases h1 : l.closingTarget = some e
  · simp [h1] at hc
  · simp only [h1, if_false] at hc ⊢
    split
    · intro hk; rw [hk] at hc; cases hc
    · exact (h.closing hc).2

theorem forget_countOn (h : l.Wf) (hs : l.state = .closing) (hn : l.engine = some e ∨ l.closingTarget = some e)
    (f : EngineId) : (l.forget e).countOn f + (if some e = some f then 1 else 0) = l.countOn f := by
  rw [countOn_eq, l.countOn_eq]
  simp only [Lease.forget, migrationTarget, h.no_migration (show l.state ≠ .migrating by simp [hs])]
  by_cases h1 : l.engine = some e
  · have h2 : l.closingTarget ≠ some e := fun h2 => (h.closing (by rw [h2]; rfl)).2 (h2.trans h1.symm)
    simp [h1, h2]
    omega
  · simp [h1, hn.resolve_left h1]

theorem loseSource_countOn (h : l.Wf) {m : Migration} (hs : l.state = .migrating) (hm : l.migration = some m)
    (he : l.engine = some e) (f : EngineId) :
    ({ l with engine := none } : Lease).countOn f + (if some e = some f then 1 else 0) = l.countOn f := by
  rw [h.migrating_countOn hs hm, countOn_eq, he, h.no_closingTarget (by simp [hs])]
  by_cases ht : m.target = some f <;> simp [migrationTarget, hm, ht, Nat.add_comm]

theorem loseTarget_countOn (h : l.Wf) {m : Migration} (hs : l.state = .migrating) (hm : l.migration = some m)
    (ht : m.target = some e) (f : EngineId) :
    ({ l with migration := none } : Lease).countOn f + (if some e = some f then 1 else 0) = l.countOn f := by
  rw [h.migrating_countOn hs hm, ht, countOn_eq, h.no_closingTarget (by simp [hs])]
  simp [migrationTarget]

end Lease.Wf

namespace State.BooksBut

variable {q : Option EngineId} {s t : State} {i : SlotId} {l : Lease}

/-! ### Faults -/

/-- An engine loses the user of a lease, which is rewritten in a background event. -/
theorem dropTo (h : s.BooksBut q) (hl : s.lease? i = some l) (o : Option EngineId) {k : Lease} {st : LeaseState}
    {r : Reason} (wf : ({ k with state := st, reason := r } : Lease).Wf)
    (hc : ∀ f, k.countOn f + (if o = some f then 1 else 0) = l.countOn f) :
    ((s.dropUser o).background i k st r).BooksBut q :=
  (h.drop (k := { k with state := st, reason := r }) hl o wf hc).board ((SameBoard.refl _).raise i false)

/-- A lease that counts on the faulted engine alone is FAILED (R117). -/
theorem failLease (h : s.BooksBut q) (hl : s.lease? i = some l) {e : EngineId} (hs : l.state ≠ .closing)
    (hc : ∀ f, l.countOn f = if some e = some f then 1 else 0) :
    ((s.dropUser (some e)).failLease i l).BooksBut q := by
  have hw := h.leases i l hl
  have hct := hw.no_closingTarget hs
  refine h.dropTo hl (some e) (.failed_of hw.entries hct _) fun f => ?_
  rw [hc, Lease.countOn_eq]
  simp [hct, Lease.migrationTarget]

theorem plain_failLease (h : s.BooksBut q) (hl : s.lease? i = some l) {e : EngineId} (hs : l.state.Plain)
    (he : l.engine = some e) : ((s.dropUser (some e)).failLease i l).BooksBut q :=
  h.failLease hl hs.closing fun f => by rw [(h.leases i l hl).plain_countOn hs, he]

/-- A lease under OVERLAP migration loses its source engine (R102). -/
theorem loseSource (h : s.BooksBut q) (hl : s.lease? i = some l) {m : Migration} {e : EngineId}
    (hs : l.state = .migrating) (hm : l.migration = some m) (hmode : m.mode = .overlap)
    (he : l.engine = some e) :
    ((s.dropUser (some e)).background i { l with engine := none } .migrating .engineFault).BooksBut q := by
  have hw := h.leases i l hl
  have hr := hw.record m hm
  obtain ⟨g, hg, -⟩ := hw.overlap_target hm hmode
  have hct := hw.no_closingTarget (by simp [hs])
  refine h.dropTo hl (some e) ?_ (hw.loseSource_countOn hs hm he)
  refine ⟨hw.entries, by simp [hm], fun m' hm' => ?_, by simp [hct], by simp,
    fun _ => .inr (.inr (by simp [Lease.migrationTarget, hm, hg])), by simp [hw.unarmed (by simp [hs])], by simp⟩
  cases hm.symm.trans hm'
  exact ⟨hr.target, by simp [hg], hr.outputs, hr.entries, fun hl => by simp [hmode] at hl⟩

theorem sourceFault (h : s.BooksBut q) (hl : s.lease? i = some l) {m : Migration} {e : EngineId}
    (hs : l.state = .migrating) (hm : l.migration = some m) (hmode : m.mode = .overlap)
    (he : l.engine = some e) : ((s.dropUser (some e)).sourceFault i l m).BooksBut q := by
  have hb := h.loseSource hl hs hm hmode he
  unfold State.sourceFault
  dsimp only
  split
  · split
    · exact (hb.giveEach _ _).settle false i
    · exact hb.settle false i
  · exact hb

/-- A lease under OVERLAP migration loses the target engine and stays on its own (R103). -/
theorem loseTarget (h : s.BooksBut q) (hl : s.lease? i = some l) {m : Migration} {e f : EngineId}
    {st : LeaseState} (hs : l.state = .migrating) (hm : l.migration = some m) (ht : m.target = some e)
    (he : l.engine = some f) (hst : st.Plain) (hr : st ≠ .ready) :
    ((s.dropUser (some e)).background i { l with migration := none } st .migrationFailed).BooksBut q := by
  have hw := h.leases i l hl
  exact h.dropTo hl (some e) (.of_plain hw.entries he rfl (hw.no_closingTarget (by simp [hs])) hst
    (by simp [hw.unarmed (by simp [hs])]) fun h => absurd h hr) (hw.loseTarget_countOn hs hm ht)

theorem targetFault (h : s.BooksBut q) (hl : s.lease? i = some l) {m : Migration} {e : EngineId}
    (hs : l.state = .migrating) (hm : l.migration = some m) (ht : m.target = some e) :
    ((s.dropUser (some e)).targetFault i l).BooksBut q := by
  unfold State.targetFault
  split
  · rename_i he
    exact h.failLease hl (by simp [hs]) fun f => by
      rw [(h.leases i l hl).migrating_countOn hs hm, he, ht]; simp
  rename_i f he
  dsimp only
  split
  · split
    · exact h.loseTarget hl hs hm ht he .active (by decide)
    · exact (h.loseTarget hl hs hm ht he .starting (by decide)).giveEach _ _
  · exact h.loseTarget hl hs hm ht he .disturbed (by decide)

/-- A lease in CLOSING forgets the faulted engine (R119). -/
theorem forget (h : s.BooksBut q) (hl : s.lease? i = some l) {e : EngineId} (hs : l.state = .closing)
    (hn : l.engine = some e ∨ l.closingTarget = some e) :
    ((s.dropUser (some e)).setLease i (l.forget e)).BooksBut q := by
  have hw := h.leases i l hl
  exact h.drop hl (some e) (hw.forget hs e) (hw.forget_countOn hs hn)

theorem closingFault (h : s.BooksBut q) (hl : s.lease? i = some l) {e : EngineId} (hs : l.state = .closing)
    (hn : l.engine = some e ∨ l.closingTarget = some e) :
    ((s.dropUser (some e)).closingFault e i l).BooksBut q :=
  (h.forget hl hs hn).closeIfQuiet i

/-- What the fault of engine `e` does to the lease of one slot (R117). -/
theorem onFault (e : EngineId) (i : SlotId) (h : s.BooksBut q) : (Machine.onFault e i s).BooksBut q := by
  have plain {l : Lease} (hl : s.lease? i = some l) (hs : l.state.Plain) :
      (if l.runsFrom e then (s.dropUser (some e)).failLease i l else s).BooksBut q := by
    split
    · rename_i he
      exact h.plain_failLease hl hs (of_decide_eq_true he)
    · exact h
  unfold Machine.onFault
  split
  · exact h
  rename_i l hl
  split
  case h_1 hs =>
    split
    · rename_i hn
      exact h.closingFault hl hs (by simpa [Lease.runsFrom] using hn)
    · exact h
  case h_2 hs =>
    split
    · exact h
    rename_i m hm
    split
    · rename_i ht
      exact h.targetFault hl hs hm ht
    rename_i ht
    split
    swap
    · exact h
    rename_i he
    have he : l.engine = some e := of_decide_eq_true he
    have fails : m.mode ≠ .overlap → ((s.dropUser (some e)).failLease i l).BooksBut q := fun hmode =>
      h.failLease hl (by simp [hs]) fun f => by
        rw [(h.leases i l hl).migrating_countOn hs hm, he, (h.leases i l hl).target_none hm hmode]
        simp
    split
    case h_1 hmode => exact h.sourceFault hl hs hm hmode he
    case h_2 hmode => exact fails (by simp [hmode])
    case h_3 hmode => exact fails (by simp [hmode])
  case h_3 hs => exact plain hl (hs ▸ .pending)
  case h_4 hs => exact plain hl (hs ▸ .ready)
  case h_5 hs => exact plain hl (hs ▸ .starting)
  case h_6 hs => exact plain hl (hs ▸ .active)
  case h_7 hs => exact plain hl (hs ▸ .disturbed)
  case h_8 => exact h

end State.BooksBut

end Sys2Proof.Machine

namespace Sys2Proof.Machine

/-! ### The lease of the slot after an operation on it -/

@[simp] theorem State.background_lease (s : State) (i : SlotId) (k : Lease) (st : LeaseState) (r : Reason) :
    (s.background i k st r).lease? i = some { k with state := st, reason := r } := by
  unfold State.background
  rw [((SameBoard.refl _).raise i false).leases, State.lease_setLease_same]

@[simp] theorem State.tell_lease (s : State) (told : Bool) (i j : SlotId) :
    (s.tell told i).lease? j = s.lease? j :=
  ((SameBoard.refl s).tell told i).leases j

@[simp] theorem State.tell_engine (s : State) (told : Bool) (i : SlotId) (e : EngineId) :
    (s.tell told i).engine e = s.engine e :=
  ((SameBoard.refl s).tell told i).engines e

@[simp] theorem State.tell_output (s : State) (told : Bool) (i : SlotId) (o : OutputId) :
    (s.tell told i).output o = s.output o :=
  ((SameBoard.refl s).tell told i).outputs o

@[simp] theorem State.background_engine (s : State) (i : SlotId) (k : Lease) (st : LeaseState) (r : Reason)
    (e : EngineId) : (s.background i k st r).engine e = s.engine e :=
  ((SameBoard.refl _).raise i false).engines e

@[simp] theorem State.background_output (s : State) (i : SlotId) (k : Lease) (st : LeaseState) (r : Reason)
    (o : OutputId) : (s.background i k st r).output o = s.output o :=
  ((SameBoard.refl _).raise i false).outputs o

/-- The lease after a settled migration: its values adopted, in OVERLAP the target its engine (R97, R101, R105). -/
theorem State.finishMigration_lease (s : State) (i : SlotId) (l : Lease) (m : Migration) :
    ∃ st armed, (s.finishMigration i l m).lease? i = some
      { l.adopt m with
        engine := if m.mode = .overlap then m.target else l.engine, state := st, armed := armed } := by
  unfold State.finishMigration
  cases hmode : m.mode with
  | loc => exact ⟨_, l.armed, State.lease_setLease_same _ _ _⟩
  | overlap => exact ⟨_, l.armed, State.lease_setLease_same _ _ _⟩
  | gap => exact ⟨.pending, l.flags.heldStart, State.lease_setLease_same _ _ _⟩

/-- A settling takes no new count on an engine. -/
theorem State.settle_countOn_le {s : State} {told : Bool} {i : SlotId} {l k : Lease} (hl : s.lease? i = some l)
    (hk : (s.settle told i).lease? i = some k) (e : EngineId) : k.countOn e ≤ l.countOn e := by
  unfold State.settle at hk
  rw [hl] at hk
  dsimp only at hk
  split at hk
  · rename_i m hs hm
    split at hk
    · obtain ⟨st, armed, hf⟩ := s.finishMigration_lease i l m
      rw [State.tell_lease, hf] at hk
      cases hk
      rw [Lease.countOn_eq, l.countOn_eq, Lease.migrationTarget_of_some hm]
      simp only [Lease.migrationTarget, Lease.adopt]
      by_cases hmode : m.mode = .overlap <;> by_cases hc : l.closingTarget = some e <;> simp [hmode, hc]
    · rw [hl] at hk; cases hk; exact le_refl _
  · rw [hl] at hk; cases hk; exact le_refl _

/-- A lease that is not freed by its completion test stays as it was. -/
theorem State.closeIfQuiet_lease {s : State} {i : SlotId} {k : Lease}
    (hk : (s.closeIfQuiet i).lease? i = some k) : s.lease? i = some k := by
  unfold State.closeIfQuiet at hk
  split at hk
  · exact hk
  · split at hk
    · rw [State.retire_lease, if_pos rfl] at hk; cases hk
    · exact hk

namespace State.BooksBut

variable {q : Option EngineId} {s t : State} {i : SlotId} {l k : Lease}

/-- After its own round of a fault no lease counts on the faulted engine (R117). -/
theorem onFault_countOn (h : s.BooksBut q) {e : EngineId} (hk : (Machine.onFault e i s).lease? i = some k) :
    k.countOn e = 0 := by
  have failed (l : Lease) (hc : l.closingTarget = none)
      (hf : ((s.dropUser (some e)).failLease i l).lease? i = some k) : k.countOn e = 0 := by
    unfold State.failLease at hf
    rw [State.background_lease] at hf
    cases hf
    simp [Lease.countOn_eq, hc, Lease.migrationTarget]
  unfold Machine.onFault at hk
  split at hk
  · rename_i hn; rw [hn] at hk; cases hk
  rename_i l hl
  have hw := h.leases i l hl
  have plain (hs : l.state.Plain)
      (hk : (if l.runsFrom e then (s.dropUser (some e)).failLease i l else s).lease? i = some k) :
      k.countOn e = 0 := by
    split at hk
    · exact failed l (hw.no_closingTarget hs.closing) hk
    · rename_i he
      rw [hl] at hk
      cases hk
      rw [hw.plain_countOn hs, if_neg (by simpa [Lease.runsFrom] using he)]
  split at hk
  case h_1 hs =>
    have hm := hw.no_migration (by simp [hs])
    split at hk
    · have hk := State.closeIfQuiet_lease hk
      rw [State.lease_setLease_same] at hk
      cases hk
      rw [Lease.countOn_eq]
      by_cases h1 : l.engine = some e <;> by_cases h2 : l.closingTarget = some e <;>
        simp [h1, h2, Lease.migrationTarget, hm]
    · rename_i hn
      rw [hl] at hk
      cases hk
      simp only [Lease.runsFrom, Bool.or_eq_true, decide_eq_true_eq, not_or] at hn
      rw [Lease.countOn_eq]
      simp [hn, Lease.migrationTarget, hm]
  case h_2 hs =>
    have hct := hw.no_closingTarget (by simp [hs])
    split at hk
    · rename_i hm
      obtain ⟨m, hm'⟩ := hw.has_record hs
      rw [hm] at hm'; cases hm'
    rename_i m hm
    split at hk
    · rename_i ht
      unfold State.targetFault at hk
      split at hk
      · exact failed l hct hk
      · rename_i f he
        have hne : l.engine ≠ some e := by
          rw [← ht]
          exact fun hx => (hw.record m hm).distinct (by rw [ht]; rfl) hx.symm
        have back : ∀ st, some ({ l with migration := none, state := st, reason := .migrationFailed } : Lease) =
            some k → k.countOn e = 0 := fun st hx => by
          cases hx
          simp [Lease.countOn_eq, hne, hct, Lease.migrationTarget]
        dsimp only at hk
        split at hk
        · split at hk
          · rw [State.background_lease] at hk; exact back _ hk
          · rw [State.giveEach_lease, State.background_lease] at hk; exact back _ hk
        · rw [State.background_lease] at hk; exact back _ hk
    rename_i ht
    split at hk
    swap
    · rename_i he
      rw [hl] at hk
      cases hk
      rw [hw.migrating_countOn hs hm, if_neg ht, if_neg (by simpa [Lease.runsFrom] using he)]
    split at hk
    · unfold State.sourceFault at hk
      have zero : ∀ u : State, u.lease? i = some { l with engine := none, state := .migrating, reason := .engineFault } →
          (u.settle false i).lease? i = some k → k.countOn e = 0 := fun u hu hx => by
        refine Nat.le_zero.1 ((State.settle_countOn_le hu hx e).trans (le_of_eq ?_))
        simp [Lease.countOn_eq, hct, Lease.migrationTarget, hm, ht]
      dsimp only at hk
      split at hk
      · refine zero _ ?_ hk
        split
        · rw [State.giveEach_lease, State.background_lease]
        · rw [State.background_lease]
      · rw [State.background_lease] at hk
        cases hk
        simp [Lease.countOn_eq, hct, Lease.migrationTarget, hm, ht]
    · exact failed l hct hk
    · exact failed l hct hk
  case h_3 hs => exact plain (hs ▸ .pending) hk
  case h_4 hs => exact plain (hs ▸ .ready) hk
  case h_5 hs => exact plain (hs ▸ .starting) hk
  case h_6 hs => exact plain (hs ▸ .active) hk
  case h_7 hs => exact plain (hs ▸ .disturbed) hk
  case h_8 hs =>
    rw [hl] at hk
    cases hk
    rw [Lease.countOn_eq, hw.failed hs, hw.no_closingTarget (by simp [hs]),
      Lease.migrationTarget_of_none (hw.no_migration (by simp [hs]))]
    simp

/-- The fault of an engine has been applied to every lease: none counts on it, and the books are whole (R66). -/
theorem whole {e : EngineId} (h : s.BooksBut (some e)) (hz : ∀ i k, s.lease? i = some k → k.countOn e = 0) :
    s.BooksBut none where
  leases := h.leases
  users := h.users
  engines f := by
    obtain ⟨h1, h2, h3, h4, h5⟩ := h.engines f
    refine ⟨h1, h2, fun hs => .inr ?_, h4, h5⟩
    by_cases hf : e = f
    · subst hf
      rw [h.users, s.usersOf_eq_sum]
      refine Finset.sum_eq_zero fun i _ => ?_
      unfold State.countAt
      split
      · rename_i k hk; exact hz i k hk
      · rfl
    · exact (h3 hs).resolve_left (by simpa using hf)

theorem forceQuietTied_lease (s : State) (e : EngineId) (i : SlotId) :
    (s.forceQuietTied e).lease? i = s.lease? i := by
  refine forEach_frame (fun t => t.lease? i) _ (fun o t => ?_) allOutputs s
  dsimp only
  split <;> simp

theorem forceQuietTied_engine (s : State) (e f : EngineId) : (s.forceQuietTied e).engine f = s.engine f := by
  refine forEach_frame (fun t => t.engine f) _ (fun o t => ?_) allOutputs s
  dsimp only
  split <;> simp

/-- The state in which a fault is applied to the leases one by one. -/
theorem beginFault (h : s.BooksBut none) (e : EngineId) (r : FaultReason) :
    ((s.setEngine e ((s.engine e).fail r)).forceQuietTied e).BooksBut (some e) := by
  have weak : s.BooksBut (some e) :=
    ⟨h.leases, h.users, fun f => by
      obtain ⟨h1, h2, h3, h4, h5⟩ := h.engines f
      exact ⟨h1, h2, fun hs => .inr ((h3 hs).resolve_left (by simp)), h4, h5⟩⟩
  exact (weak.setEngine (x := (s.engine e).fail r) e rfl ((weak.engines e).fail r rfl)).congr (forceQuietTied_lease _ e)
    (forceQuietTied_engine _ e)

theorem declareFault (e : EngineId) (r : FaultReason) (h : s.BooksBut none) :
    (s.declareFault e r).BooksBut none := by
  obtain ⟨hb, hz⟩ := forEach_allSlots (G := State.BooksBut (some e)) (pre := fun _ _ => True)
    (post := fun i s => ∀ k, s.lease? i = some k → k.countOn e = 0) (f := Machine.onFault e)
    (fun i s hs _ => ⟨hs.onFault e i, fun k hk => hs.onFault_countOn hk⟩)
    (fun _ _ _ _ _ _ _ => trivial)
    (fun i j s hj _ _ hp k hk => hp k (((OneSlot.refl i s).onFault e).lease hj ▸ hk))
    (h.beginFault e r) (fun _ => trivial)
  exact (hb.whole hz).board ((SameBoard.refl _).deviceNotices _)

end State.BooksBut

end Sys2Proof.Machine

namespace Sys2Proof.Machine

theorem State.lowestFree_lease {s : State} {i : SlotId} (h : s.lowestFree = some i) : s.lease? i = none := by
  have := List.find?_some h
  simp only [decide_eq_true_eq] at this
  simp [State.lease?, this, Standing.lease?]

theorem Lease.startable_iff (l : Lease) : l.startable = true ↔
    l.flags.heldStart = true ∧ (l.state = .ready ∨ (l.state = .pending ∧ l.armed = false)) := by
  simp [Lease.startable]

/-- An engine that still serves a request runs under its plan (R91). -/
theorem Lease.servedUnder_plan {l : Lease} {r : RetuneRequest} (h : l.servedUnder r = true) : r.plan = l.plan := by
  unfold Lease.servedUnder at h
  split at h
  · simp only [Bool.and_eq_true, decide_eq_true_eq] at h
    exact h.1.1
  · cases h

/-- One round of START leaves the other slots. -/
theorem State.startOne_lease_ne {s : State} {p : Port} {i j : SlotId} (h : j ≠ i) :
    (s.startOne p i).lease? j = s.lease? j := by
  unfold State.startOne
  split
  · rfl
  · split
    · split
      · simp [State.lease_setLease_ne _ _ h]
      · rfl
    · exact s.lease_setLease_ne i h _

/-- Holders and a lease are written in either order. -/
theorem State.setLease_setHolders (s : State) (i : SlotId) (l : Lease) (k : Option SlotId) (es : List Entry) :
    (s.setLease i l).setHolders k es = (s.setHolders k es).setLease i l := by
  induction es generalizing s with
  | nil => rfl
  | cons x es ih => exact ih (s.setOutput x.output { s.output x.output with holder := k })

theorem State.openAccepted_eq (s : State) (p : Port) (c : ClientId) (a : OpenArgs) (cs : List EngineClass)
    (i : SlotId) (e : EngineId) : s.openAccepted p c a cs i e =
      (((s.commit (a.request cs) e).setHolders (some i) a.entries).setLease i (a.lease c p e)).enter i := by
  rw [State.openAccepted, State.setLease_setHolders]

namespace State.BooksBut

variable {q : Option EngineId} {s t : State} {i : SlotId} {l k : Lease}

/-! ### Completions -/

theorem onCompletion (i : SlotId) (h : s.BooksBut q) : (Machine.onCompletion i s).BooksBut q := by
  unfold Machine.onCompletion
  split
  · exact h
  rename_i l hl
  have activate (r : Reason) (hs : l.state.Plain) (hn : l.state ≠ .pending) :
      (s.background i l .active r).BooksBut q :=
    h.background r hl hs .active (.refl l) (by simp [(h.leases i l hl).unarmed hn]) (by simp)
  split
  case h_1 hs =>
    split
    · exact activate _ (hs ▸ .starting) (by simp [hs])
    · exact h
  case h_2 hs =>
    split
    · exact activate _ (hs ▸ .disturbed) (by simp [hs])
    · exact h
  case h_3 => exact h.settle false i
  case h_4 => exact h.closeIfQuiet i
  all_goals exact h

theorem completed (o : OutputId) (x : OutputRec) (h : s.BooksBut q) :
    ((s.setOutput o x).reportCompletion o).BooksBut q := by
  have h' : (s.setOutput o x).BooksBut q := h.congr (by simp) (by simp)
  unfold State.reportCompletion
  split
  · exact h'.onCompletion _
  · exact h'

/-! ### Changes of selection -/

theorem announceSelection (h : s.BooksBut q) : s.announceSelection.BooksBut q := by
  unfold State.announceSelection
  refine forEach_keeps (P := State.BooksBut q) _ (fun e u hu => ?_) _
    (forEach_keeps (P := State.BooksBut q) _ (fun e u hu => ?_) _ h)
  · split
    · exact forEach_keeps (P := State.BooksBut q) (Machine.onHoldover e) (fun i v hv => hv.onHoldover e i)
        allSlots hu
    · exact hu
  · refine hu.setEngine e ?_ ((hu.engines e).reselect _ _)
    unfold EngineRec.reselect
    split <;> rfl

/-! ### Entering the state that an engine allows -/

/-- A lease entered on its engine, where the books hold of it in each plain state. -/
theorem enter {e : EngineId} (he : k.engine = some e) (hes : EntriesOk k.entries) (hm : k.migration = none)
    (hct : k.closingTarget = none) (harm : k.armed = false)
    (hk : ∀ st, ({ k with state := st } : Lease).Wf →
      (∀ f, ({ k with state := st } : Lease).countOn f = if some e = some f then 1 else 0) →
      (s.setLease i { k with state := st }).BooksBut q) :
    ((s.setLease i k).enter i).BooksBut q := by
  rw [State.setLease_enter _ _ he]
  have hp := startState_plain (s.isLocked e) k.flags.heldStart
  have wf : ({ k with state := startState (s.isLocked e) k.flags.heldStart } : Lease).Wf :=
    .of_plain hes he hm hct hp (by simp [harm]) fun hr => (startState_ready hr).2
  have hx := hk _ wf fun f => by rw [wf.plain_countOn hp, he]
  dsimp only
  split
  · exact hx.giveEach _ _
  · exact hx

theorem openAccepted (p : Port) {c : ClientId} {a : OpenArgs} {cs : List EngineClass} {e : EngineId}
    (h : s.BooksBut q) (hc : s.OpenChecked c a cs i e) : (s.openAccepted p c a cs i e).BooksBut q := by
  have hn := State.lowestFree_lease hc.slot
  rw [State.openAccepted_eq]
  refine enter (k := a.lease c p e) rfl hc.entries rfl rfl rfl fun st wf hcount => ?_
  have hx := h.exchange (i := i) (State.ask_answers hc.engine).1 none wf fun f => by
    rw [hcount, State.countAt_of_none hn]
    simp [eq_comm]
  refine hx.congr (fun j => ?_) fun f => by simp
  rw [State.lease_setLease, State.lease_setLease, State.setHolders_lease, State.dropUser_none]

theorem retryAccepted (told : Bool) {r : AllocRequest} (cls : LeaseClass) (pin : Option EngineId)
    {es : List Entry} {e : EngineId} (h : s.BooksBut q) (hc : s.RetryChecked i l r es e) :
    (s.retryAccepted told i l r cls pin es e).BooksBut q := by
  have hw := h.leases i l hc.lease
  have hm := hw.no_migration (by simp [hc.failed])
  have hct := hw.no_closingTarget (by simp [hc.failed])
  have hes : EntriesOk es := by
    rcases hc.entries with hes | rfl
    · exact hes
    · exact hw.entries
  refine (enter (s := s.commit r e) (k := l.retriedOn r.plan cls pin es e) rfl hes hm hct rfl
    fun st wf hcount => h.exchange (State.ask_answers hc.engine).1 none wf fun f => ?_).tell told i
  rw [hcount, State.countAt_of_lease hc.lease, l.countOn_eq, hw.failed hc.failed, hct,
    Lease.migrationTarget_of_none hm]
  simp [eq_comm]

theorem rebind (told : Bool) {r : RetuneRequest} {e : EngineId} (h : s.BooksBut q) (hf : s.RetuneFits i l r)
    (hs : l.state = .pending ∨ l.state = .ready) (ha : s.ask (r.alloc l) = .ok e) :
    (s.rebind told i l r e).BooksBut q := by
  have hw := h.leases i l hf.lease
  have hp := LeaseState.Plain.of_pending_or_ready hs
  refine (enter (s := (s.commit (r.alloc l) e).dropUser l.engine)
    (k := { l.rewritten r with plan := r.plan, engine := some e }) rfl hf.entries
    (hw.no_migration hp.migrating) (hw.no_closingTarget hp.closing) rfl
    fun st wf hcount => h.exchange (State.ask_answers ha).1 l.engine wf fun f => ?_).tell told i
  rw [hcount, State.countAt_of_lease hf.lease, hw.plain_countOn hp]
  simp [eq_comm, Nat.add_comm]

/-! ### START and RETUNE -/

theorem startOne (p : Port) (h : s.BooksBut q) (hst : ∀ l, s.lease? i = some l → l.startable = true) :
    (s.startOne p i).BooksBut q := by
  unfold State.startOne
  split
  · exact h
  rename_i l hl
  obtain ⟨hheld, hs⟩ := l.startable_iff.1 (hst l hl)
  split
  · rename_i hr
    split
    · exact ((h.restate (k := { l with state := .starting }) hl (hr ▸ .ready) .starting
        ⟨rfl, rfl, rfl, rfl, rfl, rfl⟩ (by simp [(h.leases i l hl).unarmed (by simp [hr])])
        (by simp)).giveEach _ _).tell _ i
    · exact h
  · rename_i hr
    have hpend := (hs.resolve_left hr).1
    exact h.restate (k := { l with armed := true }) hl (hpend ▸ .pending) (by rw [hpend]; exact .pending)
      ⟨rfl, rfl, rfl, rfl, rfl, rfl⟩ (fun _ => ⟨hpend, hheld⟩) (fun _ => hheld)

theorem started (p : Port) {is : List SlotId} (h : s.BooksBut q) (hc : s.StartChecked is) :
    (forEach is (State.startOne p) s).BooksBut q :=
  (forEach_slots (G := State.BooksBut q) (pre := fun i s => ∀ l, s.lease? i = some l → l.startable = true)
    (post := fun _ _ => True) (f := State.startOne p) (fun _ _ hs hp => ⟨hs.startOne p hp, trivial⟩)
    (fun _ _ _ hj _ _ hp l hl => hp l (State.startOne_lease_ne hj ▸ hl)) (fun _ _ _ _ _ _ _ => trivial)
    hc.nodup h hc.startable fun _ _ => trivial).1

theorem retuneInPlace (told : Bool) {r : RetuneRequest} (h : s.BooksBut q) (hf : s.RetuneFits i l r)
    (hs : l.state = .pending ∨ l.state = .ready) : (s.retuneInPlace told i l r).BooksBut q := by
  have hw := h.leases i l hf.lease
  have hp := LeaseState.Plain.of_pending_or_ready hs
  obtain ⟨e, he⟩ := hw.plain_engine hp
  have wf : (l.rewritten r).Wf := .of_plain hf.entries he (hw.no_migration hp.migrating)
    (hw.no_closingTarget hp.closing) hp (by simp [Lease.rewritten]) hw.ready
  exact (h.relabel hf.lease wf fun f => by rw [wf.plain_countOn hp, hw.plain_countOn hp]; rfl).tell told i

/-- The lease that begins a migration (R96, R98, R104). -/
theorem migrating_wf {r : RetuneRequest} {mode : MigrationMode} {target : Option EngineId} (h : l.Wf)
    (hes : EntriesOk r.entries) (hout : outputsOf r.entries = outputsOf l.entries)
    (hs : l.state = .active ∨ l.state = .disturbed) (ht : target.isSome = true ↔ mode = .overlap)
    (hd : target.isSome = true → target ≠ l.engine) (hplan : mode = .loc → r.plan = l.plan) :
    ({ l with state := .migrating, migration := some (r.migration mode target) } : Lease).Wf := by
  have hp := LeaseState.Plain.of_active_or_disturbed hs
  obtain ⟨e, he⟩ := h.plain_engine hp
  have hn : l.state ≠ .pending := by rcases hs with hs | hs <;> simp [hs]
  exact ⟨h.entries, by simp, fun m hm => by cases hm; exact ⟨ht, hd, hout, hes, hplan⟩,
    by simp [h.no_closingTarget hp.closing], by simp, by simp [he], by simp [h.unarmed hn], by simp⟩

theorem migrating_count {r : RetuneRequest} {mode : MigrationMode} {target : Option EngineId} (h : l.Wf)
    (hs : l.state = .active ∨ l.state = .disturbed) (f : EngineId) :
    ({ l with state := .migrating, migration := some (r.migration mode target) } : Lease).countOn f =
      l.countOn f + if target = some f then 1 else 0 := by
  have hp := LeaseState.Plain.of_active_or_disturbed hs
  rw [h.plain_countOn hp, Lease.countOn_eq]
  by_cases ht : target = some f <;>
    simp [Lease.migrationTarget, RetuneRequest.migration, h.no_closingTarget hp.closing, ht]

theorem retuneLocal (told : Bool) {r : RetuneRequest} (e : EngineId) (h : s.BooksBut q)
    (hf : s.RetuneFits i l r) (hs : l.state = .active ∨ l.state = .disturbed) (hserved : l.servedUnder r = true) :
    (s.retuneLocal told i l r e).BooksBut q := by
  have hw := h.leases i l hf.lease
  exact (((h.relabel hf.lease (migrating_wf hw hf.entries hf.outputs hs (by simp) (by simp)
    fun _ => Lease.servedUnder_plan hserved) fun f => by rw [migrating_count hw hs]; simp).giveEach _ _).tell told i).settle told i

theorem retuneOverlap (told : Bool) {r : RetuneRequest} {e : EngineId} (h : s.BooksBut q)
    (hf : s.RetuneFits i l r) (hs : l.state = .active ∨ l.state = .disturbed)
    (ha : s.ask (r.alloc l) = .ok e) : (s.retuneOverlap told i l r e).BooksBut q := by
  have hw := h.leases i l hf.lease
  obtain ⟨hans, hex⟩ := State.ask_answers ha
  have hb : ((s.commit (r.alloc l) e).beginMigration i l (r.migration .overlap (some e))).BooksBut q :=
    h.exchange hans none (migrating_wf hw hf.entries hf.outputs hs (by simp)
      (fun _ hk => hex hk.symm) (by simp)) fun f => by
        rw [migrating_count hw hs, State.countAt_of_lease hf.lease]
        simp [eq_comm]
  unfold State.retuneOverlap
  dsimp only
  split
  · exact ((hb.giveEach _ _).tell told i).settle told i
  · exact (hb.tell told i).settle told i

theorem reserve {e : EngineId} (h : s.BooksBut q) (hu : (s.engine e).users = 1) : (s.reserve e).BooksBut q := by
  obtain ⟨h1, h2, h3, h4, h5⟩ := h.engines e
  exact h.setEngine (x := { s.engine e with reserved := true }) e rfl ⟨h1, h2, h3, h4, fun _ => hu⟩

theorem retuneGap (told : Bool) {r : RetuneRequest} {e : EngineId} (h : s.BooksBut q)
    (hf : s.RetuneFits i l r) (hs : l.state = .active ∨ l.state = .disturbed)
    (hu : (s.engine e).users = 1) : (s.retuneGap told i l r e).BooksBut q := by
  have hw := h.leases i l hf.lease
  exact ((((h.reserve hu).relabel (l := l) hf.lease (migrating_wf hw hf.entries hf.outputs hs (by simp) (by simp)
    (by simp)) fun f => by rw [migrating_count hw hs]; simp).giveEach _ _).tell told i).settle told i

end State.BooksBut

/-! ### Every step keeps the books -/

theorem State.Blank.books {s : State} (h : s.Blank) : s.BooksBut none where
  leases i l hl := by rw [h.leases] at hl; cases hl
  users e := by
    rw [h.engines, s.usersOf_eq_sum]
    exact (Finset.sum_eq_zero fun i _ => State.countAt_of_none (h.leases i) e).symm
  engines e := h.engines e ▸ .initial

theorem booksBut_stepClosed : StepClosed (State.BooksBut none) where
  board k h := h.board k
  blank h := h.books
  ticked e n h := h.setEngine (x := (_ : EngineRec).tick n) e rfl ((h.engines e).congr rfl rfl rfl rfl)
  cleared e h hs := h.setEngine (x := (_ : EngineRec).turnOff) e rfl (.turnOff (by
    rcases hs with hs | hs
    · exact (h.engines e).unused (.inr hs)
    · exact ((h.engines e).faulted hs).resolve_left (by simp)))
  locked e h hs := forEach_keeps (P := State.BooksBut none) (onLocked e) (fun i _ hu => hu.onLocked e i) allSlots
    (h.setEngine (x := (_ : EngineRec).lock) e rfl ((h.engines e).lock ((h.engines e).users_pos (by tauto))))
  slipped e n h hs := forEach_keeps (P := State.BooksBut none) (onSlip e) (fun i _ hu => hu.onSlip e i) allSlots
    (h.setEngine (x := (_ : EngineRec).slip n) e rfl
      ((h.engines e).slip n ((h.engines e).users_pos (.inr (.inl hs)))))
  faulted e r h _ := h.declareFault e r
  reselected h := h.announceSelection
  completed o h _ := h.completed o _
  opened p _ _ _ _ _ h hc := h.openAccepted p hc
  started p _ h hc := h.started p hc
  rewritten told _ _ _ h hf hs _ := h.retuneInPlace told hf hs
  rebound told _ _ _ _ h hf hs ha := h.rebind told hf hs ha
  redivided told _ _ _ e h hf hs _ hserved := h.retuneLocal told e hf hs hserved
  overlapped told _ _ _ _ _ h hf hs _ ha := h.retuneOverlap told hf hs ha
  quieted told _ _ _ _ h hf hs _ hu := h.retuneGap told hf hs hu
  ended told r _ _ h hl hs := h.endLease told r hl hs
  retried told _ _ _ cls pin _ _ h hc := h.retryAccepted told cls pin hc

/-- Settles O56: the operations that write the board keep the books, those of a fault up to its end. -/
theorem stepKeepsBooks : Obligations.StepKeepsBooks := by
  intro s t h hst
  rw [← State.booksBut_none_iff] at h ⊢
  exact booksBut_stepClosed.step h hst

end Sys2Proof.Machine

/-! ## Leases, engines and outputs in agreement

The agreement while a fault is being applied, and what an operation on one slot leaves to the others. -/

namespace Sys2Proof.Machine

/-! ### The ties of one output -/

/-- A target given ties an output to nothing but the target's engine (R76, R77). -/
theorem OutState.give_tiedTo {st : OutState} {g : Target} {e : EngineId} (h : (st.give g).tiedTo e = true) :
    st.tiedTo e = true ∨ g.isOn e = true := by
  cases st with
  | quiet => by_cases hg : g = .quiet <;> simp_all [OutState.give, OutState.tiedTo, Target.isOn]
  | running f k => by_cases hg : g = .clock f k <;> simp_all [OutState.give, OutState.tiedTo, Target.isOn]
  | changing a b w =>
    by_cases hg : g = b
    · simp_all [OutState.give, OutState.tiedTo]
    · simp only [OutState.give, hg, if_false, OutState.tiedTo, Option.any_some, Bool.or_eq_true] at h ⊢
      tauto

/-- A completion ties an output to nothing new (R78). -/
theorem OutState.complete_tiedTo {st : OutState} {e : EngineId} (h : st.complete.tiedTo e = true) :
    st.tiedTo e = true := by
  cases st with
  | quiet => exact h
  | running f k => exact h
  | changing a b w =>
    cases w with
    | none => cases b <;> simp_all [OutState.complete, OutState.ofTarget, OutState.tiedTo, Target.isOn]
    | some t =>
      simp only [OutState.complete, OutState.tiedTo, Option.any_none, Option.any_some, Bool.or_eq_true] at h ⊢
      tauto

/-- A sound output that is tied to no engine is QUIET. -/
theorem OutState.Sound.quiet_of_untied {st : OutState} (h : st.Sound) (hu : ∀ e, st.tiedTo e = false) :
    st = .quiet := by
  cases st with
  | quiet => rfl
  | running f k => simpa [OutState.tiedTo] using hu f
  | changing a b w =>
    cases a with
    | clock f k => have := hu f; simp [OutState.tiedTo, Target.isOn] at this
    | quiet =>
      cases b with
      | clock f k => have := hu f; simp [OutState.tiedTo, Target.isOn] at this
      | quiet => exact absurd rfl h.1

/-- An output after a round of targets: as it was, or given one of them. -/
theorem State.giveEach_cases (s : State) (want : OutState → Entry → Option Target) {es : List Entry}
    (hn : (outputsOf es).Nodup) (o : OutputId) :
    (s.giveEach want es).output o = s.output o ∨ ∃ x ∈ es, ∃ g, x.output = o ∧
      want (s.output o).state x = some g ∧ (s.giveEach want es).output o = (s.output o).given g := by
  by_cases ho : o ∈ outputsOf es
  · obtain ⟨x, hx, rfl⟩ := List.mem_map.1 ho
    have h := s.giveEach_output want es hn hx
    unfold giveRec at h
    split at h
    · exact .inl h
    · rename_i g hg; exact .inr ⟨x, hx, g, rfl, hg, h⟩
  · exact .inl (s.giveEach_output_not_mem want es ho)

/-! ### The agreement while a fault is being applied -/

/-- A lease state whose outputs are QUIET (R15, R118). -/
def LeaseState.Silent (st : LeaseState) : Prop := st = .pending ∨ st = .ready ∨ st = .failed

/-- `State.Sound` while the fault of engine `q`, if any, is being applied: the outputs tied to it have been forced
quiet (R83). -/
structure State.SoundBut (q : Option EngineId) (s : State) : Prop where
  targets : s.OutputsSound
  books : s.BooksBut q
  holders : s.HoldersOk
  ties : s.TiesOk
  forced : ∀ e, q = some e → ∀ o, (s.output o).state.tiedTo e = false

theorem State.soundBut_none_iff (s : State) : s.SoundBut none ↔ s.Sound :=
  ⟨fun h => ⟨h.targets, s.booksBut_none_iff.1 h.books, h.holders, h.ties⟩,
    fun h => ⟨h.targets, s.booksBut_none_iff.2 h.books, h.holders, h.ties, by simp⟩⟩

namespace State.SoundBut

variable {q : Option EngineId} {s t : State} {i : SlotId} {l : Lease}

theorem board (h : s.SoundBut q) (k : SameBoard s t) : t.SoundBut q where
  targets o := k.outputs o ▸ h.targets o
  books := h.books.board k
  holders := ⟨fun o i hi => by rw [k.leases]; exact h.holders.held o i (k.outputs o ▸ hi),
    fun i l hl o ho => by rw [k.outputs]; exact h.holders.listed i l (k.leases i ▸ hl) o ho,
    fun o ho => by rw [k.outputs] at ho ⊢; exact h.holders.free o ho⟩
  ties := ⟨fun o e ht => by
      rw [k.outputs] at ht ⊢
      obtain ⟨i, l, hi, hl, hc⟩ := h.ties.tied o e ht
      exact ⟨i, l, hi, (k.leases i).trans hl, hc⟩,
    fun i l hl hs o ho => by rw [k.outputs]; exact h.ties.quiet i l (k.leases i ▸ hl) hs o ho⟩
  forced e he o := by rw [k.outputs]; exact h.forced e he o

/-- The outputs of a lease are tied to engines that it counts on (R75). -/
theorem tied_countOn (h : s.SoundBut q) (hl : s.lease? i = some l) {o : OutputId} (ho : o ∈ outputsOf l.entries)
    {e : EngineId} (ht : (s.output o).state.tiedTo e = true) : 0 < l.countOn e := by
  obtain ⟨j, k, hj, hk, hc⟩ := h.ties.tied o e ht
  have := h.holders.listed i l hl o ho
  rw [hj] at this
  cases this
  rw [hl] at hk
  cases hk
  exact hc

/-- An output of another slot's lease is not held by this slot. -/
theorem holder_ne (h : s.SoundBut q) {j : SlotId} (hj : j ≠ i) {k : Lease} (hk : s.lease? j = some k)
    {o : OutputId} (ho : o ∈ outputsOf k.entries) : (s.output o).holder ≠ some i := by
  rw [h.holders.listed j k hk o ho]
  simpa using hj

/-- An output held by no other slot's lease is listed by the lease of its holder. -/
theorem mem_of_holder (h : s.SoundBut q) (hl : s.lease? i = some l) {o : OutputId}
    (ho : (s.output o).holder = some i) : o ∈ outputsOf l.entries := by
  obtain ⟨k, hk, hm⟩ := h.holders.held o i ho
  rw [hl] at hk
  cases hk
  exact hm

/-- A lease that counts on nothing but an engine whose ties were forced quiet has QUIET outputs (R83, R117). -/
theorem quiet_of_forced (h : s.SoundBut (some e)) (hl : s.lease? i = some l)
    (hc : ∀ f, 0 < l.countOn f → f = e) {o : OutputId} (ho : o ∈ outputsOf l.entries) :
    (s.output o).state = .quiet := by
  refine (h.targets o).quiet_of_untied fun f => ?_
  cases ht : (s.output o).state.tiedTo f with
  | false => rfl
  | true =>
    have := hc f (h.tied_countOn hl ho ht)
    subst this
    rw [h.forced _ rfl o] at ht
    cases ht

end State.SoundBut

/-! ### What an operation on one slot leaves to the others -/

/-- `t` is sound, and to the leases of the slots other than `i` it leaves what it found in `s`: the lease, the standing
and reservation of every engine that it counts on, those of `X` excepted, and its outputs. -/
structure SoundFrom (X : EngineId → Prop) (q : Option EngineId) (i : SlotId) (s t : State) : Prop where
  sound : t.SoundBut q
  lease : ∀ j, j ≠ i → t.lease? j = s.lease? j
  engine : ∀ j, j ≠ i → ∀ f, 0 < s.countAt j f → ¬ X f →
    (t.engine f).state = (s.engine f).state ∧ (t.engine f).reserved = (s.engine f).reserved
  output : ∀ j, j ≠ i → ∀ l, s.lease? j = some l → ∀ o ∈ outputsOf l.entries, t.output o = s.output o

/-- The engine of a GAP migration of slot `i`, if any, is of `X`. -/
def State.GapIn (X : EngineId → Prop) (i : SlotId) (s : State) : Prop :=
  ∀ l m e, s.lease? i = some l → l.migration = some m → m.mode = .gap → l.engine = some e → X e

section kept

variable (s : State)

/-- An engine that still has a user after it lost one stands as it did (R55, R57). -/
theorem EngineRec.dropUser_kept (n : Nat) (x : EngineRec) (h : 0 < (x.dropUser n).users) :
    (x.dropUser n).state = x.state ∧ (x.dropUser n).reserved = x.reserved := by
  rw [EngineRec.dropUser_users] at h
  unfold EngineRec.dropUser
  rw [if_neg (by omega)]
  exact ⟨rfl, rfl⟩

theorem State.dropUser_kept (o : Option EngineId) (f : EngineId) (h : 0 < ((s.dropUser o).engine f).users) :
    ((s.dropUser o).engine f).state = (s.engine f).state ∧
      ((s.dropUser o).engine f).reserved = (s.engine f).reserved := by
  by_cases ho : o = some f
  · rw [s.dropUser_engine, if_pos ho] at h ⊢
    exact EngineRec.dropUser_kept _ _ h
  · rw [s.dropUser_engine, if_neg ho]
    exact ⟨rfl, rfl⟩

theorem State.giveUp_kept (l : Lease) (f : EngineId) (h : 0 < ((s.giveUp l).engine f).users) :
    ((s.giveUp l).engine f).state = (s.engine f).state ∧
      ((s.giveUp l).engine f).reserved = (s.engine f).reserved := by
  unfold State.giveUp at h ⊢
  have h1 := State.dropUser_kept _ _ _ h
  rw [State.dropUser_users, State.setHolders_engine] at h
  rw [State.setHolders_engine] at h1
  have hu := Nat.lt_of_lt_of_le h (Nat.sub_le _ _)
  have h2 := State.dropUser_kept _ _ _ hu
  rw [State.dropUser_users] at hu
  have h3 := State.dropUser_kept _ _ _ (Nat.lt_of_lt_of_le hu (Nat.sub_le _ _))
  exact ⟨h1.1.trans (h2.1.trans h3.1), h1.2.trans (h2.2.trans h3.2)⟩

/-- An engine with a user that takes another stands as it did (R61). -/
theorem EngineRec.commit_kept {x : EngineRec} {q : Prop} (hx : x.CountBut q) (r : AllocRequest) (b : Bool)
    (n : Nat) (h : 0 < x.users) : (x.commit r b n).state = x.state ∧ (x.commit r b n).reserved = x.reserved := by
  unfold EngineRec.commit
  dsimp only
  split
  case h_1 hs => exact absurd (hx.unused (.inl hs)) (by omega)
  case h_2 hs => exact absurd (hx.unused (.inr hs)) (by omega)
  all_goals exact ⟨rfl, rfl⟩

end kept

namespace SoundFrom

variable {X : EngineId → Prop} {q : Option EngineId} {i : SlotId} {s t u : State} {l k : Lease}

theorem refl (h : s.SoundBut q) : SoundFrom X q i s s :=
  ⟨h, fun _ _ => rfl, fun _ _ _ _ _ => ⟨rfl, rfl⟩, fun _ _ _ _ _ _ => rfl⟩

/-- Two operations on the same slot, one after the other; the second is sound by itself. -/
theorem trans (h : SoundFrom X q i s t) (k : SoundFrom X q i t u) : SoundFrom X q i s u where
  sound := k.sound
  lease j hj := (k.lease j hj).trans (h.lease j hj)
  engine j hj f hf hX := by
    have h1 := h.engine j hj f hf hX
    have h2 := k.engine j hj f (State.countAt_congr (h.lease j hj) f ▸ hf) hX
    exact ⟨h2.1.trans h1.1, h2.2.trans h1.2⟩
  output j hj l hl o ho := (k.output j hj l ((h.lease j hj).trans hl) o ho).trans (h.output j hj l hl o ho)

theorem board (h : SoundFrom X q i s t) (k : SameBoard t u) : SoundFrom X q i s u :=
  h.trans ⟨h.sound.board k, fun j _ => k.leases j, fun _ _ f _ _ => by rw [k.engines]; exact ⟨rfl, rfl⟩,
    fun _ _ _ _ o _ => k.outputs o⟩

theorem tell (told : Bool) (h : SoundFrom X q i s t) : SoundFrom X q i s (t.tell told i) :=
  h.board ((SameBoard.refl t).tell told i)

/-- The lease of slot `i` is rewritten over the same outputs, which stay; engines may lose or take users. -/
theorem rewrite (h : SoundFrom X q i s t) (hl : t.lease? i = some l) (hb : u.BooksBut q)
    (hk : u.lease? i = some k) (others : ∀ j, j ≠ i → u.lease? j = t.lease? j)
    (outs : ∀ o, u.output o = t.output o) (same : outputsOf k.entries = outputsOf l.entries)
    (ties : ∀ o ∈ outputsOf l.entries, ∀ e, (t.output o).state.tiedTo e = true → 0 < k.countOn e)
    (quiet : k.state.Silent → ∀ o ∈ outputsOf l.entries, (t.output o).state = .quiet)
    (eng : ∀ j, j ≠ i → ∀ f, 0 < t.countAt j f → ¬ X f →
      (u.engine f).state = (t.engine f).state ∧ (u.engine f).reserved = (t.engine f).reserved) :
    SoundFrom X q i s u := by
  refine h.trans ⟨⟨fun o => outs o ▸ h.sound.targets o, hb, ⟨fun o j hj => ?_, fun j k' hk' o ho => ?_,
    fun o ho => ?_⟩, ⟨fun o e ht => ?_, fun j k' hk' hs o ho => ?_⟩, fun e he o => ?_⟩, others, eng,
    fun _ _ _ _ o _ => outs o⟩
  · rw [outs] at hj
    by_cases hji : j = i
    · subst hji
      exact ⟨k, hk, same ▸ h.sound.mem_of_holder hl hj⟩
    · rw [others j hji]
      exact h.sound.holders.held o j hj
  · rw [outs]
    by_cases hji : j = i
    · subst hji
      rw [hk] at hk'
      cases hk'
      exact h.sound.holders.listed j l hl o (same ▸ ho)
    · exact h.sound.holders.listed j k' (others j hji ▸ hk') o ho
  · rw [outs] at ho ⊢
    exact h.sound.holders.free o ho
  · rw [outs] at ht ⊢
    obtain ⟨j, k', hj, hk', hc⟩ := h.sound.ties.tied o e ht
    by_cases hji : j = i
    · subst hji
      exact ⟨j, k, hj, hk, ties o (h.sound.mem_of_holder hl hj) e ht⟩
    · exact ⟨j, k', hj, (others j hji).trans hk', hc⟩
  · rw [outs]
    by_cases hji : j = i
    · subst hji
      rw [hk] at hk'
      cases hk'
      exact quiet hs o (same ▸ ho)
    · exact h.sound.ties.quiet j k' (others j hji ▸ hk') hs o ho
  · rw [outs]
    exact h.sound.forced e he o

/-- The lease of slot `i` is rewritten; it counts as before, on the same outputs. -/
theorem relabel (h : SoundFrom X q i s t) (hl : t.lease? i = some l) (wf : k.Wf)
    (hc : ∀ f, k.countOn f = l.countOn f) (same : outputsOf k.entries = outputsOf l.entries)
    (quiet : k.state.Silent → ∀ o ∈ outputsOf l.entries, (t.output o).state = .quiet) :
    SoundFrom X q i s (t.setLease i k) :=
  h.rewrite hl (h.sound.books.relabel hl wf hc) (State.lease_setLease_same _ _ _)
    (fun _ hj => t.lease_setLease_ne i hj k) (fun _ => rfl) same
    (fun _ ho _ ht => hc _ ▸ h.sound.tied_countOn hl ho ht) quiet fun _ _ _ _ _ => ⟨rfl, rfl⟩

/-- The outputs of the lease of slot `i` are given targets on engines that it counts on. -/
theorem giveEach (h : SoundFrom X q i s t) (hl : t.lease? i = some l) (want : OutState → Entry → Option Target)
    {es : List Entry} (hes : outputsOf es = outputsOf l.entries) (hs : ¬ l.state.Silent)
    (hw : ∀ st x g e, want st x = some g → g.isOn e = true → 0 < l.countOn e ∧ q ≠ some e) :
    SoundFrom X q i s (t.giveEach want es) := by
  have hn : (outputsOf es).Nodup := hes ▸ (h.sound.books.leases i l hl).entries.nodup
  have cases := t.giveEach_cases want hn
  have kept : ∀ o, o ∉ outputsOf l.entries → (t.giveEach want es).output o = t.output o := fun o ho =>
    t.giveEach_output_not_mem want es (hes ▸ ho)
  refine h.trans ⟨⟨fun o => ?_, h.sound.books.giveEach want es, ⟨fun o j hj => ?_, fun j k hk o ho => ?_,
    fun o ho => ?_⟩, ⟨fun o e ht => ?_, fun j k hk hsk o ho => ?_⟩, fun e he o => ?_⟩, fun j _ => by simp,
    fun _ _ _ _ _ => by simp, fun j hj k hk o ho => kept o fun hm => ?_⟩
  · rcases cases o with heq | ⟨x, -, g, -, -, heq⟩ <;> rw [heq]
    · exact h.sound.targets o
    · exact (h.sound.targets o).give g
  · rw [State.giveEach_holder] at hj
    rw [State.giveEach_lease]
    exact h.sound.holders.held o j hj
  · rw [State.giveEach_holder]
    rw [State.giveEach_lease] at hk
    exact h.sound.holders.listed j k hk o ho
  · rw [State.giveEach_holder] at ho
    rw [kept o fun hm => by rw [h.sound.holders.listed i l hl o hm] at ho; cases ho]
    exact h.sound.holders.free o ho
  · rw [State.giveEach_holder]
    simp only [State.giveEach_lease]
    rcases cases o with heq | ⟨x, hx, g, rfl, hg, heq⟩ <;> rw [heq] at ht
    · exact h.sound.ties.tied o e ht
    · rcases OutState.give_tiedTo ht with ht | ht
      · exact h.sound.ties.tied _ e ht
      · have hm : x.output ∈ outputsOf l.entries := hes ▸ List.mem_map_of_mem hx
        exact ⟨i, l, h.sound.holders.listed i l hl _ hm, hl, (hw _ _ _ _ hg ht).1⟩
  · rw [State.giveEach_lease] at hk
    have hne : j ≠ i := fun hji => by
      subst hji
      rw [hl] at hk
      cases hk
      exact hs hsk
    rw [kept o fun hm => h.sound.holder_ne hne hk ho (h.sound.holders.listed i l hl o hm)]
    exact h.sound.ties.quiet j k hk hsk o ho
  · rcases cases o with heq | ⟨x, -, g, -, hg, heq⟩ <;> rw [heq]
    · exact h.sound.forced e he o
    · cases ht : ((t.output o).given g).state.tiedTo e with
      | false => rfl
      | true =>
        rcases OutState.give_tiedTo ht with ht | ht
        · rw [h.sound.forced e he o] at ht; cases ht
        · exact absurd he (hw _ _ _ _ hg ht).2
  · exact h.sound.holder_ne hj hk ho (h.sound.holders.listed i l hl o hm)

/-- The lease of slot `i` ends; its outputs, all QUIET, lose their holder (R112, R115). -/
theorem free (h : SoundFrom X q i s t) (hl : t.lease? i = some l)
    (hq : ∀ o ∈ outputsOf l.entries, (t.output o).state = .quiet) (hb : u.BooksBut q)
    (others : ∀ j, j ≠ i → u.lease? j = t.lease? j) (gone : u.lease? i = none)
    (mem : ∀ o ∈ outputsOf l.entries, u.output o = { t.output o with holder := none })
    (kept : ∀ o, o ∉ outputsOf l.entries → u.output o = t.output o)
    (eng : ∀ j, j ≠ i → ∀ f, 0 < t.countAt j f → ¬ X f →
      (u.engine f).state = (t.engine f).state ∧ (u.engine f).reserved = (t.engine f).reserved) :
    SoundFrom X q i s u := by
  have states : ∀ o, (u.output o).state = (t.output o).state := fun o => by
    by_cases ho : o ∈ outputsOf l.entries
    · rw [mem o ho]
    · rw [kept o ho]
  have away : ∀ {j k}, u.lease? j = some k → j ≠ i ∧ t.lease? j = some k := fun {j k} hk => by
    have hne : j ≠ i := fun hji => by rw [hji, gone] at hk; cases hk
    exact ⟨hne, others j hne ▸ hk⟩
  have keeps : ∀ {j k o}, j ≠ i → t.lease? j = some k → o ∈ outputsOf k.entries → u.output o = t.output o :=
    fun hj hk ho => kept _ fun hm => h.sound.holder_ne hj hk ho (h.sound.holders.listed i l hl _ hm)
  have held : ∀ {o j}, (u.output o).holder = some j → j ≠ i ∧ (t.output o).holder = some j := fun {o j} hj => by
    by_cases ho : o ∈ outputsOf l.entries
    · rw [mem o ho] at hj; cases hj
    · rw [kept o ho] at hj
      exact ⟨fun hji => ho (h.sound.mem_of_holder hl (hji ▸ hj)), hj⟩
  refine h.trans ⟨⟨fun o => states o ▸ h.sound.targets o, hb, ⟨fun o j hj => ?_, fun j k hk o ho => ?_,
    fun o ho => ?_⟩, ⟨fun o e ht => ?_, fun j k hk hs o ho => ?_⟩,
    fun e he o => states o ▸ h.sound.forced e he o⟩, others, eng, fun j hj k hk o ho => keeps hj hk ho⟩
  · obtain ⟨hne, hj⟩ := held hj
    rw [others j hne]
    exact h.sound.holders.held o j hj
  · obtain ⟨hne, hk⟩ := away hk
    rw [keeps hne hk ho]
    exact h.sound.holders.listed j k hk o ho
  · rw [states]
    by_cases hm : o ∈ outputsOf l.entries
    · exact hq o hm
    · exact h.sound.holders.free o (kept o hm ▸ ho)
  · rw [states] at ht
    obtain ⟨j, k, hj, hk, hc⟩ := h.sound.ties.tied o e ht
    have hne : j ≠ i := fun hji => by
      subst hji
      have := hq o (h.sound.mem_of_holder hl hj)
      rw [this] at ht
      cases ht
    rw [keeps hne hk (h.sound.mem_of_holder hk hj)]
    exact ⟨j, k, hj, (others j hne).trans hk, hc⟩
  · obtain ⟨hne, hk⟩ := away hk
    rw [states]
    exact h.sound.ties.quiet j k hk hs o ho

end SoundFrom

end Sys2Proof.Machine

/-! ## The agreement: what befalls the lease of one slot -/

namespace Sys2Proof.Machine

/-- Every target that `want` names is QUIET or on the engine `o`. -/
def Aims (o : Option EngineId) (want : OutState → Entry → Option Target) : Prop :=
  ∀ st x g, want st x = some g → g = .quiet ∨ ∃ e d, o = some e ∧ g = .clock e d

namespace Aims

variable (e : EngineId)

theorem wantClock : Aims (some e) (Machine.wantClock e) := fun _ x _ h =>
  .inr ⟨e, x.divider, rfl, (Option.some.inj h).symm⟩

theorem wantClockUnlessRunning : Aims (some e) (Machine.wantClockUnlessRunning e) := fun st x g h => by
  unfold Machine.wantClockUnlessRunning at h
  split at h
  · cases h
  · exact wantClock e st x g h

theorem wantClockUnlessHeading : Aims (some e) (Machine.wantClockUnlessHeading e) := fun st x g h => by
  unfold Machine.wantClockUnlessHeading at h
  split at h
  · cases h
  · exact wantClock e st x g h

theorem wantClockIfHeadingQuiet : Aims (some e) (Machine.wantClockIfHeadingQuiet e) := fun st x g h => by
  unfold Machine.wantClockIfHeadingQuiet at h
  split at h
  · exact wantClock e st x g h
  · cases h

theorem wantNewDivider (es : List Entry) : Aims (some e) (Machine.wantNewDivider e es) := fun st x g h => by
  unfold Machine.wantNewDivider at h
  split at h
  · cases h
  · exact wantClock e st x g h

theorem wantQuiet (o : Option EngineId) : Aims o Machine.wantQuiet := fun _ _ _ h =>
  .inl (Option.some.inj h).symm

theorem wantQuietIfHeading (o : Option EngineId) : Aims o (Machine.wantQuietIfHeading e) := fun st x g h => by
  unfold Machine.wantQuietIfHeading at h
  split at h
  · exact wantQuiet o st x g h
  · cases h

end Aims

theorem State.giveUp_output_mem (s : State) {l : Lease} (hn : (outputsOf l.entries).Nodup) {o : OutputId}
    (ho : o ∈ outputsOf l.entries) : (s.giveUp l).output o = { s.output o with holder := none } := by
  obtain ⟨x, hx, rfl⟩ := List.mem_map.1 ho
  rw [State.giveUp, State.dropUser_output, State.setHolders_output _ _ _ hn hx, State.dropUser_output,
    State.dropUser_output]

theorem State.giveUp_output_not_mem (s : State) {l : Lease} {o : OutputId} (ho : o ∉ outputsOf l.entries) :
    (s.giveUp l).output o = s.output o := by
  rw [State.giveUp, State.dropUser_output, State.setHolders_output_not_mem _ _ _ ho, State.dropUser_output,
    State.dropUser_output]

/-- Every output of a list is QUIET. -/
theorem State.outputsAll_isQuiet {s : State} {es : List Entry} (h : s.outputsAll isQuiet es = true) :
    ∀ o ∈ outputsOf es, (s.output o).state = .quiet := by
  intro o ho
  obtain ⟨x, hx, rfl⟩ := List.mem_map.1 ho
  simpa [isQuiet] using List.all_eq_true.1 h x hx

/-- Every output of a list runs from one engine. -/
theorem State.outputsAll_runsAt {s : State} {e : EngineId} {es : List Entry} :
    s.outputsAll (runsAt e) es = true ↔ ∀ x ∈ es, (s.output x.output).state = .running e x.divider := by
  simp [State.outputsAll, runsAt]

theorem State.GapIn.of_lease {X : EngineId → Prop} {i : SlotId} {s t : State} {k l : Lease} (h : s.GapIn X i)
    (hl : s.lease? i = some l) (hk : t.lease? i = some k) (hm : k.migration = l.migration)
    (he : k.engine = l.engine) : t.GapIn X i := by
  intro k' m e hk' hm' hmode he'
  rw [hk] at hk'
  cases hk'
  exact h l m e hl (hm ▸ hm') hmode (he ▸ he')

theorem State.GapIn.of_mode {X : EngineId → Prop} {i : SlotId} {t : State} {k : Lease} {m : Migration}
    (hk : t.lease? i = some k) (hm : k.migration = some m) (hmode : m.mode ≠ .gap) : t.GapIn X i := by
  intro k' m' e hk' hm' hg _
  rw [hk] at hk'
  cases hk'
  rw [hm] at hm'
  cases hm'
  exact absurd hg hmode

namespace SoundFrom

variable {X : EngineId → Prop} {q : Option EngineId} {i : SlotId} {s t u : State} {l k : Lease}

theorem wf (h : SoundFrom X q i s t) (hl : t.lease? i = some l) : l.Wf := h.sound.books.leases i l hl

/-- The outputs of a silent lease are QUIET (R15, R118). -/
theorem silent (h : SoundFrom X q i s t) (hl : t.lease? i = some l) (hs : l.state.Silent) :
    ∀ o ∈ outputsOf l.entries, (t.output o).state = .quiet :=
  h.sound.ties.quiet i l hl hs

/-- The outputs of slot `i` are given targets that are QUIET or on one engine that the lease counts on. -/
theorem aim (h : SoundFrom X q i s t) (hl : t.lease? i = some l) {o : Option EngineId}
    {want : OutState → Entry → Option Target} (ha : Aims o want) {es : List Entry}
    (hes : outputsOf es = outputsOf l.entries) (hs : ¬ l.state.Silent)
    (ho : ∀ e, o = some e → 0 < l.countOn e ∧ q ≠ some e) : SoundFrom X q i s (t.giveEach want es) :=
  h.giveEach hl want hes hs fun st x g e hg he => by
    rcases ha st x g hg with rfl | ⟨f, d, rfl, rfl⟩
    · cases he
    · have : f = e := by simpa [Target.isOn] using he
      exact this ▸ ho f rfl

/-- An engine that a lease of another slot counts on has a user. -/
theorem users_pos (hb : u.BooksBut q) (others : ∀ j, j ≠ i → u.lease? j = t.lease? j) {j : SlotId} (hj : j ≠ i)
    {f : EngineId} (hf : 0 < t.countAt j f) : 0 < (u.engine f).users := by
  rw [hb.users]
  exact lt_of_lt_of_le (State.countAt_congr (others j hj) f ▸ hf) (u.countAt_le_usersOf j f)

/-! ### Settling -/

theorem outputs_of_record (h : SoundFrom X q i s t) (hl : t.lease? i = some l) {m : Migration}
    (hm : l.migration = some m) {P : OutState → Prop} (ho : ∀ x ∈ m.entries, P (t.output x.output).state) :
    ∀ o ∈ outputsOf l.entries, P (t.output o).state := fun o hmem => by
  rw [← ((h.wf hl).record m hm).outputs] at hmem
  obtain ⟨x, hx, rfl⟩ := List.mem_map.1 hmem
  exact ho x hx

theorem finishLocal (h : SoundFrom X q i s t) (hl : t.lease? i = some l) {m : Migration}
    (hs : l.state = .migrating) (hm : l.migration = some m) (hmode : m.mode = .loc) :
    SoundFrom X q i s (t.finishMigration i l m) := by
  have hb := h.sound.books.finishMigration hl hs hm
  have hw := h.wf hl
  have hst := t.activeIfLocked_ne l.engine
  have hp := t.activeIfLocked_plain l.engine
  unfold State.finishMigration at hb ⊢
  simp only [hmode] at hb ⊢
  refine h.rewrite hl hb (State.lease_setLease_same _ _ _) (fun _ hj => t.lease_setLease_ne i hj _) (fun _ => rfl)
    (hw.record m hm).outputs (fun o ho e ht => ?_) (fun hsil => ?_) fun _ _ _ _ _ => ⟨rfl, rfl⟩
  · have := h.sound.tied_countOn hl ho ht
    rw [hw.migrating_countOn hs hm, hw.target_none hm (by simp [hmode])] at this
    refine Lease.countOn_pos_of_engine (e := e) ?_
    by_contra hne
    simp [show l.engine ≠ some e from hne] at this
  · exact absurd hsil fun hsil => by rcases hsil with h | h | h; exacts [hst.1 h, hst.2 h, hp.failed h]

theorem finishOverlap (h : SoundFrom X q i s t) (hl : t.lease? i = some l) {m : Migration}
    (hs : l.state = .migrating) (hm : l.migration = some m) (hmode : m.mode = .overlap) (hgoal : t.AtGoal l m) :
    SoundFrom X q i s (t.finishMigration i l m) := by
  have hb := h.sound.books.finishMigration hl hs hm
  have hw := h.wf hl
  have hst := (t.dropUser l.engine).activeIfLocked_ne m.target
  have hp := (t.dropUser l.engine).activeIfLocked_plain m.target
  have others : ∀ j, j ≠ i → (t.finishMigration i l m).lease? j = t.lease? j := fun j hj => by
    unfold State.finishMigration
    simp only [hmode]
    rw [State.lease_setLease_ne _ _ hj, State.dropUser_lease]
  have kept := fun j hj f hf => users_pos (f := f) hb others (j := j) hj hf
  unfold State.AtGoal at hgoal
  simp only [hmode] at hgoal
  obtain ⟨g, hg, hrun⟩ := hgoal
  unfold State.finishMigration at hb others kept ⊢
  simp only [hmode] at hb others kept ⊢
  refine h.rewrite hl hb (State.lease_setLease_same _ _ _) others (fun o => by simp)
    (hw.record m hm).outputs (fun o ho e ht => ?_) (fun hsil => ?_) fun j hj f hf _ => ?_
  · have := h.outputs_of_record hl hm (P := fun st => st.tiedTo e = true → g = e)
      (fun x hx hk => by rw [hrun x hx] at hk; simpa [OutState.tiedTo] using hk) o ho ht
    subst this
    exact Lease.countOn_pos_of_engine (e := g) hg
  · exact absurd hsil fun hsil => by rcases hsil with h | h | h; exacts [hst.1 h, hst.2 h, hp.failed h]
  · exact t.dropUser_kept l.engine f (kept j hj f hf)

theorem finishGap (h : SoundFrom X q i s t) (hl : t.lease? i = some l) {m : Migration}
    (hs : l.state = .migrating) (hm : l.migration = some m) (hmode : m.mode = .gap) (hgoal : t.AtGoal l m)
    (hX : t.GapIn X i) : SoundFrom X q i s (t.finishMigration i l m) := by
  have hb := h.sound.books.finishMigration hl hs hm
  have hw := h.wf hl
  obtain ⟨e, he⟩ := hw.migrating_engine hs hm (by simp [hmode])
  unfold State.AtGoal at hgoal
  simp only [hmode] at hgoal
  have quiet : ∀ o ∈ outputsOf l.entries, (t.output o).state = .quiet := fun o ho => by
    obtain ⟨x, hx, rfl⟩ := List.mem_map.1 ho
    exact hgoal x hx
  unfold State.finishMigration at hb ⊢
  simp only [hmode, he] at hb ⊢
  refine h.rewrite hl hb (State.lease_setLease_same _ _ _)
    (fun _ hj => State.lease_setLease_ne _ i hj _) (fun _ => rfl) (hw.record m hm).outputs
    (fun o ho f ht => ?_) (fun _ => quiet) fun j hj f hf hXf => ?_
  · rw [quiet o ho] at ht; cases ht
  · have hne : f ≠ e := fun hfe => hXf (hfe ▸ hX l m e hl hm hmode he)
    rw [State.engine_setLease, State.reprogram, State.engine_setEngine, if_neg hne]
    exact ⟨rfl, rfl⟩

theorem settle (told : Bool) (h : SoundFrom X q i s t) (hX : t.GapIn X i) :
    SoundFrom X q i s (t.settle told i) := by
  unfold State.settle
  split
  · exact h
  rename_i l hl
  split
  · rename_i m hs hm
    split
    · rename_i hset
      have hgoal := (t.settled_iff_atGoal l m).1 hset
      refine SoundFrom.tell told ?_
      cases hmode : m.mode with
      | loc => exact h.finishLocal hl hs hm hmode
      | overlap => exact h.finishOverlap hl hs hm hmode hgoal
      | gap => exact h.finishGap hl hs hm hmode hgoal hX
    · exact h
  · exact h

/-! ### Announcements -/

/-- A lease moved between plain states, silent only from a silent one. -/
theorem restate (h : SoundFrom X q i s t) (hl : t.lease? i = some l) (hs : l.state.Plain) (hk : k.state.Plain)
    (same : l.SameClaims k) (ha : k.armed = true → k.state = .pending ∧ k.flags.heldStart = true)
    (hr : k.state = .ready → k.flags.heldStart = true) (hsil : k.state.Silent → l.state.Silent) :
    SoundFrom X q i s (t.setLease i k) :=
  h.relabel hl ((h.wf hl).restate hs hk same ha hr) same.countOn (by rw [same.entries])
    fun hk => h.silent hl (hsil hk)

theorem background {st : LeaseState} (r : Reason) (h : SoundFrom X q i s t) (hl : t.lease? i = some l)
    (hs : l.state.Plain) (hst : st.Plain) (same : l.SameClaims k)
    (ha : k.armed = true → st = .pending ∧ k.flags.heldStart = true)
    (hr : st = .ready → k.flags.heldStart = true) (hsil : st.Silent → l.state.Silent) :
    SoundFrom X q i s (t.background i k st r) :=
  (h.restate (k := { k with state := st, reason := r }) hl hs hst
    ⟨same.engine, same.migration, same.closingTarget, same.entries, same.plan, same.flags⟩ ha hr hsil).board
    ((SameBoard.refl _).raise i false)

theorem renote (r : Reason) (h : SoundFrom X q i s t) (hl : t.lease? i = some l) :
    SoundFrom X q i s (t.background i l l.state r) :=
  (h.relabel (k := { l with state := l.state, reason := r }) hl
    ((h.wf hl).congr ⟨rfl, rfl, rfl, rfl, rfl, rfl⟩ rfl rfl) (fun _ => rfl) rfl fun hs => h.silent hl hs).board
    ((SameBoard.refl _).raise i false)

/-- A lease on a slipping or holding engine becomes PENDING from READY, or DISTURBED. -/
theorem unsettle {st : LeaseState} (r : Reason) (h : SoundFrom X q i s t) (hl : t.lease? i = some l)
    (hs : l.state.Plain) (hn : l.state ≠ .pending)
    (hst : st = .pending ∧ l.state = .ready ∨ st = .disturbed) : SoundFrom X q i s (t.background i l st r) := by
  have ha := (h.wf hl).unarmed hn
  rcases hst with ⟨rfl, hr⟩ | rfl
  · exact h.background r hl hs .pending (.refl l) (by simp [ha]) (by simp) fun _ => .inr (.inl hr)
  · exact h.background r hl hs .disturbed (.refl l) (by simp [ha]) (by simp)
      (by simp [LeaseState.Silent])

theorem mute (h : SoundFrom X q i s t) (hl : t.lease? i = some k) (hes : l.entries = k.entries)
    (hs : ¬ k.state.Silent) : SoundFrom X q i s (t.mute l) := by
  unfold State.mute
  split
  · exact h.aim hl (.wantQuiet none) (by rw [hes]) hs (by simp)
  · exact h

theorem startPending {e : EngineId} (h : SoundFrom X none i s t) (hl : t.lease? i = some l)
    (hs : l.state = .pending) (he : l.engine = some e) : SoundFrom X none i s (t.startPending e i l) := by
  have hp : l.state.Plain := hs ▸ .pending
  unfold State.startPending
  split
  · rename_i hc
    simp only [Bool.and_eq_true, Bool.not_eq_true'] at hc
    exact h.background _ hl hp .ready (.refl l) (by simp [hc.2]) (fun _ => hc.1) fun _ => .inl hs
  · exact (h.background (k := { l with armed := false }) (st := .starting) _ hl hp .starting
      ⟨rfl, rfl, rfl, rfl, rfl, rfl⟩ (by simp) (by simp) (by simp [LeaseState.Silent])).aim
      (State.background_lease _ _ _ _ _) (.wantClock e) rfl (by simp [LeaseState.Silent])
      fun f hf => ⟨Lease.countOn_pos_of_engine (he.trans hf), by simp⟩

theorem relock {e : EngineId} (h : SoundFrom X none i s t) (hl : t.lease? i = some l)
    (hs : l.state = .disturbed) (he : l.engine = some e) : SoundFrom X none i s (t.relock e i l) := by
  have ha := (h.wf hl).unarmed (by simp [hs])
  unfold State.relock
  split
  · exact h.background _ hl (hs ▸ .disturbed) .active (.refl l) (by simp [ha]) (by simp)
      (by simp [LeaseState.Silent])
  · exact h.aim hl (.wantClockUnlessRunning e) rfl (by simp [hs, LeaseState.Silent])
      (by simpa using Lease.countOn_pos_of_engine he)

theorem migrationLocked {e : EngineId} {m : Migration} (h : SoundFrom X none i s t) (hl : t.lease? i = some l)
    (hs : l.state = .migrating) (hm : l.migration = some m) (he : 0 < l.countOn e) :
    SoundFrom X none i s (t.migrationLocked e l m) := by
  have hout := ((h.wf hl).record m hm).outputs
  have hsil : ¬ l.state.Silent := by simp [hs, LeaseState.Silent]
  unfold State.migrationLocked
  split
  · exact h.aim hl (.wantClockUnlessRunning e) hout hsil (by simpa using he)
  · split
    · exact h.aim hl (.wantClockUnlessHeading e) hout hsil (by simpa using he)
    · split
      · exact h
      · exact h.aim hl (.wantClockIfHeadingQuiet e) rfl hsil (by simpa using he)
  · exact h

theorem migrationLocked_lease (t : State) (e : EngineId) (l : Lease) (m : Migration) (j : SlotId) :
    (t.migrationLocked e l m).lease? j = t.lease? j := by
  unfold State.migrationLocked
  repeat' split
  all_goals simp

/-- The engine that is announced is the engine of a plain lease it concerns. -/
theorem engine_of_named {e : EngineId} (hw : l.Wf) (hs : l.state.Plain)
    (hn : (l.runsFrom e || l.migratesTo e) = true) : l.engine = some e := by
  have hm := Lease.migrationTarget_of_none (hw.no_migration hs.migrating)
  rcases Bool.or_eq_true_iff.1 hn with hn | hn
  · exact of_decide_eq_true hn
  · rw [Lease.migratesTo_iff, hm] at hn; cases hn

theorem countOn_of_named {e : EngineId} (hn : (l.runsFrom e || l.migratesTo e) = true) : 0 < l.countOn e := by
  rw [Lease.countOn_pos_iff]
  rcases Bool.or_eq_true_iff.1 hn with hn | hn
  · exact .inl (of_decide_eq_true hn)
  · exact .inr (.inl ((l.migratesTo_iff e).1 hn))

theorem onLocked (e : EngineId) (h : SoundFrom X none i s t) (hX : t.GapIn X i) :
    SoundFrom X none i s (Machine.onLocked e i t) := by
  unfold Machine.onLocked
  split
  · exact h
  rename_i l hl
  split
  swap
  · exact h
  rename_i hn
  split
  case h_1 hs => exact h.startPending hl hs (engine_of_named (h.wf hl) (hs ▸ .pending) hn)
  case h_2 hs => exact h.relock hl hs (engine_of_named (h.wf hl) (hs ▸ .disturbed) hn)
  case h_3 hs =>
    split
    · rename_i m hm
      exact (h.migrationLocked hl hs hm (countOn_of_named hn)).settle false
        (hX.of_lease hl ((migrationLocked_lease t e l m i).trans hl) rfl rfl)
    · exact h
  all_goals exact h

theorem migrationSlip {e : EngineId} {m : Migration} (h : SoundFrom X q i s t) (hl : t.lease? i = some k)
    (hes : l.entries = k.entries) (hs : ¬ k.state.Silent) : SoundFrom X q i s (t.migrationSlip e l m) := by
  unfold State.migrationSlip
  split
  · exact h.mute hl hes hs
  · split
    · exact h.aim hl (.wantQuietIfHeading e none) (by rw [hes]) hs (by simp)
    · exact h
  · exact h

theorem migrationSlip_lease (t : State) (e : EngineId) (l : Lease) (m : Migration) (j : SlotId) :
    (t.migrationSlip e l m).lease? j = t.lease? j := by
  unfold State.migrationSlip State.mute
  repeat' split
  all_goals simp

theorem onSlip (e : EngineId) (h : SoundFrom X none i s t) (hX : t.GapIn X i) :
    SoundFrom X none i s (Machine.onSlip e i t) := by
  unfold Machine.onSlip
  split
  · exact h
  rename_i l hl
  split
  swap
  · exact h
  have disturb (hs : l.state.Plain) (hn : l.state ≠ .pending) :
      SoundFrom X none i s ((t.background i l .disturbed .slip).mute l) :=
    (h.unsettle _ hl hs hn (.inr rfl)).mute (State.background_lease _ _ _ _ _) rfl (by simp [LeaseState.Silent])
  split
  case h_1 hs => exact h.unsettle _ hl (hs ▸ .ready) (by simp [hs]) (.inl ⟨rfl, hs⟩)
  case h_2 hs => exact disturb (hs ▸ .starting) (by simp [hs])
  case h_3 hs => exact disturb (hs ▸ .active) (by simp [hs])
  case h_4 hs => exact disturb (hs ▸ .disturbed) (by simp [hs])
  case h_5 hs =>
    split
    · rename_i m hm
      have hb : SoundFrom X none i s (t.background i l .migrating .slip) := hs ▸ h.renote .slip hl
      exact (hb.migrationSlip (State.background_lease _ _ _ _ _) rfl (by simp [LeaseState.Silent])).settle false
        (hX.of_lease hl ((migrationSlip_lease _ e l m i).trans (State.background_lease _ _ _ _ _)) rfl rfl)
    · exact h
  all_goals exact h

theorem onHoldover (e : EngineId) (h : SoundFrom X none i s t) (hX : t.GapIn X i) :
    SoundFrom X none i s (Machine.onHoldover e i t) := by
  unfold Machine.onHoldover
  split
  · exact h
  rename_i l hl
  split
  swap
  · exact h
  split
  case h_1 hs => exact h.unsettle _ hl (hs ▸ .ready) (by simp [hs]) (.inl ⟨rfl, hs⟩)
  case h_2 hs => exact h.unsettle _ hl (hs ▸ .starting) (by simp [hs]) (.inr rfl)
  case h_3 hs => exact h.unsettle _ hl (hs ▸ .active) (by simp [hs]) (.inr rfl)
  case h_4 hs => exact h.unsettle _ hl (hs ▸ .disturbed) (by simp [hs]) (.inr rfl)
  case h_5 hs =>
    split
    · have hb : SoundFrom X none i s (t.background i l .migrating .holdover) := hs ▸ h.renote .holdover hl
      exact hb.settle false (hX.of_lease hl (State.background_lease _ _ _ _ _) rfl rfl)
    · exact h
  all_goals exact h

/-! ### Freeing and closing -/

theorem closeIfQuiet (h : SoundFrom X q i s t) : SoundFrom X q i s (t.closeIfQuiet i) := by
  have hb := h.sound.books.closeIfQuiet i
  unfold State.closeIfQuiet at hb ⊢
  split
  · exact h
  rename_i l hl
  split
  swap
  · exact h
  rename_i hc
  simp only [hl, hc, if_true] at hb
  have hn := (h.wf hl).entries.nodup
  have others : ∀ j, j ≠ i → ((t.giveUp l).retire i l).lease? j = t.lease? j := fun j hj => by
    rw [State.retire_lease, if_neg hj, State.giveUp_lease]
  refine h.free hl (State.outputsAll_isQuiet (Bool.and_eq_true_iff.1 hc).2) hb others ?_ (fun o ho => ?_)
    (fun o ho => ?_) fun j hj f hf _ => ?_
  · rw [State.retire_lease, if_pos rfl]
  · rw [State.retire_output, t.giveUp_output_mem hn ho]
  · rw [State.retire_output, t.giveUp_output_not_mem ho]
  · have := users_pos hb others hj hf
    rw [State.retire_engine] at this ⊢
    exact t.giveUp_kept l f this

theorem startClosing (told : Bool) (r : Reason) (h : SoundFrom X q i s t) (hl : t.lease? i = some l)
    (hs : l.state ≠ .closing) : SoundFrom X q i s (t.startClosing told r i l) := by
  have hw := h.wf hl
  refine SoundFrom.aim (l := { l with
      state := .closing, reason := r, armed := false, migration := none,
      closingTarget := l.migrationTarget }) ((h.relabel hl (hw.closed r) (hw.closed_countOn hs r) rfl ?_).tell told)
    (by simp) (.wantQuiet none) rfl ?_ (by simp)
  · simp [LeaseState.Silent]
  · simp [LeaseState.Silent]

theorem endLease (told : Bool) (r : Reason) (h : SoundFrom X q i s t) (hl : t.lease? i = some l)
    (hs : l.state ≠ .closing) : SoundFrom X q i s (t.endLease told r i l) := by
  have hb := h.sound.books.endLease told r hl hs
  have hn := (h.wf hl).entries.nodup
  unfold State.endLease at hb ⊢
  split
  swap
  · exact h.startClosing told r hl hs
  rename_i hq
  simp only [hq, if_true] at hb
  have ended : ∀ u : State, u.BooksBut q → (∀ j, u.lease? j = if j = i then none else t.lease? j) →
      (∀ o, u.output o = ((t.setLease i { l with reason := r }).giveUp l).output o) →
      (∀ f, u.engine f = ((t.setLease i { l with reason := r }).giveUp l).engine f) →
      SoundFrom X q i s u := fun u hu hlease hout heng => by
    have others : ∀ j, j ≠ i → u.lease? j = t.lease? j := fun j hj => (hlease j).trans (if_neg hj)
    refine h.free hl (State.outputsAll_isQuiet hq) hu others ((hlease i).trans (if_pos rfl)) (fun o ho => ?_)
      (fun o ho => ?_) fun j hj f hf _ => ?_
    · rw [hout, State.giveUp_output_mem _ hn ho, State.output_setLease]
    · rw [hout, State.giveUp_output_not_mem _ ho, State.output_setLease]
    · have := users_pos hu others hj hf
      rw [heng] at this ⊢
      exact State.giveUp_kept _ l f this
  have lease : ∀ j, j ≠ i → ((t.setLease i { l with reason := r }).giveUp l).lease? j = t.lease? j := fun j hj => by
    rw [State.giveUp_lease, State.lease_setLease_ne _ _ hj]
  dsimp only at hb ⊢
  split
  · rename_i htold
    simp only [htold, if_true] at hb
    refine ended _ hb (fun j => ?_) (State.freeTold_output _ i l) (State.freeTold_engine _ i l)
    rw [State.freeTold_lease]
    split
    · rfl
    · rename_i hj; exact lease j hj
  · rename_i htold
    simp only [htold] at hb
    refine ended _ hb (fun j => ?_) (State.retire_output _ i _) (State.retire_engine _ i _)
    rw [State.retire_lease]
    split
    · rfl
    · rename_i hj; exact lease j hj

/-! ### Completions -/

theorem onCompletion (h : SoundFrom X none i s t) (hX : t.GapIn X i) :
    SoundFrom X none i s (Machine.onCompletion i t) := by
  unfold Machine.onCompletion
  split
  · exact h
  rename_i l hl
  have activate (r : Reason) (hs : l.state.Plain) (hn : l.state ≠ .pending) :
      SoundFrom X none i s (t.background i l .active r) :=
    h.background r hl hs .active (.refl l) (by simp [(h.wf hl).unarmed hn]) (by simp)
      (by simp [LeaseState.Silent])
  split
  case h_1 hs =>
    split
    · exact activate _ (hs ▸ .starting) (by simp [hs])
    · exact h
  case h_2 hs =>
    split
    · exact activate _ (hs ▸ .disturbed) (by simp [hs])
    · exact h
  case h_3 => exact h.settle false hX
  case h_4 => exact h.closeIfQuiet
  all_goals exact h

end SoundFrom

end Sys2Proof.Machine

/-! ## The agreement: faults and commands -/

namespace Sys2Proof.Machine

namespace SoundFrom

variable {X : EngineId → Prop} {i : SlotId} {s t u : State} {l k : Lease}

/-! ### Faults -/

section fault

variable {e : EngineId}

/-- The lease of slot `i`, rewritten without the faulted engine; the books hold of the result. -/
theorem forgo (h : SoundFrom X (some e) i s t) (hl : t.lease? i = some l)
    (hb : ((t.dropUser (some e)).setLease i k).BooksBut (some e))
    (hc : ∀ f, k.countOn f + (if some e = some f then 1 else 0) = l.countOn f)
    (same : outputsOf k.entries = outputsOf l.entries)
    (quiet : k.state.Silent → ∀ f, 0 < l.countOn f → f = e) :
    SoundFrom X (some e) i s ((t.dropUser (some e)).setLease i k) := by
  have others : ∀ j, j ≠ i → ((t.dropUser (some e)).setLease i k).lease? j = t.lease? j := fun j hj => by
    rw [State.lease_setLease_ne _ _ hj, State.dropUser_lease]
  refine h.rewrite hl hb (State.lease_setLease_same _ _ _) others (fun o => by simp) same (fun o ho f ht => ?_)
    (fun hsil o ho => h.sound.quiet_of_forced hl (quiet hsil) ho) fun j hj f hf _ => ?_
  · have hne : some e ≠ some f := fun hef => by
      rw [h.sound.forced f hef o] at ht
      cases ht
    have := h.sound.tied_countOn hl ho ht
    rw [← hc f, if_neg hne] at this
    exact this
  · exact t.dropUser_kept (some e) f (users_pos hb others hj hf)

/-- The same in a background event. -/
theorem forgoIn {st : LeaseState} {r : Reason} (h : SoundFrom X (some e) i s t) (hl : t.lease? i = some l)
    (hb : ((t.dropUser (some e)).background i k st r).BooksBut (some e))
    (hc : ∀ f, k.countOn f + (if some e = some f then 1 else 0) = l.countOn f)
    (same : k.entries = l.entries) (quiet : st.Silent → ∀ f, 0 < l.countOn f → f = e) :
    SoundFrom X (some e) i s ((t.dropUser (some e)).background i k st r) :=
  (h.forgo (k := { k with state := st, reason := r }) hl (hb.board ((SameBoard.refl _).raise i false).symm) hc
    (by rw [same]) quiet).board ((SameBoard.refl _).raise i false)

theorem failLease (h : SoundFrom X (some e) i s t) (hl : t.lease? i = some l) (hs : l.state ≠ .closing)
    (hc : ∀ f, l.countOn f = if some e = some f then 1 else 0) :
    SoundFrom X (some e) i s ((t.dropUser (some e)).failLease i l) := by
  refine h.forgoIn hl (h.sound.books.failLease hl hs hc) (fun f => ?_) rfl fun _ f hf => ?_
  · rw [hc, Lease.countOn_eq]
    simp [(h.wf hl).no_closingTarget hs, Lease.migrationTarget]
  · rw [hc] at hf
    by_contra hne
    simp [Ne.symm hne] at hf

theorem plain_failLease (h : SoundFrom X (some e) i s t) (hl : t.lease? i = some l) (hs : l.state.Plain)
    (he : l.engine = some e) : SoundFrom X (some e) i s ((t.dropUser (some e)).failLease i l) :=
  h.failLease hl hs.closing fun f => by rw [(h.wf hl).plain_countOn hs, he]

theorem sourceFault {m : Migration} (h : SoundFrom X (some e) i s t) (hl : t.lease? i = some l)
    (hs : l.state = .migrating) (hm : l.migration = some m) (hmode : m.mode = .overlap)
    (he : l.engine = some e) : SoundFrom X (some e) i s ((t.dropUser (some e)).sourceFault i l m) := by
  have hw := h.wf hl
  obtain ⟨g, hg, hne⟩ := hw.overlap_target hm hmode
  have hlease := State.background_lease (t.dropUser (some e)) i { l with engine := none } .migrating .engineFault
  have hf := h.forgoIn hl (h.sound.books.loseSource hl hs hm hmode he) (hw.loseSource_countOn hs hm he) rfl
    (by simp [LeaseState.Silent])
  unfold State.sourceFault
  simp only [hg]
  split
  · refine (hf.aim hlease (.wantClockUnlessHeading g) (hw.record m hm).outputs (by simp [LeaseState.Silent])
      fun f hgf => ⟨?_, ?_⟩).settle false (.of_mode ((State.giveEach_lease _ _ _ i).trans hlease) hm (by simp [hmode]))
    · rw [Lease.countOn_pos_iff]
      exact .inr (.inl (by simp [Lease.migrationTarget, hm, hg, hgf]))
    · rintro hef
      exact hne (he.trans (hef.trans hgf.symm))
  · exact hf.settle false (.of_mode hlease hm (by simp [hmode]))

theorem targetFault {m : Migration} (h : SoundFrom X (some e) i s t) (hl : t.lease? i = some l)
    (hs : l.state = .migrating) (hm : l.migration = some m) (ht : m.target = some e) :
    SoundFrom X (some e) i s ((t.dropUser (some e)).targetFault i l) := by
  have hw := h.wf hl
  unfold State.targetFault
  split
  · rename_i he
    exact h.failLease hl (by simp [hs]) fun f => by rw [hw.migrating_countOn hs hm, he, ht]; simp
  rename_i f he
  have back (st : LeaseState) (hst : st.Plain) (hr : st ≠ .ready) (hsil : ¬ st.Silent) :
      SoundFrom X (some e) i s
        ((t.dropUser (some e)).background i { l with migration := none } st .migrationFailed) :=
    h.forgoIn hl (h.sound.books.loseTarget hl hs hm ht he hst hr) (hw.loseTarget_countOn hs hm ht) rfl
      fun hs => absurd hs hsil
  dsimp only
  split
  · split
    · exact back _ .active (by decide) (by simp [LeaseState.Silent])
    · refine (back _ .starting (by decide) (by simp [LeaseState.Silent])).aim (State.background_lease _ _ _ _ _)
        (.wantClockUnlessRunning f) rfl (by simp [LeaseState.Silent]) fun g hfg => ⟨?_, fun heg => ?_⟩
      · exact Lease.countOn_pos_of_engine (he.trans hfg)
      · exact (hw.record m hm).distinct (by rw [ht]; rfl) (ht.trans (heg.trans (hfg.symm.trans he.symm)))
  · exact back _ .disturbed (by decide) (by simp [LeaseState.Silent])

theorem closingFault (h : SoundFrom X (some e) i s t) (hl : t.lease? i = some l) (hs : l.state = .closing)
    (hn : l.engine = some e ∨ l.closingTarget = some e) :
    SoundFrom X (some e) i s ((t.dropUser (some e)).closingFault e i l) :=
  (h.forgo hl (h.sound.books.forget hl hs hn) ((h.wf hl).forget_countOn hs hn) rfl
    (by simp [Lease.forget, hs, LeaseState.Silent])).closeIfQuiet

theorem onFault (h : SoundFrom X (some e) i s t) : SoundFrom X (some e) i s (Machine.onFault e i t) := by
  have plain {l : Lease} (hl : t.lease? i = some l) (hs : l.state.Plain) :
      SoundFrom X (some e) i s (if l.runsFrom e then (t.dropUser (some e)).failLease i l else t) := by
    split
    · rename_i he
      exact h.plain_failLease hl hs (of_decide_eq_true he)
    · exact h
  unfold Machine.onFault
  split
  · exact h
  rename_i l hl
  split
  case h_1 hs =>
    split
    · rename_i hn
      exact h.closingFault hl hs (by simpa [Lease.runsFrom] using hn)
    · exact h
  case h_2 hs =>
    split
    · exact h
    rename_i m hm
    split
    · rename_i ht
      exact h.targetFault hl hs hm ht
    rename_i ht
    split
    swap
    · exact h
    rename_i he
    have he : l.engine = some e := of_decide_eq_true he
    have fails (hmode : m.mode ≠ .overlap) : SoundFrom X (some e) i s ((t.dropUser (some e)).failLease i l) :=
      h.failLease hl (by simp [hs]) fun f => by
        rw [(h.wf hl).migrating_countOn hs hm, he, (h.wf hl).target_none hm hmode]
        simp
    split
    case h_1 hmode => exact h.sourceFault hl hs hm hmode he
    case h_2 hmode => exact fails (by simp [hmode])
    case h_3 hmode => exact fails (by simp [hmode])
  case h_3 hs => exact plain hl (hs ▸ .pending)
  case h_4 hs => exact plain hl (hs ▸ .ready)
  case h_5 hs => exact plain hl (hs ▸ .starting)
  case h_6 hs => exact plain hl (hs ▸ .active)
  case h_7 hs => exact plain hl (hs ▸ .disturbed)
  case h_8 => exact h

end fault

/-! ### OPEN, RETRY and a rebind -/

/-- A lease entered on its engine, where the agreement holds of it in each plain state. -/
theorem enter {e : EngineId} (he : k.engine = some e) (hes : EntriesOk k.entries) (hm : k.migration = none)
    (hct : k.closingTarget = none) (harm : k.armed = false)
    (hk : ∀ st, ({ k with state := st } : Lease).Wf →
      (∀ f, ({ k with state := st } : Lease).countOn f = if some e = some f then 1 else 0) →
      SoundFrom X none i s (t.setLease i { k with state := st })) :
    SoundFrom X none i s ((t.setLease i k).enter i) := by
  rw [State.setLease_enter _ _ he]
  have hp := startState_plain (t.isLocked e) k.flags.heldStart
  have wf : ({ k with state := startState (t.isLocked e) k.flags.heldStart } : Lease).Wf :=
    .of_plain hes he hm hct hp (by simp [harm]) fun hr => (startState_ready hr).2
  have hx := hk _ wf fun f => by rw [wf.plain_countOn hp, he]
  dsimp only
  split
  · rename_i hc
    refine hx.aim (State.lease_setLease_same _ _ _) (.wantClock e) rfl ?_
      fun f hf => ⟨Lease.countOn_pos_of_engine (he.trans hf), by simp⟩
    simp [hc.1, hc.2, startState, LeaseState.Silent]
  · exact hx

/-- A lease with QUIET outputs is rewritten for engine `e`, which has taken it; another engine may have lost it. -/
theorem exchange {r : AllocRequest} {e : EngineId} (h : SoundFrom X none i s t) (hl : t.lease? i = some l)
    (hsil : l.state.Silent) (ha : (t.engine e).Answers r) (o : Option EngineId) (wf : k.Wf)
    (hc : ∀ f, k.countOn f + (if o = some f then 1 else 0) = l.countOn f + (if f = e then 1 else 0))
    (same : outputsOf k.entries = outputsOf l.entries) (hoe : o ≠ some e) :
    SoundFrom X none i s (((t.commit r e).dropUser o).setLease i k) := by
  have hb := h.sound.books.exchange (i := i) ha o wf fun f => by rw [hc, State.countAt_of_lease hl]
  have others : ∀ j, j ≠ i → (((t.commit r e).dropUser o).setLease i k).lease? j = t.lease? j := fun j hj => by
    rw [State.lease_setLease_ne _ _ hj, State.dropUser_lease, State.commit_lease]
  refine h.rewrite hl hb (State.lease_setLease_same _ _ _) others (fun b => by simp) same (fun b hb' f ht => ?_)
    (fun _ => h.silent hl hsil) fun j hj f hf _ => ?_
  · rw [h.silent hl hsil b hb'] at ht
    cases ht
  · have hd := (t.commit r e).dropUser_kept o f (users_pos hb others hj hf)
    have hcommit : ((t.commit r e).engine f).state = (t.engine f).state ∧
        ((t.commit r e).engine f).reserved = (t.engine f).reserved := by
      rw [t.commit_engine]
      split
      · rename_i hfe
        subst hfe
        exact EngineRec.commit_kept (h.sound.books.engines f) _ _ _
          (users_pos h.sound.books (fun _ _ => rfl) hj hf)
      · exact ⟨rfl, rfl⟩
    rw [State.engine_setLease]
    exact ⟨hd.1.trans hcommit.1, hd.2.trans hcommit.2⟩

theorem retryAccepted (told : Bool) {r : AllocRequest} (cls : LeaseClass) (pin : Option EngineId)
    {es : List Entry} {e : EngineId} (h : SoundFrom X none i s t) (hc : t.RetryChecked i l r es e) :
    SoundFrom X none i s (t.retryAccepted told i l r cls pin es e) := by
  have hw := h.wf hc.lease
  have hm := hw.no_migration (by simp [hc.failed])
  have hct := hw.no_closingTarget (by simp [hc.failed])
  have hes : EntriesOk es := by
    rcases hc.entries with hes | rfl
    · exact hes
    · exact hw.entries
  refine (enter (t := t.commit r e) (k := l.retriedOn r.plan cls pin es e) rfl hes hm hct rfl
    fun st wf hcount => h.exchange hc.lease (.inr (.inr hc.failed)) (State.ask_answers hc.engine).1 none wf
      (fun f => ?_) hc.outputs (by simp)).tell told
  rw [hcount, l.countOn_eq, hw.failed hc.failed, hct, Lease.migrationTarget_of_none hm]
  simp [eq_comm]

theorem rebind (told : Bool) {r : RetuneRequest} {e : EngineId} (h : SoundFrom X none i s t)
    (hf : t.RetuneFits i l r) (hs : l.state = .pending ∨ l.state = .ready)
    (ha : t.ask (r.alloc l) = .ok e) : SoundFrom X none i s (t.rebind told i l r e) := by
  have hw := h.wf hf.lease
  have hp := LeaseState.Plain.of_pending_or_ready hs
  obtain ⟨hans, hex⟩ := State.ask_answers ha
  refine (enter (t := (t.commit (r.alloc l) e).dropUser l.engine)
    (k := { l.rewritten r with plan := r.plan, engine := some e }) rfl hf.entries
    (hw.no_migration hp.migrating) (hw.no_closingTarget hp.closing) rfl
    fun st wf hcount => h.exchange hf.lease (by unfold LeaseState.Silent; tauto) hans l.engine wf (fun f => ?_)
      hf.outputs hex).tell told
  rw [hcount, hw.plain_countOn hp]
  simp [eq_comm, Nat.add_comm]

/-- A lease opened in a free slot over outputs that nobody holds (R30). -/
theorem opened (h : t.SoundBut none) (hn : t.lease? i = none) (hu : u.BooksBut none) (hk : u.lease? i = some k)
    (others : ∀ j, j ≠ i → u.lease? j = t.lease? j)
    (unheld : ∀ o ∈ outputsOf k.entries, (t.output o).holder = none)
    (mem : ∀ o ∈ outputsOf k.entries, u.output o = { t.output o with holder := some i })
    (kept : ∀ o, o ∉ outputsOf k.entries → u.output o = t.output o)
    (eng : ∀ j, j ≠ i → ∀ f, 0 < t.countAt j f →
      (u.engine f).state = (t.engine f).state ∧ (u.engine f).reserved = (t.engine f).reserved) :
    SoundFrom X none i t u := by
  have states : ∀ o, (u.output o).state = (t.output o).state := fun o => by
    by_cases ho : o ∈ outputsOf k.entries
    · rw [mem o ho]
    · rw [kept o ho]
  have keeps : ∀ {j k' o}, t.lease? j = some k' → o ∈ outputsOf k'.entries → u.output o = t.output o :=
    fun hk' ho => kept _ fun hm => by
      have := h.holders.listed _ _ hk' _ ho
      rw [unheld _ hm] at this
      cases this
  have away : ∀ {j}, j = i ∨ u.lease? j = t.lease? j := fun {j} => by
    by_cases hj : j = i
    · exact .inl hj
    · exact .inr (others j hj)
  have ne_of : ∀ {j k'}, t.lease? j = some k' → j ≠ i := fun hk' hj => by rw [hj, hn] at hk'; cases hk'
  refine ⟨⟨fun o => states o ▸ h.targets o, hu, ⟨fun o j hj => ?_, fun j k' hk' o ho => ?_, fun o ho => ?_⟩,
    ⟨fun o e ht => ?_, fun j k' hk' hs o ho => ?_⟩, by simp⟩, others, fun j hj f hf _ => eng j hj f hf,
    fun j hj k' hk' o ho => keeps hk' ho⟩
  · by_cases ho : o ∈ outputsOf k.entries
    · rw [mem o ho] at hj
      cases hj
      exact ⟨k, hk, ho⟩
    · rw [kept o ho] at hj
      obtain ⟨k', hk', hm⟩ := h.holders.held o j hj
      exact ⟨k', (others j (ne_of hk')).trans hk', hm⟩
  · rcases away (j := j) with rfl | hj
    · rw [hk] at hk'
      cases hk'
      rw [mem o ho]
    · rw [hj] at hk'
      rw [keeps hk' ho]
      exact h.holders.listed j k' hk' o ho
  · rw [states]
    by_cases hm : o ∈ outputsOf k.entries
    · exact h.holders.free o (unheld o hm)
    · exact h.holders.free o (kept o hm ▸ ho)
  · rw [states] at ht
    obtain ⟨j, k', hj, hk', hc⟩ := h.ties.tied o e ht
    obtain ⟨k'', hk'', hm⟩ := h.holders.held o j hj
    rw [keeps hk'' hm]
    exact ⟨j, k', hj, (others j (ne_of hk')).trans hk', hc⟩
  · rw [states]
    rcases away (j := j) with rfl | hj
    · rw [hk] at hk'
      cases hk'
      exact h.holders.free o (unheld o ho)
    · exact h.ties.quiet j k' (hj ▸ hk') hs o ho

theorem openAccepted (p : Port) {c : ClientId} {a : OpenArgs} {cs : List EngineClass} {e : EngineId}
    (h : s.SoundBut none) (hc : s.OpenChecked c a cs i e) :
    SoundFrom X none i s (s.openAccepted p c a cs i e) := by
  have hn := State.lowestFree_lease hc.slot
  have hnodup := hc.entries.nodup
  rw [State.openAccepted_eq]
  refine enter (k := a.lease c p e) rfl hc.entries rfl rfl rfl fun st wf hcount => ?_
  have hx := h.books.exchange (i := i) (State.ask_answers hc.engine).1 none wf fun f => by
    rw [hcount, State.countAt_of_none hn]
    simp [eq_comm]
  refine opened (k := { a.lease c p e with state := st }) h hn (hx.congr (fun j => ?_) fun f => by simp)
    (State.lease_setLease_same _ _ _) (fun j hj => ?_) (fun o ho => ?_) (fun o ho => ?_) (fun o ho => ?_)
    fun j hj f hf => ?_
  · rw [State.lease_setLease, State.lease_setLease, State.setHolders_lease, State.dropUser_none]
  · rw [State.lease_setLease_ne _ _ hj, State.setHolders_lease, State.commit_lease]
  · obtain ⟨x, hx, rfl⟩ := List.mem_map.1 ho
    exact hc.unheld x hx
  · obtain ⟨x, hx, rfl⟩ := List.mem_map.1 ho
    rw [State.output_setLease, State.setHolders_output _ _ _ hnodup hx, State.commit_output]
  · have ho : o ∉ outputsOf a.entries := ho
    rw [State.output_setLease, State.setHolders_output_not_mem _ _ _ ho, State.commit_output]
  · rw [State.engine_setLease, State.setHolders_engine, s.commit_engine]
    split
    · rename_i hfe
      subst hfe
      exact EngineRec.commit_kept (h.books.engines f) _ _ _ (users_pos h.books (fun _ _ => rfl) hj hf)
    · exact ⟨rfl, rfl⟩

/-! ### START and RETUNE -/

theorem startOne (p : Port) (h : SoundFrom X none i s t)
    (hst : ∀ l, t.lease? i = some l → l.startable = true) : SoundFrom X none i s (t.startOne p i) := by
  unfold State.startOne
  split
  · exact h
  rename_i l hl
  obtain ⟨hheld, hs⟩ := l.startable_iff.1 (hst l hl)
  split
  · rename_i hr
    split
    · rename_i e he
      refine SoundFrom.tell _ ((h.restate (k := { l with state := .starting }) hl (hr ▸ .ready) .starting
        ⟨rfl, rfl, rfl, rfl, rfl, rfl⟩ (by simp [(h.wf hl).unarmed (by simp [hr])]) (by simp)
        (by simp [LeaseState.Silent])).aim (State.lease_setLease_same _ _ _) (.wantClock e) rfl
        (by simp [LeaseState.Silent]) fun f hf => ⟨Lease.countOn_pos_of_engine (he.trans hf), by simp⟩)
    · exact h
  · rename_i hr
    have hpend := (hs.resolve_left hr).1
    exact h.restate (k := { l with armed := true }) hl (hpend ▸ .pending) (by rw [hpend]; exact .pending)
      ⟨rfl, rfl, rfl, rfl, rfl, rfl⟩ (fun _ => ⟨hpend, hheld⟩) (fun _ => hheld) id

theorem retuneInPlace (told : Bool) {r : RetuneRequest} (h : SoundFrom X none i s t) (hf : t.RetuneFits i l r)
    (hs : l.state = .pending ∨ l.state = .ready) : SoundFrom X none i s (t.retuneInPlace told i l r) := by
  have hw := h.wf hf.lease
  have hp := LeaseState.Plain.of_pending_or_ready hs
  obtain ⟨e, he⟩ := hw.plain_engine hp
  have wf : (l.rewritten r).Wf := .of_plain hf.entries he (hw.no_migration hp.migrating)
    (hw.no_closingTarget hp.closing) hp (by simp [Lease.rewritten]) hw.ready
  exact (h.relabel hf.lease wf (fun f => by rw [wf.plain_countOn hp, hw.plain_countOn hp]; rfl) hf.outputs
    fun hsil => h.silent hf.lease hsil).tell told

theorem retuneLocal (told : Bool) {r : RetuneRequest} {e : EngineId} (h : SoundFrom X none i s t)
    (hf : t.RetuneFits i l r) (hs : l.state = .active ∨ l.state = .disturbed) (he : l.engine = some e)
    (hserved : l.servedUnder r = true) : SoundFrom X none i s (t.retuneLocal told i l r e) := by
  have hw := h.wf hf.lease
  have wf := State.BooksBut.migrating_wf (mode := .loc) (target := none) hw hf.entries hf.outputs hs (by simp)
    (by simp) fun _ => Lease.servedUnder_plan hserved
  have hb : SoundFrom X none i s (t.beginMigration i l (r.migration .loc none)) :=
    h.relabel hf.lease wf (fun f => by rw [State.BooksBut.migrating_count hw hs]; simp) rfl
      (by simp [LeaseState.Silent])
  refine SoundFrom.settle told ((hb.aim (State.lease_setLease_same _ _ _) (.wantNewDivider e l.entries) hf.outputs
    (by simp [LeaseState.Silent]) fun f hef => ⟨Lease.countOn_pos_of_engine (he.trans hef), by simp⟩).tell told) ?_
  exact .of_mode (k := { l with state := .migrating, migration := some (r.migration .loc none) })
    (by simp [State.beginMigration]) rfl (by simp [RetuneRequest.migration])

theorem retuneOverlap (told : Bool) {r : RetuneRequest} {e : EngineId} (h : SoundFrom X none i s t)
    (hf : t.RetuneFits i l r) (hs : l.state = .active ∨ l.state = .disturbed)
    (ha : t.ask (r.alloc l) = .ok e) : SoundFrom X none i s (t.retuneOverlap told i l r e) := by
  have hw := h.wf hf.lease
  obtain ⟨hans, hex⟩ := State.ask_answers ha
  have hcount := State.BooksBut.migrating_count (r := r) (mode := .overlap) (target := some e) hw hs
  have hbooks : ((t.commit (r.alloc l) e).beginMigration i l (r.migration .overlap (some e))).BooksBut none :=
    h.sound.books.exchange hans none (State.BooksBut.migrating_wf hw hf.entries hf.outputs hs (by simp)
      (fun _ hk => hex hk.symm) (by simp)) fun f => by
        rw [hcount, State.countAt_of_lease hf.lease]
        simp [eq_comm]
  have hlease : ((t.commit (r.alloc l) e).beginMigration i l (r.migration .overlap (some e))).lease? i =
      some { l with state := .migrating, migration := some (r.migration .overlap (some e)) } :=
    State.lease_setLease_same _ _ _
  have hb : SoundFrom X none i s
      ((t.commit (r.alloc l) e).beginMigration i l (r.migration .overlap (some e))) := by
    refine h.rewrite hf.lease hbooks hlease (fun j hj => State.lease_setLease_ne _ i hj _) (fun _ => rfl) rfl
      (fun o ho f ht => ?_) (by simp [LeaseState.Silent]) fun j hj f hf' _ => ?_
    · rw [hcount]
      exact Nat.add_pos_left (h.sound.tied_countOn hf.lease ho ht) _
    · rw [State.beginMigration, State.engine_setLease, t.commit_engine]
      split
      · rename_i hfe
        subst hfe
        exact EngineRec.commit_kept (h.sound.books.engines f) _ _ _
          (users_pos h.sound.books (fun _ _ => rfl) hj hf')
      · exact ⟨rfl, rfl⟩
  unfold State.retuneOverlap
  dsimp only
  split
  · refine SoundFrom.settle told ((hb.aim hlease (.wantClock e) hf.outputs (by simp [LeaseState.Silent])
      fun f hef => ⟨?_, by simp⟩).tell told)
        (.of_mode (by rw [State.tell_lease, State.giveEach_lease]; exact hlease) rfl (by simp [RetuneRequest.migration]))
    rw [hcount, if_pos hef]
    exact Nat.succ_pos _
  · exact (hb.tell told).settle told
      (.of_mode (by rw [State.tell_lease]; exact hlease) rfl (by simp [RetuneRequest.migration]))

theorem retuneGap (told : Bool) {r : RetuneRequest} {e : EngineId} (h : SoundFrom X none i s t)
    (hf : t.RetuneFits i l r) (hs : l.state = .active ∨ l.state = .disturbed) (he : l.engine = some e)
    (hu : (t.engine e).users = 1) (hX : X e) : SoundFrom X none i s (t.retuneGap told i l r e) := by
  have hw := h.wf hf.lease
  have hcount := State.BooksBut.migrating_count (r := r) (mode := .gap) (target := none) hw hs
  have hlease : ((t.reserve e).beginMigration i l (r.migration .gap none)).lease? i =
      some { l with state := .migrating, migration := some (r.migration .gap none) } :=
    State.lease_setLease_same _ _ _
  have hbooks : ((t.reserve e).beginMigration i l (r.migration .gap none)).BooksBut none :=
    (h.sound.books.reserve hu).relabel (l := l) hf.lease (State.BooksBut.migrating_wf hw hf.entries hf.outputs hs
      (by simp) (by simp) (by simp)) fun f => by rw [hcount]; simp
  have hb : SoundFrom X none i s ((t.reserve e).beginMigration i l (r.migration .gap none)) := by
    refine h.rewrite hf.lease hbooks hlease (fun j hj => State.lease_setLease_ne _ i hj _) (fun _ => rfl) rfl
      (fun o ho f ht => ?_) (by simp [LeaseState.Silent]) fun j hj f hf' hXf => ?_
    · rw [hcount]
      exact Nat.add_pos_left (h.sound.tied_countOn hf.lease ho ht) _
    · have hne : f ≠ e := fun hfe => hXf (hfe ▸ hX)
      rw [State.beginMigration, State.engine_setLease, State.reserve, State.engine_setEngine, if_neg hne]
      exact ⟨rfl, rfl⟩
  refine SoundFrom.settle told ((hb.aim hlease (.wantQuiet none) rfl (by simp [LeaseState.Silent]) (by simp)).tell told)
    fun k m f hk _ _ hkf => ?_
  rw [State.tell_lease, State.giveEach_lease, hlease] at hk
  cases hk
  rw [he] at hkf
  cases hkf
  exact hX

end SoundFrom

end Sys2Proof.Machine

/-! ## Every step keeps leases, engines and outputs in agreement -/

namespace Sys2Proof.Machine

/-- A loop that writes, for each output of a list without repeats, its own record from that record. -/
theorem forEach_output_map {g : OutputId → OutputRec → OutputRec} {f : OutputId → State → State}
    (hf : ∀ b t o, (f b t).output o = if o = b then g o (t.output o) else t.output o) {xs : List OutputId}
    (hn : xs.Nodup) (s : State) (o : OutputId) :
    (forEach xs f s).output o = if o ∈ xs then g o (s.output o) else s.output o := by
  induction xs generalizing s with
  | nil => rfl
  | cons x xs ih =>
    obtain ⟨hx, hxs⟩ := List.nodup_cons.1 hn
    rw [show forEach (x :: xs) f s = forEach xs f (f x s) from rfl, ih hxs, hf]
    by_cases ho : o = x
    · subst ho; simp [hx]
    · simp [ho]

/-- Every output tied to the engine is forced quiet, the others stay (R83, R84). -/
theorem State.forceQuietTied_output (s : State) (e : EngineId) (o : OutputId) :
    (s.forceQuietTied e).output o = (s.output o).forced e := by
  have h := forEach_output_map (g := fun _ x => x.forced e)
    (f := fun o t => if (t.output o).state.tiedTo e then t.setOutput o { t.output o with state := .quiet } else t)
    (fun b t o => by
      by_cases ho : o = b
      · subst ho
        by_cases ht : (t.output o).state.tiedTo e <;> simp [OutputRec.forced, ht]
      · by_cases ht : (t.output b).state.tiedTo e <;> simp [State.output_setOutput, ho, ht])
    (List.nodup_finRange 16) s o
  rwa [if_pos (List.mem_finRange o)] at h

theorem OutputRec.forced_holder (x : OutputRec) (e : EngineId) : (x.forced e).holder = x.holder := rfl

/-- An output that is forced quiet or left is in its old state or QUIET. -/
theorem OutputRec.forced_state (x : OutputRec) (e : EngineId) :
    (x.forced e).state = x.state ∧ x.state.tiedTo e = false ∨ (x.forced e).state = .quiet := by
  unfold OutputRec.forced
  cases h : x.state.tiedTo e <;> simp

/-- An engine's reaction to a change of selection leaves its users (R50). -/
@[simp] theorem EngineRec.reselect_users (b : Bool) (n : Nat) (x : EngineRec) :
    (x.reselect b n).users = x.users := by
  unfold EngineRec.reselect
  split <;> rfl

namespace State.SoundBut

variable {q : Option EngineId} {s t : State} {i : SlotId} {l : Lease}

/-- One engine is written, its users kept. -/
theorem setEngine (h : s.SoundBut q) (e : EngineId) {x : EngineRec} (hu : x.users = (s.engine e).users)
    (hx : x.CountBut (q = some e)) : (s.setEngine e x).SoundBut q :=
  ⟨h.targets, h.books.setEngine e hu hx, ⟨h.holders.held, h.holders.listed, h.holders.free⟩,
    ⟨h.ties.tied, h.ties.quiet⟩, h.forced⟩

theorem slotWork {f : State → State} (h : s.SoundBut q)
    (hf : SoundFrom (fun _ => True) q i s s → s.GapIn (fun _ => True) i →
      SoundFrom (fun _ => True) q i s (f s)) : (f s).SoundBut q :=
  (hf (.refl h) fun _ _ _ _ _ _ _ => trivial).sound

theorem onLocked (h : s.SoundBut none) (e : EngineId) (i : SlotId) : (Machine.onLocked e i s).SoundBut none :=
  h.slotWork (f := Machine.onLocked e i) (·.onLocked e)

theorem onSlip (h : s.SoundBut none) (e : EngineId) (i : SlotId) : (Machine.onSlip e i s).SoundBut none :=
  h.slotWork (f := Machine.onSlip e i) (·.onSlip e)

theorem onHoldover (h : s.SoundBut none) (e : EngineId) (i : SlotId) :
    (Machine.onHoldover e i s).SoundBut none :=
  h.slotWork (f := Machine.onHoldover e i) (·.onHoldover e)

theorem onFault {e : EngineId} (h : s.SoundBut (some e)) (i : SlotId) :
    (Machine.onFault e i s).SoundBut (some e) :=
  h.slotWork (f := Machine.onFault e i) fun k _ => k.onFault

/-! ### Faults -/

/-- The state in which a fault is applied to the leases one by one: the outputs tied to the engine are QUIET (R83). -/
theorem beginFault (h : s.SoundBut none) (e : EngineId) (r : FaultReason) :
    ((s.setEngine e ((s.engine e).fail r)).forceQuietTied e).SoundBut (some e) := by
  have hb := h.books.beginFault e r
  have hlease := State.BooksBut.forceQuietTied_lease (s.setEngine e ((s.engine e).fail r)) e
  have hout : ∀ o, ((s.setEngine e ((s.engine e).fail r)).forceQuietTied e).output o = (s.output o).forced e :=
    State.forceQuietTied_output _ e
  generalize (s.setEngine e ((s.engine e).fail r)).forceQuietTied e = t at hb hlease hout ⊢
  refine ⟨fun o => ?_, hb, ⟨fun o i hi => ?_, fun i l hl o ho => ?_, fun o ho => ?_⟩, ⟨fun o f ht => ?_,
    fun i l hl hs o ho => ?_⟩, fun f hf o => ?_⟩ <;> try rw [hout] at *
  · rcases (s.output o).forced_state e with ⟨hk, -⟩ | hk <;> rw [hk]
    · exact h.targets o
    · trivial
  · rw [hlease]
    exact h.holders.held o i hi
  · exact h.holders.listed i l (hlease i ▸ hl) o ho
  · rcases (s.output o).forced_state e with ⟨hk, -⟩ | hk <;> rw [hk]
    exact h.holders.free o ho
  · rcases (s.output o).forced_state e with ⟨hk, -⟩ | hk <;> rw [hk] at ht
    · obtain ⟨i, l, hi, hl, hc⟩ := h.ties.tied o f ht
      exact ⟨i, l, hi, (hlease i).trans hl, hc⟩
    · cases ht
  · rcases (s.output o).forced_state e with ⟨hk, -⟩ | hk <;> rw [hk]
    exact h.ties.quiet i l (hlease i ▸ hl) hs o ho
  · cases hf
    rcases (s.output o).forced_state e with ⟨hk, hu⟩ | hk <;> rw [hk]
    · exact hu
    · rfl

theorem whole {e : EngineId} (h : s.SoundBut (some e)) (hz : ∀ i k, s.lease? i = some k → k.countOn e = 0) :
    s.SoundBut none :=
  ⟨h.targets, h.books.whole hz, h.holders, h.ties, by simp⟩

theorem declareFault (h : s.SoundBut none) (e : EngineId) (r : FaultReason) :
    (s.declareFault e r).SoundBut none := by
  obtain ⟨hb, hz⟩ := forEach_allSlots (G := State.SoundBut (some e)) (pre := fun _ _ => True)
    (post := fun i s => ∀ k, s.lease? i = some k → k.countOn e = 0) (f := Machine.onFault e)
    (fun i s hs _ => ⟨hs.onFault i, fun k hk => hs.books.onFault_countOn hk⟩)
    (fun _ _ _ _ _ _ _ => trivial)
    (fun i j s hj _ _ hp k hk => hp k (((OneSlot.refl i s).onFault e).lease hj ▸ hk))
    (h.beginFault e r) (fun _ => trivial)
  exact (hb.whole hz).board ((SameBoard.refl _).deviceNotices _)

/-! ### Completions -/

/-- A changeover completes (R78). -/
theorem complete (h : s.SoundBut none) {o : OutputId} :
    (s.setOutput o { s.output o with state := (s.output o).state.complete }).SoundBut none := by
  have hout : ∀ b, (s.setOutput o { s.output o with state := (s.output o).state.complete }).output b =
      if b = o then { s.output b with state := (s.output b).state.complete } else s.output b := fun b => by
    rw [State.output_setOutput]
    split
    · rename_i hb; rw [hb]
    · rfl
  have hb := h.books.congr (t := s.setOutput o { s.output o with state := (s.output o).state.complete })
    (by simp) (by simp)
  have hlease : ∀ i, (s.setOutput o { s.output o with state := (s.output o).state.complete }).lease? i =
      s.lease? i := fun _ => rfl
  generalize s.setOutput o { s.output o with state := (s.output o).state.complete } = t at hout hb hlease ⊢
  have holder : ∀ b, (t.output b).holder = (s.output b).holder := fun b => by
    rw [hout]; split <;> rfl
  have tied : ∀ b e, (t.output b).state.tiedTo e = true → (s.output b).state.tiedTo e = true := fun b e ht => by
    rw [hout] at ht
    split at ht
    · exact OutState.complete_tiedTo ht
    · exact ht
  have quiet : ∀ b, (s.output b).state = .quiet → (t.output b).state = .quiet := fun b hq => by
    rw [hout]
    split
    · dsimp only; rw [hq]; rfl
    · exact hq
  refine ⟨fun b => ?_, hb, ⟨fun b i hi => ?_, fun i l hl b ho => ?_, fun b hn => ?_⟩, ⟨fun b e ht => ?_,
    fun i l hl hs b ho => ?_⟩, by simp⟩
  · rw [hout]
    split
    · exact (h.targets b).complete
    · exact h.targets b
  · rw [hlease]; exact h.holders.held b i (holder b ▸ hi)
  · rw [holder]; exact h.holders.listed i l (hlease i ▸ hl) b ho
  · exact quiet b (h.holders.free b (holder b ▸ hn))
  · obtain ⟨i, l, hi, hl, hc⟩ := h.ties.tied b e (tied b e ht)
    exact ⟨i, l, (holder b).trans hi, (hlease i).trans hl, hc⟩
  · exact quiet b (h.ties.quiet i l (hlease i ▸ hl) hs b ho)

theorem reportCompletion (h : s.SoundBut none) (o : OutputId) : (s.reportCompletion o).SoundBut none := by
  unfold State.reportCompletion
  split
  · exact h.slotWork (f := Machine.onCompletion _) (·.onCompletion)
  · exact h

/-! ### Changes of selection -/

theorem announceSelection (h : s.SoundBut none) : s.announceSelection.SoundBut none := by
  unfold State.announceSelection
  refine forEach_keeps (P := State.SoundBut none) _ (fun e u hu => ?_) _
    (forEach_keeps (P := State.SoundBut none) _ (fun e u hu => ?_) _ h)
  · split
    · exact forEach_keeps (P := State.SoundBut none) (Machine.onHoldover e) (fun i v hv => hv.onHoldover e i)
        allSlots hu
    · exact hu
  · exact hu.setEngine e (by simp) ((hu.books.engines e).reselect _ _)

/-! ### START -/

theorem started (p : Port) {is : List SlotId} (h : s.SoundBut none) (hc : s.StartChecked is) :
    (forEach is (State.startOne p) s).SoundBut none :=
  (forEach_slots (G := State.SoundBut none) (pre := fun i s => ∀ l, s.lease? i = some l → l.startable = true)
    (post := fun _ _ => True) (f := State.startOne p)
    (fun i _ hs hp => ⟨hs.slotWork (i := i) (f := State.startOne p i) fun k _ => k.startOne p hp, trivial⟩)
    (fun _ _ _ hj _ _ hp l hl => hp l (State.startOne_lease_ne hj ▸ hl)) (fun _ _ _ _ _ _ _ => trivial)
    hc.nodup h hc.startable fun _ _ => trivial).1

end State.SoundBut

theorem State.Blank.sound {s : State} (h : s.Blank) : s.SoundBut none where
  targets o := by rw [h.outputs]; trivial
  books := h.books
  holders := ⟨fun o i hi => by simp [h.outputs, OutputRec.initial] at hi, fun i l hl => by simp [h.leases] at hl,
    fun o _ => by rw [h.outputs]; rfl⟩
  ties := ⟨fun o e ht => by simp [h.outputs, OutputRec.initial, OutState.tiedTo] at ht,
    fun i l hl => by simp [h.leases] at hl⟩
  forced := by simp

theorem soundBut_stepClosed : StepClosed (State.SoundBut none) where
  board k h := h.board k
  blank h := h.sound
  ticked e n h := h.setEngine (x := (_ : EngineRec).tick n) e rfl ((h.books.engines e).congr rfl rfl rfl rfl)
  cleared e h hs := h.setEngine (x := (_ : EngineRec).turnOff) e rfl (.turnOff (by
    rcases hs with hs | hs
    · exact (h.books.engines e).unused (.inr hs)
    · exact ((h.books.engines e).faulted hs).resolve_left (by simp)))
  locked e h hs := forEach_keeps (P := State.SoundBut none) (onLocked e) (fun i _ hu => hu.onLocked e i) allSlots
    (h.setEngine (x := (_ : EngineRec).lock) e rfl
      ((h.books.engines e).lock ((h.books.engines e).users_pos (by tauto))))
  slipped e n h hs := forEach_keeps (P := State.SoundBut none) (onSlip e) (fun i _ hu => hu.onSlip e i) allSlots
    (h.setEngine (x := (_ : EngineRec).slip n) e rfl
      ((h.books.engines e).slip n ((h.books.engines e).users_pos (.inr (.inl hs)))))
  faulted e r h _ := h.declareFault e r
  reselected h := h.announceSelection
  completed o h _ := h.complete.reportCompletion o
  opened p _ _ _ _ _ h hc := (SoundFrom.openAccepted (X := fun _ => True) p h hc).sound
  started p _ h hc := h.started p hc
  rewritten told _ _ _ h hf hs _ := h.slotWork fun k _ => k.retuneInPlace told hf hs
  rebound told _ _ _ _ h hf hs ha := h.slotWork fun k _ => k.rebind told hf hs ha
  redivided told _ _ _ e h hf hs he hserved := h.slotWork fun k _ => k.retuneLocal told hf hs he hserved
  overlapped told _ _ _ _ _ h hf hs _ ha := h.slotWork fun k _ => k.retuneOverlap told hf hs ha
  quieted told _ _ _ _ h hf hs he hu := h.slotWork fun k _ => k.retuneGap told hf hs he hu trivial
  ended told r _ _ h hl hs := h.slotWork fun k _ => k.endLease told r hl hs
  retried told _ _ _ cls pin _ _ h hc := (SoundFrom.retryAccepted (X := fun _ => True) told cls pin (.refl h) hc).sound

/-- Settles O57: the operations that write the board keep leases, engines and outputs in agreement. -/
theorem stepKeepsSound : Obligations.StepKeepsSound := by
  intro s t h hst
  rw [← State.soundBut_none_iff] at h ⊢
  exact soundBut_stepClosed.step h hst

end Sys2Proof.Machine

/-! ## Leases that follow their engines

What lets a lease follow its engine and its outputs, and what each operation on the lease's slot leaves of it. -/

namespace Sys2Proof.Machine

/-- The states of a lease that has been given a LOCKED engine (R30, R36). -/
def LeaseState.OnLock (st : LeaseState) : Prop := st = .ready ∨ st = .starting ∨ st = .active

/-- The lease of slot `i`, if there is one, follows its engine and its outputs. -/
def State.FollowsAt (i : SlotId) (s : State) : Prop := ∀ l, s.lease? i = some l → s.LeaseFollows l

/-- The same, where the leases of `B` have yet to hear of an event on their engine. -/
def State.FollowsBut (B : Lease → Prop) (i : SlotId) (s : State) : Prop :=
  ∀ l, s.lease? i = some l → B l ∨ s.LeaseFollows l

namespace State.LeaseFollows

variable {s t : State} {l : Lease} {e : EngineId}

/-- A lease without a record that is neither waiting for a lock nor holding one. -/
theorem idle (hs : l.state = .disturbed ∨ l.state = .closing ∨ l.state = .failed) (hm : l.migration = none) :
    s.LeaseFollows l := by
  refine ⟨fun h => ?_, fun h => ?_, fun h => ?_, fun m h => ?_⟩
  · simp [h] at hs
  · rcases h with h | h | h <;> simp [h] at hs
  · simp [h] at hs
  · rw [hm] at h; cases h

theorem pending_of (hs : l.state = .pending) (he : l.engine = some e) (hm : l.migration = none)
    (hk : s.isLocked e = false) : s.LeaseFollows l :=
  ⟨fun _ => ⟨e, he, hk⟩, fun h => by simp [hs] at h, fun h => by simp [hs] at h, fun m h => by rw [hm] at h; cases h⟩

theorem started_of (hs : l.state = .ready ∨ l.state = .starting) (he : l.engine = some e) (hm : l.migration = none)
    (hk : s.isLocked e = true) : s.LeaseFollows l :=
  ⟨fun h => by simp [h] at hs, fun _ => ⟨e, he, hk⟩, fun h => by simp [h] at hs, fun m h => by rw [hm] at h; cases h⟩

theorem active_of (hs : l.state = .active) (he : l.engine = some e) (hm : l.migration = none)
    (hk : s.isLocked e = true) (ho : s.outputsAll (runsAt e) l.entries = true) : s.LeaseFollows l :=
  ⟨fun h => by simp [hs] at h, fun _ => ⟨e, he, hk⟩, fun _ => ⟨e, he, ho⟩, fun m h => by rw [hm] at h; cases h⟩

/-- A lease that is entered on an engine by the engine's standing (R30). -/
theorem entered {held : Bool} (hs : l.state = startState (s.isLocked e) held) (he : l.engine = some e)
    (hm : l.migration = none) : s.LeaseFollows l := by
  cases hk : s.isLocked e with
  | false => exact .pending_of (by rw [hs, hk]; rfl) he hm hk
  | true => exact .started_of (by rw [hs, hk]; cases held <;> simp [startState]) he hm hk

/-- A lease under migration has only a GAP migration's reservation to follow (R64). -/
theorem migrating (hs : l.state = .migrating) (hg : ∀ m, l.migration = some m → m.mode = .gap →
    ∃ e, l.engine = some e ∧ (s.engine e).reserved = true) : s.LeaseFollows l :=
  ⟨fun h => by simp [hs] at h, fun h => by simp [hs] at h, fun h => by simp [hs] at h, hg⟩

/-- The lease's engine stands as it did, and so do its outputs where it is ACTIVE. -/
theorem congr (h : s.LeaseFollows l)
    (eng : ∀ e, l.engine = some e → (t.engine e).state = (s.engine e).state ∧
      (t.engine e).reserved = (s.engine e).reserved)
    (out : l.state = .active → ∀ o ∈ outputsOf l.entries, t.output o = s.output o) : t.LeaseFollows l := by
  have locked {e} (he : l.engine = some e) : t.isLocked e = s.isLocked e := by
    rw [State.isLocked, State.isLocked, (eng e he).1]
  refine ⟨fun hs => ?_, fun hs => ?_, fun hs => ?_, fun m hm hg => ?_⟩
  · obtain ⟨e, he, hk⟩ := h.pending hs
    exact ⟨e, he, (locked he).trans hk⟩
  · obtain ⟨e, he, hk⟩ := h.locked hs
    exact ⟨e, he, (locked he).trans hk⟩
  · obtain ⟨e, he, ho⟩ := h.active hs
    refine ⟨e, he, State.outputsAll_runsAt.2 fun x hx => ?_⟩
    rw [out hs _ (List.mem_map_of_mem hx)]
    exact State.outputsAll_runsAt.1 ho x hx
  · obtain ⟨e, he, hr⟩ := h.gap m hm hg
    exact ⟨e, he, (eng e he).2.trans hr⟩

/-- An ACTIVE lease runs, on one LOCKED engine (R36). -/
theorem active_engine (h : s.LeaseFollows l) (hs : l.state = .active) :
    ∃ e, l.engine = some e ∧ s.isLocked e = true ∧ s.outputsAll (runsAt e) l.entries = true := by
  obtain ⟨e, he, hk⟩ := h.locked (.inr (.inr hs))
  obtain ⟨f, hf, ho⟩ := h.active hs
  cases he.symm.trans hf
  exact ⟨e, he, hk, ho⟩

end State.LeaseFollows

namespace State.FollowsAt

variable {i : SlotId} {s t : State} {l k : Lease}

theorem of_none (h : s.lease? i = none) : s.FollowsAt i := fun l hl => by rw [h] at hl; cases hl

theorem of_lease (hl : s.lease? i = some l) (h : s.LeaseFollows l) : s.FollowsAt i := fun k hk => by
  rw [hl] at hk
  cases hk
  exact h

theorem board (h : s.FollowsAt i) (k : SameBoard s t) : t.FollowsAt i := fun l hl =>
  (h l ((k.leases i).symm.trans hl)).congr (fun e _ => by rw [k.engines]; exact ⟨rfl, rfl⟩) fun _ o _ => k.outputs o

theorem tell (told : Bool) (h : s.FollowsAt i) : (s.tell told i).FollowsAt i :=
  h.board ((SameBoard.refl s).tell told i)

/-- The lease is written; the engines and outputs stay. -/
theorem setLease (h : s.LeaseFollows k) : (s.setLease i k).FollowsAt i :=
  .of_lease (State.lease_setLease_same _ _ _) (h.congr (fun _ _ => ⟨rfl, rfl⟩) fun _ _ _ => rfl)

theorem background {st : LeaseState} {r : Reason} (h : s.LeaseFollows { k with state := st, reason := r }) :
    (s.background i k st r).FollowsAt i :=
  (setLease h).board ((SameBoard.refl _).raise i false)

/-- Targets given to outputs leave a lease that is not ACTIVE. -/
theorem giveEach (want : OutState → Entry → Option Target) (es : List Entry) (h : s.FollowsAt i)
    (hl : s.lease? i = some l) (hs : l.state ≠ .active) : (s.giveEach want es).FollowsAt i :=
  .of_lease (by simpa using hl) ((h l hl).congr (fun e _ => by simp) fun ha => absurd ha hs)

theorem mute (h : s.FollowsAt i) (hl : s.lease? i = some k) (hs : k.state ≠ .active) : (s.mute l).FollowsAt i := by
  unfold State.mute
  split
  · exact h.giveEach _ _ hl hs
  · exact h

theorem migrationLocked (e : EngineId) (m : Migration) (h : s.FollowsAt i) (hl : s.lease? i = some k)
    (hs : k.state ≠ .active) : (s.migrationLocked e l m).FollowsAt i := by
  unfold State.migrationLocked
  split
  · exact h.giveEach _ _ hl hs
  · split
    · exact h.giveEach _ _ hl hs
    · split
      · exact h
      · exact h.giveEach _ _ hl hs
  · exact h

theorem migrationSlip (e : EngineId) (m : Migration) (h : s.FollowsAt i) (hl : s.lease? i = some k)
    (hs : k.state ≠ .active) : (s.migrationSlip e l m).FollowsAt i := by
  unfold State.migrationSlip
  split
  · exact h.mute hl hs
  · split
    · exact h.giveEach _ _ hl hs
    · exact h
  · exact h

/-! ### Settling -/

/-- The state after a migration is ACTIVE on a LOCKED engine from which every output runs, or DISTURBED. -/
theorem settledOn {e : EngineId} (he : k.engine = some e) (hm : k.migration = none)
    (hs : k.state = s.activeIfLocked (some e))
    (ho : s.isLocked e = true → s.outputsAll (runsAt e) k.entries = true) : s.LeaseFollows k := by
  cases hk : s.isLocked e with
  | true => exact .active_of (by rw [hs]; simp [State.activeIfLocked, hk]) he hm hk (ho hk)
  | false => exact .idle (.inl (by rw [hs]; simp [State.activeIfLocked, hk])) hm

theorem finishMigration {m : Migration} (hw : l.Wf) (hs : l.state = .migrating) (hm : l.migration = some m)
    (hset : s.settled l m = true) : (s.finishMigration i l m).FollowsAt i := by
  unfold State.settled at hset
  unfold State.finishMigration
  cases hmode : m.mode with
  | loc =>
    simp only [hmode] at hset
    cases he : l.engine with
    | none => simp [he] at hset
    | some e =>
      simp only [he] at hset
      refine setLease (settledOn he rfl rfl fun hk => ?_)
      simpa [hk, Lease.adopt] using hset
  | overlap =>
    simp only [hmode] at hset
    cases hg : m.target with
    | none => simp [hg] at hset
    | some g =>
      simp only [hg] at hset
      refine setLease (settledOn rfl rfl rfl fun _ => State.outputsAll_runsAt.2 fun x hx => ?_)
      rw [State.dropUser_output]
      exact State.outputsAll_runsAt.1 hset x hx
  | gap =>
    have ht := hw.target_none hm (by simp [hmode])
    obtain ⟨e, he⟩ : ∃ e, l.engine = some e := by
      cases he : l.engine with
      | some e => exact ⟨e, rfl⟩
      | none =>
        rcases hw.engine he with h | h | h
        · simp [hs] at h
        · simp [hs] at h
        · simp [Lease.migrationTarget, hm, ht] at h
    simp only [he]
    exact setLease (.pending_of rfl he rfl (by simp [State.isLocked, State.reprogram, EngineRec.program]))

theorem settle (told : Bool) (hw : ∀ l, s.lease? i = some l → l.Wf) (h : s.FollowsAt i) :
    (s.settle told i).FollowsAt i := by
  unfold State.settle
  split
  · exact h
  · rename_i l hl
    split
    · rename_i m hs hm
      split
      · rename_i hset
        exact (finishMigration (hw l hl) hs hm hset).tell told
      · exact h
    · exact h

/-! ### Entering and freeing -/

theorem enter {e : EngineId} (he : k.engine = some e) (hm : k.migration = none) :
    ((s.setLease i k).enter i).FollowsAt i := by
  rw [State.setLease_enter _ _ he]
  have hk : (s.setLease i { k with state := startState (s.isLocked e) k.flags.heldStart }).FollowsAt i :=
    setLease (.entered rfl he hm)
  dsimp only
  split
  · rename_i hc
    exact hk.giveEach _ _ (State.lease_setLease_same _ _ _) (by simp [hc.1, hc.2, startState])
  · exact hk

theorem closeIfQuiet (h : s.FollowsAt i) : (s.closeIfQuiet i).FollowsAt i := by
  unfold State.closeIfQuiet
  split
  · exact h
  · split
    · exact .of_none (by rw [State.retire_lease, if_pos rfl])
    · exact h

theorem endLease (told : Bool) (r : Reason) : (s.endLease told r i l).FollowsAt i := by
  unfold State.endLease
  split
  · dsimp only
    split
    · exact .of_none (by rw [State.freeTold_lease, if_pos rfl])
    · exact .of_none (by rw [State.retire_lease, if_pos rfl])
  · exact ((setLease (.idle (.inr (.inl rfl)) rfl)).tell told).giveEach _ _
      ((State.tell_lease _ _ _ _).trans (State.lease_setLease_same _ _ _)) (by simp)

end State.FollowsAt

/-! ### What an operation on another slot leaves -/

/-- No lease of a slot other than `i` counts on the engine. -/
def State.Alone (i : SlotId) (s : State) (e : EngineId) : Prop := ∀ j, j ≠ i → s.countAt j e = 0

theorem State.BooksBut.alone {q : Option EngineId} {s : State} {i : SlotId} {l : Lease} {e : EngineId}
    (h : s.BooksBut q) (hl : s.lease? i = some l) (he : l.engine = some e) (hu : (s.engine e).users = 1) :
    s.Alone i e := fun j hj => by
  have hsum := h.countAt_add_le hj e
  have := Lease.countOn_pos_of_engine he
  rw [State.countAt_of_lease hl] at hsum
  omega

/-- An engine reserved for a GAP migration serves that lease alone (R64). -/
theorem State.BooksBut.gapIn_alone {q : Option EngineId} {s : State} {i : SlotId} {B : Lease → Prop} (h : s.BooksBut q)
    (hf : s.FollowsBut B i) (hB : ∀ l, B l → l.state ≠ .migrating) : s.GapIn (s.Alone i) i := by
  intro l m e hl hm hmode he
  have hs : l.state = .migrating := (h.leases i l hl).migrating.1 (by rw [hm]; rfl)
  obtain ⟨f, hf, hr⟩ := ((hf l hl).resolve_left fun hb => hB l hb hs).gap m hm hmode
  cases he.symm.trans hf
  exact h.alone hl he ((h.engines e).reserved hr)

namespace SoundFrom

variable {q : Option EngineId} {i j : SlotId} {s t : State} {B : Lease → Prop}

/-- Another slot's engines stand as they did. -/
theorem engine_kept (h : SoundFrom (s.Alone i) q i s t) (hj : j ≠ i) {f : EngineId} (hf : 0 < s.countAt j f) :
    (t.engine f).state = (s.engine f).state ∧ (t.engine f).reserved = (s.engine f).reserved :=
  h.engine j hj f hf fun ha => by have := ha j hj; omega

theorem leaseFollows (h : SoundFrom (s.Alone i) q i s t) (hj : j ≠ i) {l : Lease} (hl : s.lease? j = some l)
    (hf : s.LeaseFollows l) : t.LeaseFollows l :=
  hf.congr (fun e he => h.engine_kept hj (by
    rw [State.countAt_of_lease hl]; exact Lease.countOn_pos_of_engine he)) fun _ => h.output j hj l hl

theorem followsBut (h : SoundFrom (s.Alone i) q i s t) (hj : j ≠ i) (hf : s.FollowsBut B j) : t.FollowsBut B j :=
  fun l hl =>
    have hl' := (h.lease j hj).symm.trans hl
    (hf l hl').imp_right (h.leaseFollows hj hl')

theorem followsAt (h : SoundFrom (s.Alone i) q i s t) (hj : j ≠ i) (hf : s.FollowsAt j) : t.FollowsAt j :=
  fun l hl =>
    have hl' := (h.lease j hj).symm.trans hl
    h.leaseFollows hj hl' (hf l hl')

end SoundFrom

end Sys2Proof.Machine

/-! ## The rounds of an announcement

What an event on one engine makes of the lease of one slot: a lease that the event has yet to reach follows again. -/

namespace Sys2Proof.Machine

namespace State.FollowsBut

variable {i : SlotId} {s t : State} {B C : Lease → Prop} {l : Lease}

theorem of_followsAt (h : s.FollowsAt i) : s.FollowsBut B i := fun l hl => .inr (h l hl)

/-- A lease that the event does not concern follows already. -/
theorem follows (h : s.FollowsBut B i) (hl : s.lease? i = some l) (hB : ¬B l) : s.FollowsAt i :=
  .of_lease hl ((h l hl).resolve_left hB)

theorem imp (h : s.FollowsBut B i) (hBC : ∀ l, B l → C l) : s.FollowsBut C i :=
  fun l hl => (h l hl).imp_left (hBC l)

theorem followsAt (h : s.FollowsBut B i) (hB : ∀ l, ¬B l) : s.FollowsAt i :=
  fun l hl => (h l hl).resolve_left (hB l)

end State.FollowsBut

section rounds

variable {i : SlotId} {s : State} {e : EngineId}

/-- The engine that is announced is not that of a lease that does not name it. -/
theorem not_engine_of_unnamed {l : Lease} (hn : ¬(l.runsFrom e || l.migratesTo e) = true) : l.engine ≠ some e :=
  fun he => hn (by simp [Lease.runsFrom, he])

/-! ### LOCKED -/

/-- A lease that waits for the lock of engine `e` (R35). -/
def Lease.AwaitsLock (e : EngineId) (l : Lease) : Prop := l.state = .pending ∧ l.engine = some e

theorem startPending_follows {l : Lease} (hw : l.Wf) (hs : l.state = .pending) (he : l.engine = some e)
    (hk : s.isLocked e = true) : (s.startPending e i l).FollowsAt i := by
  have hm := hw.no_migration (by simp [hs])
  unfold State.startPending
  split
  · exact .background (.started_of (.inl rfl) he hm hk)
  · exact (State.FollowsAt.background (k := { l with armed := false }) (st := .starting)
      (.started_of (.inr rfl) he hm hk)).giveEach _ _ (State.background_lease _ _ _ _ _) (by simp)

theorem relock_follows {l : Lease} (hw : l.Wf) (hl : s.lease? i = some l) (hs : l.state = .disturbed)
    (he : l.engine = some e) (hk : s.isLocked e = true) : (s.relock e i l).FollowsAt i := by
  have hm := hw.no_migration (by simp [hs])
  unfold State.relock
  split
  · rename_i ho
    exact .background (.active_of rfl he hm hk ho)
  · exact (State.FollowsAt.of_lease hl (.idle (.inl hs) hm)).giveEach _ _ hl (by simp [hs])

theorem onLocked_follows (h : s.SoundBut none) (hf : s.FollowsBut (Lease.AwaitsLock e) i)
    (hk : 0 < s.countAt i e → s.isLocked e = true) : (onLocked e i s).FollowsAt i := by
  unfold onLocked
  split
  · exact .of_none ‹_›
  rename_i l hl
  have hw := h.books.leases i l hl
  have unmoved (hs : l.state ≠ .pending) : s.FollowsAt i := hf.follows hl fun hB => hs hB.1
  split
  swap
  · rename_i hn
    exact hf.follows hl fun hB => not_engine_of_unnamed hn hB.2
  rename_i hn
  have hk := hk (State.countAt_of_lease hl e ▸ SoundFrom.countOn_of_named hn)
  split
  case h_1 hs => exact startPending_follows hw hs (SoundFrom.engine_of_named hw (hs ▸ .pending) hn) hk
  case h_2 hs => exact relock_follows hw hl hs (SoundFrom.engine_of_named hw (hs ▸ .disturbed) hn) hk
  case h_3 hs =>
    split
    · rename_i m _
      exact ((unmoved (by simp [hs])).migrationLocked e m hl (by simp [hs])).settle false fun k hk' =>
        h.books.leases i k ((SoundFrom.migrationLocked_lease s e l m i).symm.trans hk')
    · exact unmoved (by simp [hs])
  all_goals (rename_i hs; exact unmoved (by simp [hs]))

/-! ### Slip and HOLDOVER -/

/-- A lease that has yet to hear that its engine `e` is not LOCKED any more (R37, R38). -/
def Lease.AwaitsLoss (e : EngineId) (l : Lease) : Prop := l.state.OnLock ∧ l.engine = some e

theorem LeaseState.OnLock.not_migrating {st : LeaseState} (h : st.OnLock) : st ≠ .migrating := by
  rcases h with rfl | rfl | rfl <;> decide

/-- A READY lease is PENDING again (R37, R38). -/
theorem unready_follows {l : Lease} {r : Reason} (hw : l.Wf) (hs : l.state = .ready) (he : l.engine = some e)
    (hk : s.isLocked e = false) : (s.background i l .pending r).FollowsAt i :=
  .background (.pending_of rfl he (hw.no_migration (by simp [hs])) hk)

/-- A lease that is STARTING, ACTIVE or DISTURBED is DISTURBED (R37, R38). -/
theorem disturb_follows {l : Lease} {r : Reason} (hm : l.migration = none) :
    (s.background i l .disturbed r).FollowsAt i :=
  .background (.idle (.inl rfl) hm)

/-- A new reason does not unsettle a lease under migration (R97, R100, R105). -/
theorem renote_follows {l : Lease} {r : Reason} (h : s.FollowsAt i) (hl : s.lease? i = some l) :
    (s.background i l .migrating r).FollowsAt i :=
  .background (.migrating rfl (h l hl).gap)

theorem onSlip_follows (h : s.SoundBut none) (hf : s.FollowsBut (Lease.AwaitsLoss e) i)
    (hk : 0 < s.countAt i e → s.isLocked e = false) : (onSlip e i s).FollowsAt i := by
  unfold onSlip
  split
  · exact .of_none ‹_›
  rename_i l hl
  have hw := h.books.leases i l hl
  have unmoved (hs : ¬l.state.OnLock) : s.FollowsAt i := hf.follows hl fun hB => hs hB.1
  split
  swap
  · rename_i hn
    exact hf.follows hl fun hB => not_engine_of_unnamed hn hB.2
  rename_i hn
  have hk := hk (State.countAt_of_lease hl e ▸ SoundFrom.countOn_of_named hn)
  have disturb (hs : l.state ≠ .migrating) : ((s.background i l .disturbed .slip).mute l).FollowsAt i :=
    (disturb_follows (hw.no_migration hs)).mute (State.background_lease _ _ _ _ _) (by simp)
  split
  case h_1 hs => exact unready_follows hw hs (SoundFrom.engine_of_named hw (hs ▸ .ready) hn) hk
  case h_2 hs => exact disturb (by simp [hs])
  case h_3 hs => exact disturb (by simp [hs])
  case h_4 hs => exact disturb (by simp [hs])
  case h_5 hs =>
    have hu := unmoved (by simp [hs, LeaseState.OnLock])
    split
    · rename_i m _
      have hb : SoundFrom (fun _ => True) none i s (s.background i l .migrating .slip) :=
        hs ▸ (SoundFrom.refl h).renote .slip hl
      exact ((renote_follows hu hl).migrationSlip e m (State.background_lease _ _ _ _ _) (by simp)).settle false
        fun k hk' => hb.sound.books.leases i k ((SoundFrom.migrationSlip_lease _ e l m i).symm.trans hk')
    · exact hu
  all_goals (rename_i hs; exact unmoved (by simp [hs, LeaseState.OnLock]))

/-- The HOLDOVER of engine `e`, while leases of `B` have yet to hear of that of their own engine. -/
theorem onHoldover_follows {B : Lease → Prop} (h : s.SoundBut none)
    (hf : s.FollowsBut (fun l => l.AwaitsLoss e ∨ B l) i) (hB : ∀ l, B l → l.state.OnLock)
    (hk : 0 < s.countAt i e → s.isLocked e = false) : (onHoldover e i s).FollowsBut B i := by
  unfold onHoldover
  split
  · exact .of_followsAt (.of_none ‹_›)
  rename_i l hl
  have hw := h.books.leases i l hl
  split
  swap
  · rename_i hn
    intro k hk'
    rw [hl] at hk'
    cases hk'
    exact (hf l hl).imp_left fun hb => hb.resolve_left fun hb => not_engine_of_unnamed hn hb.2
  rename_i hn
  refine .of_followsAt ?_
  have hk := hk (State.countAt_of_lease hl e ▸ SoundFrom.countOn_of_named hn)
  have unmoved (hs : ¬l.state.OnLock) : s.FollowsAt i := hf.follows hl fun hb => hs (hb.elim And.left (hB l))
  split
  case h_1 hs => exact unready_follows hw hs (SoundFrom.engine_of_named hw (hs ▸ .ready) hn) hk
  case h_2 hs => exact disturb_follows (hw.no_migration (by simp [hs]))
  case h_3 hs => exact disturb_follows (hw.no_migration (by simp [hs]))
  case h_4 hs => exact disturb_follows (hw.no_migration (by simp [hs]))
  case h_5 hs =>
    have hu := unmoved (by simp [hs, LeaseState.OnLock])
    split
    · have hb : SoundFrom (fun _ => True) none i s (s.background i l .migrating .holdover) :=
        hs ▸ (SoundFrom.refl h).renote .holdover hl
      exact (renote_follows hu hl).settle false (hb.sound.books.leases i)
    · exact hu
  all_goals (rename_i hs; exact unmoved (by simp [hs, LeaseState.OnLock]))

/-! ### Faults -/

/-- A lease under migration that has yet to hear of the fault of its engine `e` (R117). -/
def Lease.AwaitsFault (e : EngineId) (l : Lease) : Prop := l.state = .migrating ∧ l.engine = some e

theorem failLease_follows {l : Lease} : (s.failLease i l).FollowsAt i := .background (.idle (.inr (.inr rfl)) rfl)

theorem sourceFault_follows {l : Lease} {m : Migration} (h : s.BooksBut (some e)) (hl : s.lease? i = some l)
    (hs : l.state = .migrating) (hm : l.migration = some m) (hmode : m.mode = .overlap) (he : l.engine = some e) :
    ((s.dropUser (some e)).sourceFault i l m).FollowsAt i := by
  have hw := (h.loseSource hl hs hm hmode he).leases i
  have hb : ((s.dropUser (some e)).background i { l with engine := none } .migrating .engineFault).FollowsAt i := by
    refine .background (.migrating rfl fun m' hm' hg => ?_)
    cases hm.symm.trans hm'
    rw [hmode] at hg
    cases hg
  unfold State.sourceFault
  dsimp only
  split
  · split
    · exact (hb.giveEach _ _ (State.background_lease _ _ _ _ _) (by simp)).settle false
        fun k hk => hw k (by rwa [State.giveEach_lease] at hk)
    · exact hb.settle false hw
  · exact hb

theorem targetFault_follows {l : Lease} : (s.targetFault i l).FollowsAt i := by
  unfold State.targetFault
  split
  · exact failLease_follows
  rename_i f he
  dsimp only
  split
  · rename_i hk
    split
    · rename_i ho
      exact .background (.active_of rfl he rfl hk ho)
    · exact (State.FollowsAt.background (k := { l with migration := none }) (st := .starting)
        (.started_of (.inr rfl) he rfl hk)).giveEach _ _ (State.background_lease _ _ _ _ _) (by simp)
  · exact .background (.idle (.inl rfl) rfl)

theorem onFault_follows (h : s.BooksBut (some e)) (hf : s.FollowsBut (Lease.AwaitsFault e) i) :
    (onFault e i s).FollowsAt i := by
  unfold onFault
  split
  · exact .of_none ‹_›
  rename_i l hl
  have hw := h.leases i l hl
  have unmoved (hs : l.state ≠ .migrating) : s.FollowsAt i := hf.follows hl fun hB => hs hB.1
  have plain (hs : l.state ≠ .migrating) :
      (if l.runsFrom e then (s.dropUser (some e)).failLease i l else s).FollowsAt i := by
    split
    · exact failLease_follows
    · exact unmoved hs
  split
  case h_1 hs =>
    split
    · have hm := hw.no_migration (by simp [hs])
      exact (State.FollowsAt.setLease (k := l.forget e) (.idle (.inr (.inl hs)) hm)).closeIfQuiet
    · exact unmoved (by simp [hs])
  case h_2 hs =>
    split
    · rename_i hm
      obtain ⟨m, hm'⟩ := hw.has_record hs
      rw [hm] at hm'
      cases hm'
    rename_i m hm
    split
    · exact targetFault_follows
    · split
      · rename_i hr
        split
        · rename_i hmode
          exact sourceFault_follows h hl hs hm hmode (of_decide_eq_true hr)
        · exact failLease_follows
        · exact failLease_follows
      · rename_i hr
        exact hf.follows hl fun hB => hr (by simp [Lease.runsFrom, hB.2])
  case h_8 hs => exact unmoved (by simp [hs])
  all_goals (rename_i hs; exact plain (by simp [hs]))

/-! ### Completions and START -/

theorem onCompletion_follows (h : s.SoundBut none) (hf : s.FollowsAt i) : (onCompletion i s).FollowsAt i := by
  unfold onCompletion
  split
  · exact hf
  rename_i l hl
  have hw := h.books.leases i l hl
  split
  case h_1 hs =>
    split
    · rename_i ho
      obtain ⟨e, he, hk⟩ := (hf l hl).locked (.inr (.inl hs))
      exact .background (.active_of rfl he (hw.no_migration (by simp [hs])) hk (by simpa [he] using ho))
    · exact hf
  case h_2 hs =>
    split
    · rename_i ho
      obtain ⟨e, he, ho⟩ := (Option.any_eq_true _ _).1 ho
      obtain ⟨hk, ho⟩ := Bool.and_eq_true_iff.1 ho
      exact .background (.active_of rfl he (hw.no_migration (by simp [hs])) hk ho)
    · exact hf
  case h_3 => exact hf.settle false (h.books.leases i)
  case h_4 => exact hf.closeIfQuiet
  all_goals exact hf

theorem startOne_follows (p : Port) (h : s.SoundBut none) (hf : s.FollowsAt i)
    (hst : ∀ l, s.lease? i = some l → l.startable = true) : (s.startOne p i).FollowsAt i := by
  unfold State.startOne
  split
  · exact hf
  rename_i l hl
  have hw := h.books.leases i l hl
  split
  · rename_i hs
    split
    · rename_i e he
      obtain ⟨f, hf', hk⟩ := (hf l hl).locked (.inl hs)
      cases he.symm.trans hf'
      exact ((State.FollowsAt.setLease (k := { l with state := .starting })
        (.started_of (.inr rfl) he (hw.no_migration (by simp [hs])) hk)).giveEach _ _
          (State.lease_setLease_same _ _ _) (by simp)).tell _
    · exact hf
  · rename_i hr
    have hs := (((l.startable_iff).1 (hst l hl)).2.resolve_left hr).1
    obtain ⟨e, he, hk⟩ := (hf l hl).pending hs
    exact .setLease (.pending_of hs he (hw.no_migration (by simp [hs])) hk)

end rounds

end Sys2Proof.Machine

/-! ## Announcements to every lease -/

namespace Sys2Proof.Machine

/-- The agreement of leases, engines and outputs, with every lease following its engine. -/
structure State.Running (s : State) : Prop where
  sound : s.SoundBut none
  follows : ∀ i, s.FollowsAt i

theorem State.running_iff (s : State) : s.Running ↔ s.SoundRun :=
  ⟨fun h => ⟨s.soundBut_none_iff.1 h.sound, fun i => h.follows i⟩,
    fun h => ⟨s.soundBut_none_iff.2 h.sound, fun i => h.leases i⟩⟩

/-- An event on engine `e` is announced to every slot: what one round does for its slot, the loop does for each. -/
theorem forEach_announce {q : Option EngineId} {e : EngineId} {b : Bool} {B C : Lease → Prop}
    {f : SlotId → State → State}
    (round : ∀ i s, s.SoundBut q → s.FollowsBut B i → (0 < s.countAt i e → s.isLocked e = b) →
      SoundFrom (s.Alone i) q i s (f i s) ∧ (f i s).FollowsBut C i)
    {s : State} (h : s.SoundBut q) (hB : ∀ i, s.FollowsBut B i) (hk : s.isLocked e = b) :
    (forEach allSlots f s).SoundBut q ∧ ∀ i, (forEach allSlots f s).FollowsBut C i := by
  refine forEach_allSlots (G := State.SoundBut q)
    (pre := fun i s => s.FollowsBut B i ∧ (0 < s.countAt i e → s.isLocked e = b))
    (post := fun i s => s.FollowsBut C i) (f := f) (fun i s hs hp => ?_) (fun i j s hj hs hi hp => ?_)
    (fun i j s hj hs hi hp => (round i s hs hi.1 hi.2).1.followsBut hj hp) h fun i => ⟨hB i, fun _ => hk⟩
  · exact (round i s hs hp.1 hp.2).imp_left SoundFrom.sound
  · obtain ⟨hw, -⟩ := round i s hs hi.1 hi.2
    refine ⟨hw.followsBut hj hp.1, fun hc => ?_⟩
    rw [State.countAt_congr (hw.lease j hj)] at hc
    rw [State.isLocked, (hw.engine_kept hj hc).1]
    exact hp.2 hc

section events

variable {i : SlotId} {s : State} {e : EngineId} {l : Lease}

/-- One engine is written: a lease on another engine follows as before. -/
theorem State.FollowsAt.setEngine {B : Lease → Prop} {x : EngineRec} (h : s.FollowsAt i)
    (hx : ∀ l, s.lease? i = some l → l.engine = some e → s.LeaseFollows l → B l ∨ (s.setEngine e x).LeaseFollows l) :
    (s.setEngine e x).FollowsBut B i := by
  intro l hl
  by_cases he : l.engine = some e
  · exact hx l hl he (h l hl)
  · refine .inr ((h l hl).congr (fun f hf => ?_) fun _ _ _ => rfl)
    have hne : f ≠ e := fun hfe => he (hfe ▸ hf)
    rw [State.engine_setEngine, if_neg hne]
    exact ⟨rfl, rfl⟩

/-- A lease that waits for a lock or has lost one follows an engine that is not LOCKED. -/
theorem State.LeaseFollows.off_lock (hs : ¬l.state.OnLock) (he : l.engine = some e)
    (hp : l.state = .pending → s.isLocked e = false)
    (hg : ∀ m, l.migration = some m → m.mode = .gap → (s.engine e).reserved = true) : s.LeaseFollows l :=
  ⟨fun h => ⟨e, he, hp h⟩, fun h => absurd h hs, fun h => absurd (.inr (.inr h)) hs, fun m hm h => ⟨e, he, hg m hm h⟩⟩

/-- A lease that follows an engine that is not LOCKED waits for a lock or has lost one. -/
theorem State.LeaseFollows.not_onLock (h : s.LeaseFollows l) (he : l.engine = some e) (hk : s.isLocked e = false) :
    ¬l.state.OnLock := fun hs => by
  obtain ⟨f, hf, hk'⟩ := h.locked hs
  cases he.symm.trans hf
  rw [hk] at hk'
  cases hk'

/-- The reservation that a GAP migration of the lease's engine holds (R64). -/
theorem State.LeaseFollows.reserved (h : s.LeaseFollows l) (he : l.engine = some e) {m : Migration}
    (hm : l.migration = some m) (hg : m.mode = .gap) : (s.engine e).reserved = true := by
  obtain ⟨f, hf, hr⟩ := h.gap m hm hg
  cases he.symm.trans hf
  exact hr

namespace State.Running

variable {t : State}

/-- What an operation on one slot keeps. -/
theorem slotWork (h : s.Running) (k : SoundFrom (s.Alone i) none i s t) (hi : t.FollowsAt i) : t.Running :=
  ⟨k.sound, fun j => by
    by_cases hj : j = i
    · exact hj ▸ hi
    · exact k.followsAt hj (h.follows j)⟩

theorem board (h : s.Running) (k : SameBoard s t) : t.Running :=
  ⟨h.sound.board k, fun i => (h.follows i).board k⟩

/-! ### LOCKED and slip -/

theorem locked (h : s.Running) (hs : (s.engine e).state = .acquiring ∨ (s.engine e).state = .holdover) :
    (forEach allSlots (onLocked e) (s.setEngine e (s.engine e).lock)).Running := by
  have hb := h.sound.books.engines e
  have hsound := h.sound.setEngine (x := (s.engine e).lock) e rfl (hb.lock (hb.users_pos (by tauto)))
  have hk : s.isLocked e = false := by rcases hs with hs | hs <;> simp [State.isLocked, hs]
  have hB (i : SlotId) : (s.setEngine e (s.engine e).lock).FollowsBut (Lease.AwaitsLock e) i :=
    (h.follows i).setEngine fun l _ he hf => by
      by_cases hp : l.state = .pending
      · exact .inl ⟨hp, he⟩
      · refine .inr (.off_lock (hf.not_onLock he hk) he (fun hs => absurd hs hp) fun m hm hg => ?_)
        rw [State.engine_setEngine_same]
        exact hf.reserved he hm hg
  obtain ⟨h1, h2⟩ := forEach_announce (e := e) (b := true) (B := Lease.AwaitsLock e) (C := fun _ => False)
    (f := onLocked e) (fun i u hu hf hk => ⟨(SoundFrom.refl hu).onLocked e (hu.books.gapIn_alone hf fun l hl => by
      simp [hl.1]), .of_followsAt (onLocked_follows hu hf hk)⟩) hsound hB (by simp [State.isLocked, EngineRec.lock])
  exact ⟨h1, fun i => (h2 i).followsAt fun _ => id⟩

theorem slipped (n : Nat) (h : s.Running) (hs : (s.engine e).state = .locked) :
    (forEach allSlots (onSlip e) (s.setEngine e ((s.engine e).slip n))).Running := by
  have hb := h.sound.books.engines e
  have hsound := h.sound.setEngine (x := (s.engine e).slip n) e rfl (hb.slip n (hb.users_pos (.inr (.inl hs))))
  have hk : (s.setEngine e ((s.engine e).slip n)).isLocked e = false := by simp [State.isLocked, EngineRec.slip]
  have hB (i : SlotId) : (s.setEngine e ((s.engine e).slip n)).FollowsBut (Lease.AwaitsLoss e) i :=
    (h.follows i).setEngine fun l _ he hf => by
      by_cases hl : l.state.OnLock
      · exact .inl ⟨hl, he⟩
      · refine .inr (.off_lock hl he (fun _ => hk) fun m hm hg => ?_)
        rw [State.engine_setEngine_same]
        exact hf.reserved he hm hg
  obtain ⟨h1, h2⟩ := forEach_announce (e := e) (b := false) (B := Lease.AwaitsLoss e) (C := fun _ => False)
    (f := onSlip e) (fun i u hu hf hk => ⟨(SoundFrom.refl hu).onSlip e (hu.books.gapIn_alone hf fun l hl =>
      hl.1.not_migrating), .of_followsAt (onSlip_follows hu hf hk)⟩) hsound hB hk
  exact ⟨h1, fun i => (h2 i).followsAt fun _ => id⟩

/-! ### Faults -/

theorem forced_of_untied {x : OutputRec} (h : x.state.tiedTo e = false) : x.forced e = x := by
  cases x
  simp_all [OutputRec.forced]

/-- An ACTIVE lease's outputs are not tied to another engine than its own, so its fault leaves them (R83). -/
theorem active_outputs_kept (h : s.LeaseFollows l) (hs : l.state = .active) (he : l.engine ≠ some e) :
    ∀ o ∈ outputsOf l.entries, (s.output o).forced e = s.output o := by
  obtain ⟨f, hf, -, ho⟩ := h.active_engine hs
  intro o hm
  obtain ⟨x, hx, rfl⟩ := List.mem_map.1 hm
  have hne : f ≠ e := fun hfe => he (hfe ▸ hf)
  exact forced_of_untied (by simp [State.outputsAll_runsAt.1 ho x hx, OutState.tiedTo, hne])

theorem declareFault (r : FaultReason) (h : s.Running)
    (hs : (s.engine e).state = .acquiring ∨ (s.engine e).state = .holdover) : (s.declareFault e r).Running := by
  have hk : s.isLocked e = false := by rcases hs with hs | hs <;> simp [State.isLocked, hs]
  refine ⟨h.sound.declareFault e r, ?_⟩
  have hsound := h.sound.beginFault e r
  have hlease := State.BooksBut.forceQuietTied_lease (s.setEngine e ((s.engine e).fail r)) e
  have heng := State.BooksBut.forceQuietTied_engine (s.setEngine e ((s.engine e).fail r)) e
  have hout : ∀ o, ((s.setEngine e ((s.engine e).fail r)).forceQuietTied e).output o = (s.output o).forced e :=
    State.forceQuietTied_output _ e
  unfold State.declareFault
  generalize (s.setEngine e ((s.engine e).fail r)).forceQuietTied e = t at hsound hlease heng hout ⊢
  have hkt : t.isLocked e = false := by simp [State.isLocked, heng, EngineRec.fail]
  have hB (i : SlotId) : t.FollowsBut (Lease.AwaitsFault e) i := by
    intro l hl
    have hl : s.lease? i = some l := (hlease i).symm.trans hl
    have hf := h.follows i l hl
    by_cases he : l.engine = some e
    · by_cases hm : l.state = .migrating
      · exact .inl ⟨hm, he⟩
      · refine .inr (.off_lock (hf.not_onLock he hk) he (fun _ => hkt) fun m hm' => ?_)
        rw [(h.sound.books.leases i l hl).no_migration hm] at hm'
        cases hm'
    · refine .inr (hf.congr (fun f hf' => ?_) fun ha o ho => ?_)
      · have hne : f ≠ e := fun hfe => he (hfe ▸ hf')
        rw [heng, State.engine_setEngine, if_neg hne]
        exact ⟨rfl, rfl⟩
      · rw [hout, active_outputs_kept hf ha he o ho]
  obtain ⟨-, h2⟩ := forEach_announce (e := e) (b := false) (B := Lease.AwaitsFault e) (C := fun _ => False)
    (f := Machine.onFault e) (fun i u hu hf _ => ⟨(SoundFrom.refl hu).onFault, .of_followsAt
      (onFault_follows hu.books hf)⟩) hsound hB hkt
  exact fun i => ((h2 i).followsAt fun _ => id).board ((SameBoard.refl _).deviceNotices _)

end State.Running

/-! ### HOLDOVER -/

theorem EngineRec.dropUser_not_locked {x : EngineRec} (n : Nat) (h : x.state ≠ .locked) :
    (x.dropUser n).state ≠ .locked := by
  unfold EngineRec.dropUser EngineRec.zeroUsers
  split
  · split <;> simp_all [EngineRec.turnOff]
  · exact h

theorem EngineRec.reselect_not_locked (b : Bool) (n : Nat) (x : EngineRec) : (x.reselect b n).state ≠ .locked := by
  unfold EngineRec.reselect
  split <;> simp_all [EngineRec.turnOff]

/-- A change of selection keeps the reservation of an engine with users (R50, R64). -/
theorem EngineRec.reselect_reserved {x : EngineRec} {q : Prop} (h : x.CountBut q) (hu : 0 < x.users) (b : Bool)
    (n : Nat) : (x.reselect b n).reserved = x.reserved := by
  unfold EngineRec.reselect
  split
  case h_4 hs => exact absurd (h.unused (.inr hs)) (by omega)
  all_goals rfl

/-- No engine is LOCKED. -/
def State.NoneLocked (s : State) : Prop := ∀ e, (s.engine e).state ≠ .locked

theorem State.NoneLocked.dropUser (h : s.NoneLocked) (o : Option EngineId) : (s.dropUser o).NoneLocked := fun e => by
  rw [State.dropUser_engine]
  split
  · exact EngineRec.dropUser_not_locked _ (h e)
  · exact h e

theorem State.NoneLocked.settle (h : s.NoneLocked) (told : Bool) (i : SlotId) : (s.settle told i).NoneLocked := by
  have tell (u : State) (hu : u.NoneLocked) : (u.tell told i).NoneLocked := fun e => by
    rw [State.tell_engine]
    exact hu e
  unfold State.settle
  split
  · exact h
  split
  swap
  · exact h
  split
  swap
  · exact h
  refine tell _ ?_
  unfold State.finishMigration
  split
  · exact h
  · exact h.dropUser _
  · cases Lease.engine _ with
    | none => exact h
    | some f =>
      intro e
      simp only [State.engine_setLease, State.reprogram, State.engine_setEngine]
      split
      · simp [EngineRec.program]
      · exact h e

theorem State.NoneLocked.onHoldover (h : s.NoneLocked) (e : EngineId) (i : SlotId) :
    (Machine.onHoldover e i s).NoneLocked := by
  have back (l : Lease) (st : LeaseState) : (s.background i l st .holdover).NoneLocked := fun f => by
    rw [State.background_engine]
    exact h f
  unfold Machine.onHoldover
  split
  · exact h
  split
  swap
  · exact h
  split
  · exact back _ _
  · exact back _ _
  · exact back _ _
  · exact back _ _
  · split
    · exact (back _ _).settle false i
    · exact h
  all_goals exact h

/-- A loop that writes each engine of a list without repeats from its own record. -/
theorem forEach_engine_map {g : EngineRec → EngineRec} {xs : List EngineId} (hn : xs.Nodup) (s : State)
    (f : EngineId) : (forEach xs (fun e u => u.setEngine e (g (u.engine e))) s).engine f =
      if f ∈ xs then g (s.engine f) else s.engine f := by
  induction xs generalizing s with
  | nil => rfl
  | cons x xs ih =>
    obtain ⟨hx, hxs⟩ := List.nodup_cons.1 hn
    refine (ih hxs (s.setEngine x (g (s.engine x)))).trans ?_
    rw [State.engine_setEngine]
    by_cases hf : f = x
    · subst hf; simp [hx]
    · simp [hf]

/-- The reaction of one engine to the selection of `s` (R50). -/
def State.reselectOne (s : State) (e : EngineId) (u : State) : State :=
  u.setEngine e ((u.engine e).reselect s.selection.isSome s.params.acqLimit)

/-- The part once every engine has reacted to a change of selection (R50). -/
def State.reselected (s : State) : State := forEach allEngines s.reselectOne s

theorem State.reselected_engine (s : State) (e : EngineId) :
    s.reselected.engine e = (s.engine e).reselect s.selection.isSome s.params.acqLimit :=
  (forEach_engine_map (List.nodup_finRange 6) s e).trans (if_pos (List.mem_finRange e))

theorem State.reselected_lease (s : State) (i : SlotId) : s.reselected.lease? i = s.lease? i :=
  forEach_frame (fun t => t.lease? i) s.reselectOne (fun _ _ => rfl) allEngines s

theorem State.reselected_output (s : State) (o : OutputId) : s.reselected.output o = s.output o :=
  forEach_frame (fun t => t.output o) s.reselectOne (fun _ _ => rfl) allEngines s

theorem State.reselected_noneLocked (s : State) : s.reselected.NoneLocked := fun e => by
  rw [State.reselected_engine]
  exact EngineRec.reselect_not_locked _ _ _

theorem State.SoundBut.reselected (h : s.SoundBut none) : s.reselected.SoundBut none :=
  forEach_keeps (P := State.SoundBut none) s.reselectOne
    (fun e _ hu => hu.setEngine e (by simp) ((hu.books.engines e).reselect _ _)) allEngines h

/-- A lease that has yet to hear of the HOLDOVER of its engine, one of `es`. -/
def Lease.AwaitsAny (es : List EngineId) (l : Lease) : Prop := ∃ e ∈ es, l.AwaitsLoss e

/-- HOLDOVER is announced engine by engine, to those of `es` that were LOCKED in `r`. -/
def State.announceHoldovers (r : State) (es : List EngineId) (s : State) : State :=
  forEach es (fun e u => if r.isLocked e then forEach allSlots (onHoldover e) u else u) s

theorem State.announceHoldovers_running {r : State} {es : List EngineId} (h : s.SoundBut none) (hn : s.NoneLocked)
    (hf : ∀ i, s.FollowsBut (Lease.AwaitsAny (es.filter r.isLocked)) i) : (r.announceHoldovers es s).Running := by
  induction es generalizing s with
  | nil => exact ⟨h, fun i => (hf i).followsAt fun l ⟨e, he, _⟩ => by cases he⟩
  | cons e es ih =>
    rw [show r.announceHoldovers (e :: es) s =
      r.announceHoldovers es (if r.isLocked e then forEach allSlots (onHoldover e) s else s) from rfl]
    by_cases hl : r.isLocked e = true
    · have hB (i : SlotId) : s.FollowsBut (fun l => l.AwaitsLoss e ∨ l.AwaitsAny (es.filter r.isLocked)) i :=
        (hf i).imp fun l hl' => by simpa [hl, Lease.AwaitsAny] using hl'
      obtain ⟨h1, h2⟩ := forEach_announce (e := e) (b := false)
        (B := fun l => l.AwaitsLoss e ∨ l.AwaitsAny (es.filter r.isLocked))
        (C := Lease.AwaitsAny (es.filter r.isLocked)) (f := onHoldover e)
        (fun i u hu hf hk => ⟨(SoundFrom.refl hu).onHoldover e (hu.books.gapIn_alone hf fun l hl => by
            rcases hl with hl | ⟨_, -, hl⟩ <;> exact hl.1.not_migrating),
          onHoldover_follows hu hf (fun l ⟨_, _, hl⟩ => hl.1) hk⟩) h hB (by simpa [State.isLocked] using hn e)
      rw [if_pos hl]
      exact ih h1 (forEach_keeps (P := State.NoneLocked) (onHoldover e) (fun i _ hu => hu.onHoldover e i) allSlots hn) h2
    · rw [if_neg hl]
      exact ih h hn fun i => (hf i).imp fun l hl' => by simpa [hl] using hl'

theorem State.announceSelection_eq (s : State) : s.announceSelection = s.announceHoldovers allEngines s.reselected := rfl

/-- A lease after the reactions of the engines, before their announcements. -/
theorem State.Running.reselected_follows (h : s.Running) (i : SlotId) :
    s.reselected.FollowsBut (Lease.AwaitsAny (allEngines.filter s.isLocked)) i := by
  intro l hl
  rw [State.reselected_lease] at hl
  have hf := h.follows i l hl
  by_cases hs : l.state.OnLock
  · obtain ⟨e, he, hk⟩ := hf.locked hs
    exact .inl ⟨e, List.mem_filter.2 ⟨List.mem_finRange e, hk⟩, hs, he⟩
  · refine .inr ⟨fun hp => ?_, fun hs' => absurd hs' hs, fun ha => absurd (.inr (.inr ha)) hs, fun m hm hg => ?_⟩
    · obtain ⟨e, he, -⟩ := hf.pending hp
      exact ⟨e, he, by simpa [State.isLocked] using s.reselected_noneLocked e⟩
    · obtain ⟨e, he, hr⟩ := hf.gap m hm hg
      have hu := Nat.lt_of_lt_of_le (Lease.countOn_pos_of_engine he) (h.sound.books.countOn_le hl e)
      refine ⟨e, he, ?_⟩
      rwa [State.reselected_engine, EngineRec.reselect_reserved (h.sound.books.engines e) hu]

theorem State.Running.announceSelection (h : s.Running) : s.announceSelection.Running := by
  rw [State.announceSelection_eq]
  exact State.announceHoldovers_running h.sound.reselected s.reselected_noneLocked h.reselected_follows

end events

end Sys2Proof.Machine

/-! ## Every step keeps each lease with its engine -/

namespace Sys2Proof.Machine

section commands

variable {i : SlotId} {s t : State} {e : EngineId} {l : Lease} {r : RetuneRequest}

theorem rewritten_follows (hw : l.Wf) (hf : s.LeaseFollows l) (hs : l.state = .pending ∨ l.state = .ready) :
    s.LeaseFollows (l.rewritten r) := by
  have hm := hw.no_migration (LeaseState.Plain.of_pending_or_ready hs).migrating
  rcases hs with hs | hs
  · obtain ⟨e, he, hk⟩ := hf.pending hs
    exact .pending_of hs he hm hk
  · obtain ⟨e, he, hk⟩ := hf.locked (.inl hs)
    exact .started_of (.inl hs) he hm hk

theorem retuneInPlace_follows (told : Bool) (hw : l.Wf) (hf : s.LeaseFollows l)
    (hs : l.state = .pending ∨ l.state = .ready) : (s.retuneInPlace told i l r).FollowsAt i :=
  (State.FollowsAt.setLease (k := l.rewritten r) (rewritten_follows hw hf hs)).tell told

theorem rebind_follows (told : Bool) (hw : l.Wf) (hs : l.state = .pending ∨ l.state = .ready) :
    (s.rebind told i l r e).FollowsAt i :=
  (State.FollowsAt.enter (k := { l.rewritten r with plan := r.plan, engine := some e }) rfl
    (hw.no_migration (LeaseState.Plain.of_pending_or_ready hs).migrating)).tell told

theorem retryAccepted_follows (told : Bool) {q : AllocRequest} {cls : LeaseClass} {pin : Option EngineId}
    {es : List Entry} (hw : l.Wf) (hs : l.state = .failed) : (s.retryAccepted told i l q cls pin es e).FollowsAt i :=
  (State.FollowsAt.enter (k := l.retriedOn q.plan cls pin es e) rfl (hw.no_migration (by simp [hs]))).tell told

theorem openAccepted_follows {p : Port} {c : ClientId} {a : OpenArgs} {cs : List EngineClass} :
    (s.openAccepted p c a cs i e).FollowsAt i := by
  rw [State.openAccepted_eq]
  exact .enter (k := a.lease c p e) rfl rfl

/-- A migration that has begun, once its targets are given, is checked for its end (R95). -/
theorem begun_follows {u : State} {k : Lease} (told : Bool) (hw : k.Wf) (hk : u.lease? i = some k)
    (hs : k.state = .migrating) (hg : ∀ m, k.migration = some m → m.mode = .gap →
      ∃ e, k.engine = some e ∧ (u.engine e).reserved = true) : ((u.tell told i).settle told i).FollowsAt i :=
  ((State.FollowsAt.of_lease hk (.migrating hs hg)).tell told).settle told fun k' hk' => by
    rw [State.tell_lease, hk] at hk'
    cases hk'
    exact hw

/-- The lease that begins a migration. -/
theorem beginMigration_lease (s : State) (i : SlotId) (l : Lease) (m : Migration) :
    (s.beginMigration i l m).lease? i = some { l with state := .migrating, migration := some m } :=
  State.lease_setLease_same _ _ _

theorem retuneLocal_follows (told : Bool) (hw : l.Wf) (hf : s.RetuneFits i l r)
    (hs : l.state = .active ∨ l.state = .disturbed) (hserved : l.servedUnder r = true) :
    (s.retuneLocal told i l r e).FollowsAt i :=
  begun_follows told (State.BooksBut.migrating_wf (r := r) (mode := .loc) (target := none) hw hf.entries hf.outputs hs
    (by simp) (by simp) fun _ => Lease.servedUnder_plan hserved)
    ((State.giveEach_lease _ _ _ i).trans (beginMigration_lease s i l _)) rfl fun m hm hg => by cases hm; cases hg

theorem retuneOverlap_follows (told : Bool) (hw : l.Wf) (hf : s.RetuneFits i l r)
    (hs : l.state = .active ∨ l.state = .disturbed) (ha : s.ask (r.alloc l) = .ok e) :
    (s.retuneOverlap told i l r e).FollowsAt i := by
  have wf := State.BooksBut.migrating_wf (r := r) (mode := .overlap) (target := some e) hw hf.entries hf.outputs hs
    (by simp) (fun _ hk => (State.ask_answers ha).2 hk.symm) (by simp)
  have hlease := beginMigration_lease (s.commit (r.alloc l) e) i l (r.migration .overlap (some e))
  unfold State.retuneOverlap
  dsimp only
  split
  · exact begun_follows told wf ((State.giveEach_lease _ _ _ i).trans hlease) rfl fun m hm hg => by cases hm; cases hg
  · exact begun_follows told wf hlease rfl fun m hm hg => by cases hm; cases hg

theorem retuneGap_follows (told : Bool) (hw : l.Wf) (hf : s.RetuneFits i l r)
    (hs : l.state = .active ∨ l.state = .disturbed) (he : l.engine = some e) :
    (s.retuneGap told i l r e).FollowsAt i := by
  refine begun_follows told (State.BooksBut.migrating_wf (r := r) (mode := .gap) (target := none) hw hf.entries
    hf.outputs hs (by simp) (by simp) (by simp))
    ((State.giveEach_lease _ _ _ i).trans (beginMigration_lease _ i l _)) rfl fun m _ _ => ⟨e, he, ?_⟩
  simp [State.beginMigration, State.reserve]

/-! ### Completions -/

/-- A changeover is none of an ACTIVE lease's outputs, which run (R36). -/
theorem State.Running.complete (h : s.Running) {o : OutputId} (hc : (s.output o).state.isChanging = true) :
    (s.setOutput o { s.output o with state := (s.output o).state.complete }).Running := by
  refine ⟨h.sound.complete, fun i l hl => (h.follows i l hl).congr (fun _ _ => ⟨rfl, rfl⟩) fun ha b hb => ?_⟩
  rw [State.output_setOutput]
  split
  · rename_i hbo
    obtain ⟨x, hx, rfl⟩ := List.mem_map.1 hb
    obtain ⟨e, -, -, ho⟩ := (h.follows i l hl).active_engine ha
    rw [← hbo, State.outputsAll_runsAt.1 ho x hx] at hc
    cases hc
  · rfl

theorem State.Running.reportCompletion (h : s.Running) (o : OutputId) : (s.reportCompletion o).Running := by
  unfold State.reportCompletion
  split
  · rename_i i _
    have hX := h.sound.books.gapIn_alone (B := fun _ => False) (.of_followsAt (h.follows i)) fun _ hb => hb.elim
    exact h.slotWork ((SoundFrom.refl h.sound).onCompletion hX) (onCompletion_follows h.sound (h.follows i))
  · exact h

/-! ### START -/

theorem State.Running.started (p : Port) {is : List SlotId} (h : s.Running) (hc : s.StartChecked is) :
    (forEach is (State.startOne p) s).Running :=
  (forEach_slots (G := State.Running) (pre := fun i s => ∀ l, s.lease? i = some l → l.startable = true)
    (post := fun _ _ => True) (f := State.startOne p)
    (fun i _ hs hp => ⟨hs.slotWork ((SoundFrom.refl hs.sound).startOne p hp)
      (startOne_follows p hs.sound (hs.follows i) hp), trivial⟩)
    (fun _ _ _ hj _ _ hp l hl => hp l (State.startOne_lease_ne hj ▸ hl)) (fun _ _ _ _ _ _ _ => trivial)
    hc.nodup h hc.startable fun _ _ => trivial).1

end commands

/-- One engine without users is written. -/
theorem State.Running.setUnused {s : State} {e : EngineId} {x : EngineRec} (h : s.Running)
    (hx : (s.setEngine e x).SoundBut none) (hu : (s.engine e).users = 0) : (s.setEngine e x).Running :=
  ⟨hx, fun i => ((h.follows i).setEngine (B := fun _ => False) fun l hl he _ => by
    have := Nat.lt_of_lt_of_le (Lease.countOn_pos_of_engine he) (h.sound.books.countOn_le hl e)
    omega).followsAt fun _ => id⟩

theorem State.Blank.running {s : State} (h : s.Blank) : s.Running :=
  ⟨h.sound, fun i => .of_none (h.leases i)⟩

theorem running_stepClosed : StepClosed State.Running where
  board k h := h.board k
  blank h := h.running
  ticked {s} e n h := ⟨soundBut_stepClosed.ticked e n h.sound, fun i =>
    ((h.follows i).setEngine (B := fun _ => False) fun l _ he hf => .inr (hf.congr (fun f hf' => by
      cases he.symm.trans hf'
      rw [State.engine_setEngine_same]
      exact ⟨rfl, rfl⟩) fun _ _ _ => rfl)).followsAt fun _ => id⟩
  cleared {s} e h hs := h.setUnused (soundBut_stepClosed.cleared e h.sound hs) (by
    have hb := h.sound.books.engines e
    rcases hs with hs | hs
    · exact hb.unused (.inr hs)
    · exact (hb.faulted hs).resolve_left (by simp))
  locked e h hs := h.locked hs
  slipped e n h hs := h.slipped n hs
  faulted e r h hs := h.declareFault r hs
  reselected h := h.announceSelection
  completed o h hc := (h.complete hc).reportCompletion o
  opened p _ _ _ _ _ h hc := h.slotWork (SoundFrom.openAccepted p h.sound hc) openAccepted_follows
  started p _ h hc := h.started p hc
  rewritten told i l r h hf hs _ := h.slotWork ((SoundFrom.refl h.sound).retuneInPlace told hf hs)
    (retuneInPlace_follows told (h.sound.books.leases i l hf.lease) (h.follows i l hf.lease) hs)
  rebound told i l r e h hf hs ha := h.slotWork ((SoundFrom.refl h.sound).rebind told hf hs ha)
    (rebind_follows told (h.sound.books.leases i l hf.lease) hs)
  redivided told i l r e h hf hs he hserved := h.slotWork ((SoundFrom.refl h.sound).retuneLocal told hf hs he hserved)
    (retuneLocal_follows told (h.sound.books.leases i l hf.lease) hf hs hserved)
  overlapped told i l r e t h hf hs _ ha := h.slotWork ((SoundFrom.refl h.sound).retuneOverlap told hf hs ha)
    (retuneOverlap_follows told (h.sound.books.leases i l hf.lease) hf hs ha)
  quieted told i l r e h hf hs he hu := h.slotWork ((SoundFrom.refl h.sound).retuneGap told hf hs he hu
    (h.sound.books.alone hf.lease he hu)) (retuneGap_follows told (h.sound.books.leases i l hf.lease) hf hs he)
  ended told r i l h hl hs := h.slotWork ((SoundFrom.refl h.sound).endLease told r hl hs) (.endLease told r)
  retried told i l r cls pin es e h hc := h.slotWork ((SoundFrom.refl h.sound).retryAccepted told cls pin hc)
    (retryAccepted_follows told (h.sound.books.leases i l hc.lease) hc.failed)

/-- Settles O58: each event reaches, slot by slot, every lease on the engine whose standing it changes. -/
theorem stepKeepsSoundRun : Obligations.StepKeepsSoundRun := by
  intro s t h hst
  rw [← State.running_iff] at h ⊢
  exact running_stepClosed.step h hst

end Sys2Proof.Machine

/-! ## The tags of live leases

No operation on a live lease writes its owner or its tag: an OPEN alone brings a new pair, which it has checked. -/

namespace Sys2Proof.Machine

/-- Slot `i` holds a live lease of the owner and the tag of `l` (R6, R7). -/
def State.Names (s : State) (i : SlotId) (l : Lease) : Prop :=
  ∃ k, s.lease? i = some k ∧ k.owner = l.owner ∧ k.tag = l.tag

/-- Every live lease of `t` stood in its slot in `s`, of the same owner and tag. -/
def NamesFrom (s t : State) : Prop := ∀ i l, t.lease? i = some l → s.Names i l

theorem State.TagsUnique.of_namesFrom {s t : State} (h : s.TagsUnique) (k : NamesFrom s t) : t.TagsUnique := by
  intro i j l m hl hm ho ht htag
  obtain ⟨l', hl', lo, lt⟩ := k i l hl
  obtain ⟨m', hm', mo, mt⟩ := k j m hm
  exact h i j l' m' hl' hm' (lo.trans (ho.trans mo.symm)) (lt ▸ ht) (lt.trans (htag.trans mt.symm))

namespace NamesFrom

variable {s t u : State} {i : SlotId} {l : Lease}

theorem refl (s : State) : NamesFrom s s := fun _ l hl => ⟨l, hl, rfl, rfl⟩

theorem of_lease (hu : ∀ j, u.lease? j = t.lease? j) (h : NamesFrom s t) : NamesFrom s u :=
  fun j l hl => h j l ((hu j).symm.trans hl)

theorem board (k : SameBoard t u) (h : NamesFrom s t) : NamesFrom s u := h.of_lease k.leases

/-- A lease is rewritten; its owner and its tag stay. -/
theorem setLease {k : Lease} (hl : s.Names i l) (h : NamesFrom s t) (ho : k.owner = l.owner := by rfl)
    (ht : k.tag = l.tag := by rfl) : NamesFrom s (t.setLease i k) := by
  obtain ⟨m, hm, mo, mt⟩ := hl
  intro j k' hk
  rw [State.lease_setLease] at hk
  split at hk
  · rename_i hji
    cases hk
    exact hji ▸ ⟨m, hm, mo.trans ho.symm, mt.trans ht.symm⟩
  · exact h j k' hk

/-- A slot that is freed names no lease. -/
theorem free {x : Slot} (hx : x.standing.lease? = none) (h : NamesFrom s t) : NamesFrom s (t.setSlot i x) := by
  intro j k hk
  rw [State.lease_setSlot] at hk
  split at hk
  · rw [hx] at hk; cases hk
  · exact h j k hk

theorem raise (j : SlotId) (closed : Bool) (h : NamesFrom s t) : NamesFrom s (t.raise j closed) :=
  h.board ((SameBoard.refl t).raise j closed)

theorem tell (told : Bool) (j : SlotId) (h : NamesFrom s t) : NamesFrom s (t.tell told j) :=
  h.board ((SameBoard.refl t).tell told j)

theorem setEngine (e : EngineId) (x : EngineRec) (h : NamesFrom s t) : NamesFrom s (t.setEngine e x) :=
  h.of_lease fun _ => rfl

theorem setOutput (o : OutputId) (x : OutputRec) (h : NamesFrom s t) : NamesFrom s (t.setOutput o x) :=
  h.of_lease fun _ => rfl

theorem giveEach (want : OutState → Entry → Option Target) (es : List Entry) (h : NamesFrom s t) :
    NamesFrom s (t.giveEach want es) :=
  h.of_lease fun j => by simp

theorem setHolders (k : Option SlotId) (es : List Entry) (h : NamesFrom s t) : NamesFrom s (t.setHolders k es) :=
  h.of_lease fun j => by simp

theorem dropUser (e : Option EngineId) (h : NamesFrom s t) : NamesFrom s (t.dropUser e) := h.of_lease fun j => by simp

theorem commit (r : AllocRequest) (e : EngineId) (h : NamesFrom s t) : NamesFrom s (t.commit r e) :=
  h.of_lease fun _ => rfl

/-! ### What befalls a lease -/

theorem enter (i : SlotId) (h : NamesFrom s t) : NamesFrom s (t.enter i) := by
  unfold State.enter
  split
  · exact h
  · rename_i l hl
    have hn : s.Names i l := h i l hl
    split
    · exact h.setLease hn
    · split
      · split
        · exact h.setLease hn
        · exact (h.setLease hn).giveEach _ _
      · exact h.setLease hn

theorem finishMigration (m : Migration) (hn : s.Names i l) (h : NamesFrom s t) :
    NamesFrom s (t.finishMigration i l m) := by
  unfold State.finishMigration
  split
  · exact h.setLease hn
  · exact (h.dropUser _).setLease hn
  · cases l.engine with
    | none => exact h.setLease hn
    | some e => exact (h.setEngine e _).setLease hn

theorem settle (told : Bool) (i : SlotId) (h : NamesFrom s t) : NamesFrom s (t.settle told i) := by
  unfold State.settle
  split
  · exact h
  · rename_i l hl
    split
    · split
      · exact (h.finishMigration _ (h i l hl)).tell told i
      · exact h
    · exact h

theorem background {k : Lease} (st : LeaseState) (r : Reason) (hn : s.Names i l) (h : NamesFrom s t)
    (ho : k.owner = l.owner := by rfl) (ht : k.tag = l.tag := by rfl) : NamesFrom s (t.background i k st r) :=
  (h.setLease (k := { k with state := st, reason := r }) hn ho ht).raise i false

theorem startPending (e : EngineId) (hn : s.Names i l) (h : NamesFrom s t) : NamesFrom s (t.startPending e i l) := by
  unfold State.startPending
  split
  · exact h.background _ _ hn
  · exact (h.background _ _ hn).giveEach _ _

theorem relock (e : EngineId) (hn : s.Names i l) (h : NamesFrom s t) : NamesFrom s (t.relock e i l) := by
  unfold State.relock
  split
  · exact h.background _ _ hn
  · exact h.giveEach _ _

theorem migrationLocked (e : EngineId) (l : Lease) (m : Migration) (h : NamesFrom s t) :
    NamesFrom s (t.migrationLocked e l m) :=
  h.of_lease (SoundFrom.migrationLocked_lease t e l m)

theorem mute (l : Lease) (h : NamesFrom s t) : NamesFrom s (t.mute l) := by
  unfold State.mute
  split
  · exact h.giveEach _ _
  · exact h

theorem migrationSlip (e : EngineId) (l : Lease) (m : Migration) (h : NamesFrom s t) :
    NamesFrom s (t.migrationSlip e l m) :=
  h.of_lease (SoundFrom.migrationSlip_lease t e l m)

theorem onLocked (e : EngineId) (i : SlotId) (h : NamesFrom s t) : NamesFrom s (Machine.onLocked e i t) := by
  unfold Machine.onLocked
  split
  · exact h
  · rename_i l hl
    split
    · split
      · exact h.startPending e (h i l hl)
      · exact h.relock e (h i l hl)
      · split
        · exact (h.migrationLocked e l _).settle false i
        · exact h
      all_goals exact h
    · exact h

theorem onSlip (e : EngineId) (i : SlotId) (h : NamesFrom s t) : NamesFrom s (Machine.onSlip e i t) := by
  unfold Machine.onSlip
  split
  · exact h
  · rename_i l hl
    have back (st : LeaseState) : NamesFrom s (t.background i l st .slip) := h.background st .slip (h i l hl)
    split
    · split
      · exact back .pending
      · exact (back .disturbed).mute l
      · exact (back .disturbed).mute l
      · exact (back .disturbed).mute l
      · split
        · exact ((back .migrating).migrationSlip e l _).settle false i
        · exact h
      all_goals exact h
    · exact h

theorem onHoldover (e : EngineId) (i : SlotId) (h : NamesFrom s t) : NamesFrom s (Machine.onHoldover e i t) := by
  unfold Machine.onHoldover
  split
  · exact h
  · rename_i l hl
    have back (st : LeaseState) : NamesFrom s (t.background i l st .holdover) := h.background st .holdover (h i l hl)
    split
    · split
      · exact back .pending
      · exact back .disturbed
      · exact back .disturbed
      · exact back .disturbed
      · split
        · exact (back .migrating).settle false i
        · exact h
      all_goals exact h
    · exact h

/-! ### Closing -/

theorem retire (i : SlotId) (l : Lease) (h : NamesFrom s t) : NamesFrom s (t.retire i l) := (h.raise i true).free rfl

theorem freeTold (i : SlotId) (l : Lease) (h : NamesFrom s t) : NamesFrom s (t.freeTold i l) :=
  (h.board ((SameBoard.refl t).setPort _ _)).free rfl

theorem giveUp (l : Lease) (h : NamesFrom s t) : NamesFrom s (t.giveUp l) :=
  (((h.dropUser _).dropUser _).setHolders _ _).dropUser _

theorem closeIfQuiet (i : SlotId) (h : NamesFrom s t) : NamesFrom s (t.closeIfQuiet i) := by
  unfold State.closeIfQuiet
  split
  · exact h
  · split
    · exact (h.giveUp _).retire i _
    · exact h

theorem endLease (told : Bool) (r : Reason) (hn : s.Names i l) (h : NamesFrom s t) :
    NamesFrom s (t.endLease told r i l) := by
  unfold State.endLease
  split
  · dsimp only
    split
    · exact ((h.setLease hn).giveUp _).freeTold i l
    · exact ((h.setLease hn).giveUp _).retire i _
  · exact ((h.setLease hn).tell told i).giveEach _ _

/-! ### Faults -/

theorem sourceFault (m : Migration) (hn : s.Names i l) (h : NamesFrom s t) : NamesFrom s (t.sourceFault i l m) := by
  unfold State.sourceFault
  dsimp only
  split
  · split
    · exact ((h.background _ _ hn).giveEach _ _).settle false i
    · exact (h.background _ _ hn).settle false i
  · exact h.background _ _ hn

theorem targetFault (hn : s.Names i l) (h : NamesFrom s t) : NamesFrom s (t.targetFault i l) := by
  unfold State.targetFault
  dsimp only
  split
  · exact h.background _ _ hn
  · split
    · split
      · exact h.background _ _ hn
      · exact (h.background _ _ hn).giveEach _ _
    · exact h.background _ _ hn

theorem onFault (e : EngineId) (i : SlotId) (h : NamesFrom s t) : NamesFrom s (Machine.onFault e i t) := by
  unfold Machine.onFault
  split
  · exact h
  · rename_i l hl
    have hn := h i l hl
    have hd := h.dropUser (some e)
    have fail : NamesFrom s (if l.runsFrom e then (t.dropUser (some e)).failLease i l else t) := by
      split
      · exact hd.background _ _ hn
      · exact h
    split
    case h_1 =>
      split
      · exact (hd.setLease hn).closeIfQuiet i
      · exact h
    case h_2 =>
      split
      · exact h
      · split
        · exact hd.targetFault hn
        · split
          · split
            · exact hd.sourceFault _ hn
            · exact hd.background _ _ hn
            · exact hd.background _ _ hn
          · exact h
    case h_8 => exact h
    all_goals exact fail

theorem declareFault (e : EngineId) (r : FaultReason) (h : NamesFrom s t) : NamesFrom s (t.declareFault e r) :=
  (forEach_keeps (P := NamesFrom s) (Machine.onFault e) (fun i _ hu => hu.onFault e i) allSlots
    ((h.setEngine e _).of_lease (State.BooksBut.forceQuietTied_lease _ e))).board ((SameBoard.refl _).deviceNotices _)

/-! ### The other events -/

theorem onCompletion (i : SlotId) (h : NamesFrom s t) : NamesFrom s (Machine.onCompletion i t) := by
  unfold Machine.onCompletion
  split
  · exact h
  · rename_i l hl
    split
    · split
      · exact h.background _ _ (h i l hl)
      · exact h
    · split
      · exact h.background _ _ (h i l hl)
      · exact h
    · exact h.settle false i
    · exact h.closeIfQuiet i
    all_goals exact h

theorem reportCompletion (o : OutputId) (h : NamesFrom s t) : NamesFrom s (t.reportCompletion o) := by
  unfold State.reportCompletion
  split
  · exact h.onCompletion _
  · exact h

theorem announceSelection (h : NamesFrom s t) : NamesFrom s t.announceSelection := by
  unfold State.announceSelection
  refine forEach_keeps (P := NamesFrom s) _ (fun e u hu => ?_) _
    (forEach_keeps (P := NamesFrom s) _ (fun e u hu => hu.setEngine e _) _ h)
  split
  · exact forEach_keeps (P := NamesFrom s) (Machine.onHoldover e) (fun i v hv => hv.onHoldover e i) allSlots hu
  · exact hu

/-! ### The lease commands -/

theorem startOne (p : Port) (i : SlotId) (h : NamesFrom s t) : NamesFrom s (t.startOne p i) := by
  unfold State.startOne
  split
  · exact h
  · rename_i l hl
    split
    · split
      · exact ((h.setLease (h i l hl)).giveEach _ _).tell _ i
      · exact h
    · exact h.setLease (h i l hl)

theorem rebind (told : Bool) (r : RetuneRequest) (e : EngineId) (hn : s.Names i l) (h : NamesFrom s t) :
    NamesFrom s (t.rebind told i l r e) :=
  ((((h.commit _ _).dropUser _).setLease hn).enter i).tell told i

theorem retuneLocal (told : Bool) (r : RetuneRequest) (e : EngineId) (hn : s.Names i l) (h : NamesFrom s t) :
    NamesFrom s (t.retuneLocal told i l r e) :=
  (((h.setLease hn).giveEach _ _).tell told i).settle told i

theorem retuneOverlap (told : Bool) (r : RetuneRequest) (e : EngineId) (hn : s.Names i l) (h : NamesFrom s t) :
    NamesFrom s (t.retuneOverlap told i l r e) := by
  unfold State.retuneOverlap
  dsimp only
  split
  · exact ((((h.commit _ _).setLease hn).giveEach _ _).tell told i).settle told i
  · exact (((h.commit _ _).setLease hn).tell told i).settle told i

theorem retuneGap (told : Bool) (r : RetuneRequest) (e : EngineId) (hn : s.Names i l) (h : NamesFrom s t) :
    NamesFrom s (t.retuneGap told i l r e) :=
  ((((h.setEngine e _).setLease hn).giveEach _ _).tell told i).settle told i

theorem retryAccepted (told : Bool) (r : AllocRequest) (cls : LeaseClass) (pin : Option EngineId) (es : List Entry)
    (e : EngineId) (hn : s.Names i l) (h : NamesFrom s t) :
    NamesFrom s (t.retryAccepted told i l r cls pin es e) :=
  (((h.commit _ _).setLease hn).enter i).tell told i

end NamesFrom

/-! ### Every step -/

theorem State.names_of_lease {s : State} {i : SlotId} {l : Lease} (h : s.lease? i = some l) : s.Names i l :=
  ⟨l, h, rfl, rfl⟩

theorem State.Blank.tagsUnique {s : State} (h : s.Blank) : s.TagsUnique :=
  fun i _ l _ hl => by rw [h.leases i] at hl; cases hl

/-- The tag of an accepted OPEN is on no other live lease of its client (R7, R25). -/
theorem State.tagInUse_eq_false {s : State} {c : ClientId} {tag : Option Nat} (h : s.tagInUse c tag = false)
    {i : SlotId} {l : Lease} (hl : s.lease? i = some l) (ho : l.owner = c) (ht : tag.isSome = true) :
    l.tag ≠ tag := by
  intro htag
  simp only [State.tagInUse, ht, Bool.true_and, List.any_eq_false] at h
  simpa [hl, ho, htag] using h i (mem_allSlots i)

/-- A lease whose tag no live lease of its owner carries is written into a slot without a lease. -/
theorem State.TagsUnique.setLease {s : State} (h : s.TagsUnique) {i : SlotId} {l : Lease}
    (hl : s.tagInUse l.owner l.tag = false) (hi : s.lease? i = none) : (s.setLease i l).TagsUnique := by
  have other : ∀ j k, j ≠ i → (s.setLease i l).lease? j = some k → s.lease? j = some k := fun j k hj hk => by
    rwa [State.lease_setLease_ne _ _ hj] at hk
  have self : ∀ k, (s.setLease i l).lease? i = some k → k = l := fun k hk => by simpa using hk.symm
  intro a b x y hx hy ho ht htag
  by_cases ha : a = i <;> by_cases hb : b = i
  · exact ha.trans hb.symm
  · subst ha
    cases self x hx
    exact absurd htag.symm (State.tagInUse_eq_false hl (other b y hb hy) ho.symm ht)
  · subst hb
    cases self y hy
    exact absurd htag (State.tagInUse_eq_false hl (other a x ha hx) ho (htag ▸ ht))
  · exact h a b x y (other a x ha hx) (other b y hb hy) ho ht htag

theorem State.TagsUnique.openAccepted {s : State} (h : s.TagsUnique) (p : Port) {c : ClientId} {a : OpenArgs}
    {cs : List EngineClass} {i : SlotId} {e : EngineId} (hc : s.OpenChecked c a cs i e) :
    (s.openAccepted p c a cs i e).TagsUnique := by
  have hi := State.lowestFree_lease hc.slot
  have hs : (s.setLease i (a.lease c p e)).TagsUnique := h.setLease hc.tag hi
  refine hs.of_namesFrom (NamesFrom.enter i (.setHolders _ _ fun j k hk => ?_))
  refine State.names_of_lease ?_
  rw [State.lease_setLease] at hk ⊢
  exact hk

theorem tagsUnique_stepClosed : StepClosed State.TagsUnique where
  board k h := h.of_namesFrom (.board k (.refl _))
  blank h := h.tagsUnique
  ticked e _ h := h.of_namesFrom ((NamesFrom.refl _).setEngine e _)
  cleared e h _ := h.of_namesFrom ((NamesFrom.refl _).setEngine e _)
  locked e h _ := h.of_namesFrom (forEach_keeps (P := NamesFrom _) (onLocked e) (fun i _ hu => hu.onLocked e i) allSlots
    ((NamesFrom.refl _).setEngine e _))
  slipped e _ h _ := h.of_namesFrom (forEach_keeps (P := NamesFrom _) (onSlip e) (fun i _ hu => hu.onSlip e i) allSlots
    ((NamesFrom.refl _).setEngine e _))
  faulted e r h _ := h.of_namesFrom ((NamesFrom.refl _).declareFault e r)
  reselected h := h.of_namesFrom (NamesFrom.refl _).announceSelection
  completed o h _ := h.of_namesFrom (((NamesFrom.refl _).setOutput o _).reportCompletion o)
  opened p _ _ _ _ _ h hc := h.openAccepted p hc
  started p is h _ := h.of_namesFrom (forEach_keeps (P := NamesFrom _) (State.startOne p)
    (fun i _ hu => hu.startOne p i) is (.refl _))
  rewritten told i _ _ h hf _ _ := h.of_namesFrom (((NamesFrom.refl _).setLease (State.names_of_lease hf.lease)).tell told i)
  rebound told _ _ r e h hf _ _ := h.of_namesFrom ((NamesFrom.refl _).rebind told r e (State.names_of_lease hf.lease))
  redivided told _ _ r e h hf _ _ _ :=
    h.of_namesFrom ((NamesFrom.refl _).retuneLocal told r e (State.names_of_lease hf.lease))
  overlapped told _ _ r _ t h hf _ _ _ :=
    h.of_namesFrom ((NamesFrom.refl _).retuneOverlap told r t (State.names_of_lease hf.lease))
  quieted told _ _ r e h hf _ _ _ :=
    h.of_namesFrom ((NamesFrom.refl _).retuneGap told r e (State.names_of_lease hf.lease))
  ended told r _ _ h hl _ := h.of_namesFrom ((NamesFrom.refl _).endLease told r (State.names_of_lease hl))
  retried told _ _ r cls pin es e h hc :=
    h.of_namesFrom ((NamesFrom.refl _).retryAccepted told r cls pin es e (State.names_of_lease hc.lease))

/-- Settles O59: an OPEN checks its tag against the client's live leases, and nothing else writes an owner or a tag. -/
theorem stepKeepsTagsUnique : Obligations.StepKeepsTagsUnique :=
  fun _ _ h hst => tagsUnique_stepClosed.step h hst

end Sys2Proof.Machine

/-! ## The reset state -/

namespace Sys2Proof.Machine

theorem InputRec.initial_sound : InputRec.initial.Sound where
  interval := by decide
  qualification := by decide
  strikes h := absurd rfl h

theorem EngineRec.initial_follows (b : Bool) : EngineRec.initial.Follows b where
  locked h := by cases h
  lingering h := by cases h
  acquiring h := by cases h
  holdover h := by cases h
  relock h := by cases h

theorem State.reset_inputs : State.reset.InputsSound := fun r => by
  rw [State.reset_input]
  exact InputRec.initial_sound

theorem State.reset_configInRange : State.reset.ConfigInRange where
  params := by constructor <;> decide
  quotas c := by simp
  masks p := by cases p <;> rfl

theorem State.reset_noticesOk : State.reset.NoticesOk where
  entries p i n h := by cases p <;> simp [State.reset, State.port, PortState.initial] at h
  retired p i h := by rw [State.reset_slot] at h; cases h

theorem State.reset_dormant : State.reset.Dormant where
  exchanges p := by cases p <;> rfl
  inputs := State.reset_input
  selection := rfl
  slots := State.reset_slot
  engines := State.reset_engine
  outputs := State.reset_output

/-- Settles O49: after reset there is no lease, no engine in use, no input watched and nothing selected. -/
theorem invariantsAtReset : Obligations.InvariantsAtReset :=
  have hrun := State.reset.running_iff.1 State.reset_blank.running
  ⟨nofun, State.reset_inputs, hrun.sound.targets, State.reset_configInRange,
    fun e => State.reset_engine e ▸ EngineRec.initial_follows _, State.reset_noticesOk, hrun.sound.books,
    hrun.sound, hrun, State.reset_blank.tagsUnique, fun _ => State.reset_dormant⟩

end Sys2Proof.Machine

/-! ## The layouts of the bodies

Each reading of R181, as the bytes it accepts and the values it reads from them. -/

namespace Sys2Proof.Machine

/-! ### One field -/

theorem engineByte_eq (o : Option EngineId) : engineByte o = (o.map fun e => byte e.1).getD 0xFF#8 := by
  cases o <;> rfl

theorem classByte_eq (o : Option LeaseClass) : classByte o = (o.map fun k => k.code).getD 0xFF#8 := by
  cases o <;> rfl

theorem readClass_eq_some_iff (b : Byte) (k : LeaseClass) : readClass b = some k ↔ b = k.code := by
  constructor
  · intro h
    unfold readClass at h
    split at h
    · cases h; assumption
    · split at h
      · cases h; assumption
      · split at h
        · cases h; assumption
        · cases h
  · rintro rfl
    cases k <;> rfl

theorem LeaseClass.code_ne_absent (k : LeaseClass) : k.code ≠ absentByte := by cases k <;> decide

theorem readClass?_eq_some_iff (b : Byte) (o : Option LeaseClass) : readClass? b = some o ↔ b = classByte o := by
  unfold readClass?
  cases o with
  | none => by_cases hb : b = absentByte <;> simp [hb, classByte]
  | some k =>
    by_cases hb : b = absentByte
    · simpa [hb, classByte] using k.code_ne_absent.symm
    · simp [hb, classByte, readClass_eq_some_iff]

theorem engine_byte_ne_absent (e : EngineId) : byte e.1 ≠ absentByte := by revert e; decide

theorem readPin_eq_some_iff (b : Byte) (o : Option EngineId) : readPin b = some o ↔ b = engineByte o := by
  unfold readPin
  cases o with
  | none => by_cases hb : b = absentByte <;> simp [hb, engineByte]
  | some e =>
    by_cases hb : b = absentByte
    · simpa [hb, engineByte] using (engine_byte_ne_absent e).symm
    · simp [hb, engineByte, readFin_eq_some_iff]

/-- A byte whose upper four bits are clear is put together from the lower four. -/
theorem flagsByte_of_bits : ∀ b : Byte, b &&& 0xF0#8 = 0#8 →
    flagsByte ⟨b.getLsbD 0, b.getLsbD 1, b.getLsbD 2, b.getLsbD 3⟩ false = b := by decide +kernel

theorem readFlags_flagsByte : ∀ w x y z : Bool, readFlags (flagsByte ⟨w, x, y, z⟩ false) = some ⟨w, x, y, z⟩ := by
  decide

theorem readFlags_eq_some_iff (b : Byte) (f : LeaseFlags) : readFlags b = some f ↔ b = flagsByte f false := by
  constructor
  · intro h
    unfold readFlags at h
    split at h
    · rename_i hb
      cases h
      exact (flagsByte_of_bits b hb).symm
    · cases h
  · rintro rfl
    exact readFlags_flagsByte _ _ _ _

/-- The two bits that a byte carries with the others clear. -/
theorem two_bits_iff : ∀ (b : Byte) (x y : Bool), (b &&& 0xFC#8 = 0#8 ∧ b.getLsbD 0 = x ∧ b.getLsbD 1 = y) ↔
    b = (if x then 0x01#8 else 0x00#8) ||| (if y then 0x02#8 else 0x00#8) := by decide +kernel

/-- The tag of a body: two bytes, 0 for none (R7, R181). -/
theorem tag_eq_iff (t1 t0 : Byte) (o : Option Nat) :
    (if number [t1, t0] = 0 then none else some (number [t1, t0])) = o ↔
      t1 = byte (o.getD 0 / 256) ∧ t0 = byte (o.getD 0) ∧ ∀ t, o = some t → 1 ≤ t ∧ t ≤ 65535 := by
  constructor
  · rintro rfl
    obtain ⟨hlt, h1, h0⟩ := (number_two_eq_iff t1 t0 _).1 rfl
    generalize number [t1, t0] = n at hlt h1 h0
    by_cases hz : n = 0
    · subst hz
      simpa using ⟨h1, h0⟩
    · simp only [if_neg hz, Option.getD_some, Option.some.injEq]
      exact ⟨h1, h0, fun t ht => by omega⟩
  · rintro ⟨rfl, rfl, ht⟩
    cases o with
    | none => exact if_pos (number_two_bytes (n := 0) (by decide))
    | some t =>
      have := ht t rfl
      rw [Option.getD_some, number_two_bytes (by omega), if_neg (by omega)]

theorem readPlan_eq_some_iff (n1 n0 d : Byte) (p : Plan) : readPlan n1 n0 d = some p ↔
    (n1 = byte (p.n / 256) ∧ n0 = byte p.n ∧ d = byte p.d) ∧ p.Carried := by
  unfold readPlan Plan.Carried
  dsimp only
  constructor
  · intro h
    split at h
    · rename_i hr
      cases h
      obtain ⟨-, h1, h0⟩ := (number_two_eq_iff n1 n0 _).1 rfl
      exact ⟨⟨h1, h0, by simp⟩, hr.1, hr.2.1, hr.2.2, Nat.le_of_lt_succ d.isLt⟩
    · cases h
  · rintro ⟨⟨rfl, rfl, rfl⟩, hr⟩
    rw [number_two_bytes (by omega), byte_toNat (by omega), if_pos ⟨hr.1, hr.2.1, hr.2.2.1⟩]

/-- A plan whose N and D are both 0 is absent (R181). -/
theorem readPlan?_eq_some_iff (n1 n0 d : Byte) (o : Option Plan) : readPlan? n1 n0 d = some o ↔
    (n1 = byte ((o.map Plan.n).getD 0 / 256) ∧ n0 = byte ((o.map Plan.n).getD 0) ∧
      d = byte ((o.map Plan.d).getD 0)) ∧ ∀ p, o = some p → p.Carried := by
  unfold readPlan?
  cases o with
  | none =>
    have hz := number_two_eq_iff n1 n0 0
    by_cases h : number [n1, n0] = 0 ∧ d = 0#8
    · obtain ⟨-, h1, h0⟩ := hz.1 h.1
      rw [if_pos h]
      exact ⟨fun _ => ⟨⟨h1, h0, h.2⟩, nofun⟩, fun _ => rfl⟩
    · rw [if_neg h]
      exact ⟨fun hm => by simp at hm, fun hm => absurd ⟨hz.2 ⟨by decide, hm.1.1, hm.1.2.1⟩, hm.1.2.2⟩ h⟩
  | some p =>
    by_cases h : number [n1, n0] = 0 ∧ d = 0#8
    · rw [if_pos h]
      refine ⟨fun hm => by simp at hm, fun hm => ?_⟩
      have hc := hm.2 p rfl
      have := (readPlan_eq_some_iff n1 n0 d p).2 ⟨hm.1, hc⟩
      simp [readPlan, h.1] at this
    · simp [if_neg h, readPlan_eq_some_iff]

/-! ### The bodies that name leases -/

theorem readOpen_eq_some_iff (body : List Byte) (a : OpenArgs) : readOpen body = some a ↔
    body = [byte (a.tag.getD 0 / 256), byte (a.tag.getD 0), byte (a.plan.n / 256), byte a.plan.n, byte a.plan.d,
        a.cls.code, flagsByte a.flags false, engineByte a.pin, byte a.entries.length] ++ entriesBytes a.entries ∧
    (∀ t, a.tag = some t → 1 ≤ t ∧ t ≤ 65535) ∧ a.plan.Carried ∧ EntriesOk a.entries := by
  constructor
  · intro h
    unfold readOpen at h
    split at h
    · rename_i t1 t0 n1 n0 d c f p k rest
      split at h
      · rename_i plan cls flags pin es hplan hcls hflags hpin hes
        have ht := (tag_eq_iff t1 t0 _).1 rfl
        cases h
        obtain ⟨ht1, ht0, htag⟩ := ht
        obtain ⟨⟨h1, h2, h3⟩, hc⟩ := (readPlan_eq_some_iff _ _ _ _).1 hplan
        obtain ⟨hk, hrest, hok⟩ := (readEntryList1_eq_some_iff _ _ _).1 hes
        refine ⟨?_, htag, hc, hok⟩
        simp only [List.cons_append, List.nil_append, List.cons.injEq]
        exact ⟨ht1, ht0, h1, h2, h3, (readClass_eq_some_iff _ _).1 hcls, (readFlags_eq_some_iff _ _).1 hflags,
          (readPin_eq_some_iff _ _).1 hpin, hk, hrest⟩
      · cases h
    · cases h
  · rintro ⟨rfl, htag, hc, hok⟩
    have ht := (tag_eq_iff _ _ a.tag).2 ⟨rfl, rfl, htag⟩
    simp only [List.cons_append, List.nil_append, readOpen, (readPlan_eq_some_iff _ _ _ a.plan).2 ⟨⟨rfl, rfl, rfl⟩, hc⟩,
      (readClass_eq_some_iff _ a.cls).2 rfl, (readFlags_eq_some_iff _ a.flags).2 rfl,
      (readPin_eq_some_iff _ a.pin).2 rfl, (readEntryList1_eq_some_iff _ _ a.entries).2 ⟨rfl, rfl, hok⟩, ht]

theorem readRetune_eq_some_iff (body : List Byte) (a : RetuneArgs) : readRetune body = some a ↔
    body = [a.handle.slot, a.handle.gen, byte (a.plan.n / 256), byte a.plan.n, byte a.plan.d, classByte a.cls,
        engineByte a.pin, byte a.entries.length] ++ entriesBytes a.entries ∧
    a.plan.Carried ∧ EntriesOk a.entries := by
  constructor
  · intro h
    unfold readRetune at h
    split at h
    · split at h
      · rename_i plan cls pin es hplan hcls hpin hes
        cases h
        obtain ⟨⟨h1, h2, h3⟩, hc⟩ := (readPlan_eq_some_iff _ _ _ _).1 hplan
        obtain ⟨hk, hrest, hok⟩ := (readEntryList1_eq_some_iff _ _ _).1 hes
        refine ⟨?_, hc, hok⟩
        simp only [List.cons_append, List.nil_append, List.cons.injEq]
        exact ⟨trivial, trivial, h1, h2, h3, (readClass?_eq_some_iff _ _).1 hcls, (readPin_eq_some_iff _ _).1 hpin,
          hk, hrest⟩
      · cases h
    · cases h
  · rintro ⟨rfl, hc, hok⟩
    simp only [List.cons_append, List.nil_append, readRetune,
      (readPlan_eq_some_iff _ _ _ a.plan).2 ⟨⟨rfl, rfl, rfl⟩, hc⟩, (readClass?_eq_some_iff _ a.cls).2 rfl,
      (readPin_eq_some_iff _ a.pin).2 rfl, (readEntryList1_eq_some_iff _ _ a.entries).2 ⟨rfl, rfl, hok⟩]

/-- The list of a RETRY, absent where it is empty (R181). -/
theorem readRetryList_iff (k : Byte) (rest : List Byte) (o : Option (List Entry)) :
    (∃ es, readEntryList k rest = some es ∧ (if es = [] then none else some es) = o) ↔
      k = byte (o.getD []).length ∧ rest = entriesBytes (o.getD []) ∧ ∀ es, o = some es → EntriesOk es := by
  simp only [readEntryList_eq_some_iff]
  constructor
  · rintro ⟨es, ⟨hk, hrest, hl, ha, hd⟩, rfl⟩
    by_cases hes : es = []
    · subst hes
      exact ⟨hk, hrest, nofun⟩
    · rw [if_neg hes]
      exact ⟨hk, hrest, fun es' he => Option.some.inj he ▸ ⟨⟨List.length_pos_iff.2 hes, hl⟩, ha, hd⟩⟩
  · rintro ⟨hk, hrest, hok⟩
    cases o with
    | none => exact ⟨[], ⟨hk, hrest, by simp, rfl, by simp⟩, rfl⟩
    | some es =>
      obtain ⟨hl, ha, hd⟩ := hok es rfl
      exact ⟨es, ⟨hk, hrest, hl.2, ha, hd⟩, if_neg (List.length_pos_iff.1 hl.1)⟩

theorem readRetry_eq_some_iff (body : List Byte) (a : RetryArgs) : readRetry body = some a ↔
    body = [a.handle.slot, a.handle.gen, byte ((a.plan.map Plan.n).getD 0 / 256), byte ((a.plan.map Plan.n).getD 0),
        byte ((a.plan.map Plan.d).getD 0), classByte a.cls, engineByte a.pin, byte (a.entries.getD []).length] ++
      entriesBytes (a.entries.getD []) ∧
    (∀ plan, a.plan = some plan → plan.Carried) ∧ ∀ es, a.entries = some es → EntriesOk es := by
  constructor
  · intro h
    unfold readRetry at h
    split at h
    · split at h
      · rename_i plan cls pin es hplan hcls hpin hes
        cases h
        obtain ⟨⟨h1, h2, h3⟩, hc⟩ := (readPlan?_eq_some_iff _ _ _ _).1 hplan
        obtain ⟨hk, hrest, hok⟩ := (readRetryList_iff _ _ _).1 ⟨es, hes, rfl⟩
        refine ⟨?_, hc, hok⟩
        simp only [List.cons_append, List.nil_append, List.cons.injEq]
        exact ⟨trivial, trivial, h1, h2, h3, (readClass?_eq_some_iff _ _).1 hcls, (readPin_eq_some_iff _ _).1 hpin,
          hk, hrest⟩
      · cases h
    · cases h
  · rintro ⟨rfl, hc, hok⟩
    obtain ⟨es, hread, hes⟩ := (readRetryList_iff _ _ a.entries).2 ⟨rfl, rfl, hok⟩
    simp only [List.cons_append, List.nil_append, readRetry,
      (readPlan?_eq_some_iff _ _ _ a.plan).2 ⟨⟨rfl, rfl, rfl⟩, hc⟩, (readClass?_eq_some_iff _ a.cls).2 rfl,
      (readPin_eq_some_iff _ a.pin).2 rfl, hread, hes]

theorem readHandle_eq_some_iff (body : List Byte) (h : Handle) : readHandle body = some h ↔ body = [h.slot, h.gen] := by
  constructor
  · intro hr
    unfold readHandle at hr
    split at hr
    · cases hr; rfl
    · cases hr
  · rintro rfl
    rfl

theorem readHandles_eq_some_iff : ∀ (body : List Byte) (hs : List Handle),
    readHandles body = some hs ↔ body = hs.flatMap fun h => [h.slot, h.gen]
  | [], hs => by cases hs <;> simp [readHandles]
  | [_], hs => by cases hs <;> simp [readHandles]
  | i :: g :: rest, [] => by simp [readHandles]
  | i :: g :: rest, h :: hs => by
    have ih := readHandles_eq_some_iff rest hs
    cases h
    simp only [readHandles, Option.map_eq_some_iff, List.cons.injEq, Handle.mk.injEq, exists_eq_right_right, ih,
      List.flatMap_cons, List.cons_append, List.nil_append]
    tauto

theorem readStart_eq_some_iff (body : List Byte) (hs : List Handle) : readStart body = some hs ↔
    body = hs.flatMap (fun h => [h.slot, h.gen]) ∧ 1 ≤ hs.length ∧ hs.length ≤ 4 ∧ hs.Nodup := by
  rw [← readHandles_eq_some_iff]
  unfold readStart
  constructor
  · intro h
    split at h
    · rename_i hs' hr
      split at h
      · rename_i hc
        cases h
        exact ⟨hr, hc⟩
      · cases h
    · cases h
  · rintro ⟨hr, hc⟩
    rw [hr]
    exact if_pos hc

/-! ### The other bodies -/

theorem readLookupTag_eq_some_iff (body : List Byte) (x : ClientId) (t : Nat) : readLookupTag body = some (x, t) ↔
    body = [byte x.1, byte (t / 256), byte t] ∧ 1 ≤ t ∧ t ≤ 65535 := by
  constructor
  · intro h
    unfold readLookupTag at h
    split at h
    · rename_i c t1 t0
      split at h
      · rename_i c' hc
        split at h
        · cases h
        · rename_i hz
          cases h
          obtain ⟨hlt, h1, h0⟩ := (number_two_eq_iff t1 t0 _).1 rfl
          refine ⟨?_, by omega, by omega⟩
          rw [(readFin_eq_some_iff (by decide) c x).1 hc, ← h1, ← h0]
      · cases h
    · cases h
  · rintro ⟨rfl, ht⟩
    simp only [readLookupTag, readFin_byte (n := 8) (by decide) x, number_two_bytes (n := t) (by omega)]
    rw [if_neg (by omega)]

theorem readOne_eq_some_iff {n : Nat} (hn : n ≤ 256) (body : List Byte) (x : Fin n) :
    readOne n body = some x ↔ body = [byte x.1] := by
  constructor
  · intro h
    unfold readOne at h
    split at h
    · rw [(readFin_eq_some_iff hn _ _).1 h]
    · cases h
  · rintro rfl
    exact readFin_byte hn x

theorem readSetIrq_eq_some_iff (body : List Byte) (notice response : Bool) :
    readSetIrq body = some (notice, response) ↔
      body = [(if notice then 0x01#8 else 0x00#8) ||| (if response then 0x02#8 else 0x00#8)] := by
  constructor
  · intro h
    unfold readSetIrq at h
    split at h
    · split at h
      · rename_i b hb
        cases h
        rw [← (two_bits_iff b _ _).1 ⟨hb, rfl, rfl⟩]
      · cases h
    · cases h
  · rintro rfl
    obtain ⟨hb, hn, hr⟩ := (two_bits_iff _ notice response).2 rfl
    simp only [readSetIrq, hb, if_true, hn, hr]

theorem readMask_eq_some_iff (carried : Bool) (m : Byte) (o : Option Byte) : readMask carried m = some o ↔
    carried = o.isSome ∧ ∀ m', o = some m' → m = m' ∧ m'.getLsbD 0 = false := by
  unfold readMask
  cases carried <;> cases o <;> cases hm : m.getLsbD 0 <;> simp
  · rintro rfl; exact hm
  · rintro rfl; exact hm

theorem readQuotas_eq_some_iff : ∀ (body : List Byte) (qs : List (ClientId × Nat)),
    readQuotas body = some qs ↔ body = qs.flatMap (fun x => [byte x.1.1, byte x.2]) ∧ ∀ x ∈ qs, x.2 ≤ 24
  | [], qs => by cases qs <;> simp [readQuotas]
  | [_], qs => by cases qs <;> simp [readQuotas]
  | c :: q :: rest, qs => by
    constructor
    · intro h
      simp only [readQuotas] at h
      split at h
      · rename_i c' qs' hc hqs
        split at h
        · rename_i hq
          cases h
          obtain ⟨rfl, hle⟩ := (readQuotas_eq_some_iff rest qs').1 hqs
          rw [(readFin_eq_some_iff (by decide) c c').1 hc]
          exact ⟨by simp, List.forall_mem_cons.2 ⟨hq, hle⟩⟩
        · cases h
      · cases h
    · rintro ⟨hb, hle⟩
      cases qs with
      | nil => cases hb
      | cons x xs =>
        obtain ⟨hx, hxs⟩ := List.forall_mem_cons.1 hle
        simp only [List.flatMap_cons, List.cons_append, List.nil_append, List.cons.injEq] at hb
        obtain ⟨rfl, rfl, hrest⟩ := hb
        simp only [readQuotas, readFin_byte (n := 8) (by decide) x.1,
          (readQuotas_eq_some_iff rest xs).2 ⟨hrest, hxs⟩, byte_toNat (n := x.2) (by omega), if_pos hx]

theorem readSetClients_eq_some_iff (body : List Byte) (a : ClientArgs) : readSetClients body = some a ↔ ∃ ma mb,
    body = [(if a.maskA.isSome then 0x01#8 else 0x00#8) ||| (if a.maskB.isSome then 0x02#8 else 0x00#8), ma, mb,
        byte a.quotas.length] ++ a.quotas.flatMap (fun x => [byte x.1.1, byte x.2]) ∧
    (∀ m, a.maskA = some m → ma = m ∧ m.getLsbD 0 = false) ∧
    (∀ m, a.maskB = some m → mb = m ∧ m.getLsbD 0 = false) ∧
    a.quotas.length ≤ 8 ∧ (∀ x ∈ a.quotas, x.2 ≤ 24) ∧ (a.quotas.map Prod.fst).Nodup := by
  constructor
  · intro h
    unfold readSetClients at h
    split at h
    · rename_i parts ma mb q rest
      split at h
      · rename_i x y qs hx hy hqs
        split at h
        · rename_i hc
          cases h
          obtain ⟨hx, hma⟩ := (readMask_eq_some_iff _ _ _).1 hx
          obtain ⟨hy, hmb⟩ := (readMask_eq_some_iff _ _ _).1 hy
          obtain ⟨rfl, hle⟩ := (readQuotas_eq_some_iff _ _).1 hqs
          refine ⟨ma, mb, ?_, hma, hmb, ?_, hle, hc.2.2⟩
          · rw [← (two_bits_iff parts _ _).1 ⟨hc.1, hx, hy⟩, hc.2.1, byte_toNat_self]
            rfl
          · simpa using hc.2.2.length_le_card
        · cases h
      · cases h
    · cases h
  · rintro ⟨ma, mb, rfl, hma, hmb, hlen, hle, hn⟩
    obtain ⟨hb, hx, hy⟩ := (two_bits_iff _ a.maskA.isSome a.maskB.isSome).2 rfl
    simp only [List.cons_append, List.nil_append, readSetClients, hx, hy,
      (readMask_eq_some_iff _ ma a.maskA).2 ⟨rfl, hma⟩, (readMask_eq_some_iff _ mb a.maskB).2 ⟨rfl, hmb⟩,
      (readQuotas_eq_some_iff _ a.quotas).2 ⟨rfl, hle⟩, byte_toNat (n := a.quotas.length) (by omega)]
    exact if_pos ⟨hb, trivial, hn⟩

theorem readScope_eq_some_iff (body : List Byte) (device : Bool) :
    readScope body = some device ↔ body = [if device then scopeDevice else scopeLeases] := by
  constructor
  · intro h
    unfold readScope at h
    split at h
    · split at h
      · rename_i hb
        cases h
        rw [hb]
        rfl
      · split at h
        · rename_i hb
          cases h
          rw [hb]
          rfl
        · cases h
    · cases h
  · rintro rfl
    cases device <;> rfl

theorem readPairs_eq_some_iff : ∀ (body : List Byte) (ps : List (Byte × Nat)), readPairs body = some ps ↔
    body = ps.flatMap (fun x => [x.1, byte (x.2 / 16777216), byte (x.2 / 65536), byte (x.2 / 256), byte x.2]) ∧
    ∀ x ∈ ps, x.2 < 4294967296
  | [], ps => by cases ps <;> simp [readPairs]
  | [_], ps => by cases ps <;> simp [readPairs]
  | [_, _], ps => by cases ps <;> simp [readPairs]
  | [_, _, _], ps => by cases ps <;> simp [readPairs]
  | [_, _, _, _], ps => by cases ps <;> simp [readPairs]
  | k :: a :: b :: c :: d :: rest, [] => by simp [readPairs]
  | k :: a :: b :: c :: d :: rest, (k', v) :: ps => by
    have ih := readPairs_eq_some_iff rest ps
    have hn := number_four_eq_iff a b c d v
    simp only [readPairs, Option.map_eq_some_iff, List.cons.injEq, Prod.mk.injEq, exists_eq_right_right, ih, hn,
      List.flatMap_cons, List.cons_append, List.nil_append, List.forall_mem_cons]
    tauto

/-! ### The parameters of CONFIGURE -/

theorem readMode_eq_some_iff (v : Nat) (w : ParamWrite) : (readMode v).map .mode = some w ↔
    (v = 0 ∧ w = .mode .autoRevert) ∨ (v = 1 ∧ w = .mode .autoHold) ∨ (v = 2 ∧ w = .mode .forceA) ∨
      (v = 3 ∧ w = .mode .forceB) := by
  unfold readMode
  split_ifs <;> simp_all [eq_comm (a := w)]

theorem readPriority_eq_some_iff (v : Nat) (w : ParamWrite) :
    (readPriority v).map .priority = some w ↔ (v = 0 ∧ w = .priority .aFirst) ∨ (v = 1 ∧ w = .priority .bFirst) := by
  unfold readPriority
  split_ifs <;> simp_all [eq_comm (a := w)]

theorem readParam_eq_some_iff (k : Byte) (v : Nat) (w : ParamWrite) : readParam k v = some w ↔
    (k = 0x01#8 ∧ 1000000 ≤ v ∧ v ≤ 250000000 ∧ w = .nominal v) ∨
    (k = 0x02#8 ∧ 1 ≤ v ∧ v ≤ 200 ∧ w = .window v) ∨
    (k = 0x03#8 ∧ 1 ≤ v ∧ v ≤ 255 ∧ w = .qualPeriod v) ∨
    (k = 0x04#8 ∧ ((v = 0 ∧ w = .mode .autoRevert) ∨ (v = 1 ∧ w = .mode .autoHold) ∨
      (v = 2 ∧ w = .mode .forceA) ∨ (v = 3 ∧ w = .mode .forceB))) ∨
    (k = 0x05#8 ∧ ((v = 0 ∧ w = .priority .aFirst) ∨ (v = 1 ∧ w = .priority .bFirst))) ∨
    (k = 0x06#8 ∧ 1 ≤ v ∧ v ≤ 255 ∧ w = .acqLimit v) ∨
    (k = 0x07#8 ∧ v ≤ 65535 ∧ w = .linger v) ∨
    (k = 0x08#8 ∧ v ≤ 65535 ∧ w = .holdoverLimit v) := by
  have hmode := readMode_eq_some_iff v w
  have hpriority := readPriority_eq_some_iff v w
  unfold readParam
  split_ifs <;> simp_all [-Option.map_eq_some_iff, eq_comm (a := w)]

end Sys2Proof.Machine

/-! ## The checks of a taken command

The run behind each code, and what a refusal by its first checks makes of the taking. -/

namespace Sys2Proof.Machine

/-! ### The run of a command -/

/-- The run of the command that a code names (R180). -/
def runOf (c : HeldCommand) : Port → HeldCommand → State → Except Denial Reply :=
  if c.code = codeOpen then runOpen
  else if c.code = codeStart then runStart
  else if c.code = codeRetune then runRetune
  else if c.code = codeRelease then runRelease
  else if c.code = codeRetry then runRetry
  else if c.code = codeQueryLease then runQueryLease
  else if c.code = codeLookupTag then runLookupTag
  else if c.code = codeListClient then runListClient
  else if c.code = codeFindOutput then runFindOutput
  else if c.code = codeQueryEngine then runQueryEngine
  else if c.code = codeQueryReference then runQueryReference
  else if c.code = codeNotices then runNotices
  else if c.code = codeSetIrq then runSetIrq
  else if c.code = codeReadConfig then runReadConfig
  else if c.code = codeConfigure then runConfigure
  else if c.code = codeSetClients then runSetClients
  else if c.code = codeHandover then runHandover
  else if c.code = codeSoftReset then runSoftReset
  else if c.code = codeEngineClear then runEngineClear
  else if c.code = codeRevoke then runRevoke
  else runUnknownCode

section runOf

variable {c : HeldCommand}

theorem runOf_open (h : c.code = codeOpen) : runOf c = runOpen := by rw [runOf, h]; rfl
theorem runOf_start (h : c.code = codeStart) : runOf c = runStart := by rw [runOf, h]; rfl
theorem runOf_retune (h : c.code = codeRetune) : runOf c = runRetune := by rw [runOf, h]; rfl
theorem runOf_release (h : c.code = codeRelease) : runOf c = runRelease := by rw [runOf, h]; rfl
theorem runOf_retry (h : c.code = codeRetry) : runOf c = runRetry := by rw [runOf, h]; rfl
theorem runOf_queryLease (h : c.code = codeQueryLease) : runOf c = runQueryLease := by rw [runOf, h]; rfl
theorem runOf_lookupTag (h : c.code = codeLookupTag) : runOf c = runLookupTag := by rw [runOf, h]; rfl
theorem runOf_listClient (h : c.code = codeListClient) : runOf c = runListClient := by rw [runOf, h]; rfl
theorem runOf_findOutput (h : c.code = codeFindOutput) : runOf c = runFindOutput := by rw [runOf, h]; rfl
theorem runOf_queryEngine (h : c.code = codeQueryEngine) : runOf c = runQueryEngine := by rw [runOf, h]; rfl
theorem runOf_queryReference (h : c.code = codeQueryReference) : runOf c = runQueryReference := by rw [runOf, h]; rfl
theorem runOf_notices (h : c.code = codeNotices) : runOf c = runNotices := by rw [runOf, h]; rfl
theorem runOf_setIrq (h : c.code = codeSetIrq) : runOf c = runSetIrq := by rw [runOf, h]; rfl
theorem runOf_readConfig (h : c.code = codeReadConfig) : runOf c = runReadConfig := by rw [runOf, h]; rfl
theorem runOf_configure (h : c.code = codeConfigure) : runOf c = runConfigure := by rw [runOf, h]; rfl
theorem runOf_setClients (h : c.code = codeSetClients) : runOf c = runSetClients := by rw [runOf, h]; rfl
theorem runOf_handover (h : c.code = codeHandover) : runOf c = runHandover := by rw [runOf, h]; rfl
theorem runOf_softReset (h : c.code = codeSoftReset) : runOf c = runSoftReset := by rw [runOf, h]; rfl
theorem runOf_engineClear (h : c.code = codeEngineClear) : runOf c = runEngineClear := by rw [runOf, h]; rfl
theorem runOf_revoke (h : c.code = codeRevoke) : runOf c = runRevoke := by rw [runOf, h]; rfl

end runOf

/-- Row `row` takes command `c` by the run `run`. -/
def Serves (row : Instr) (run : Port → HeldCommand → State → Except Denial Reply) (c : HeldCommand) : Prop :=
  ∃ mine : HeldCommand → Bool, mine c = true ∧ ∀ s, exec row s = .next (event (State.take mine run) s)

namespace Serves

variable {c : HeldCommand} {row row' : Instr} {run run' : Port → HeldCommand → State → Except Denial Reply}

theorem of_code {code : Byte} (hc : c.code = code) (hr : ∀ s, exec row s = .next (takeCode code run s)) :
    Serves row run c :=
  ⟨fun c => c.code = code, by simpa using hc, hr⟩

theorem ite {P : Prop} [Decidable P] (h : P → Serves row run c) (h' : ¬P → Serves row' run' c) :
    Serves (if P then row else row') (if P then run else run') c := by
  split
  · exact h ‹_›
  · exact h' ‹_›

end Serves

/-- The row of a SOFT_RESET is that of its scope, LEASES where it names none (log entry 11). -/
theorem serves_softReset {c : HeldCommand} (hc : c.code = codeSoftReset) :
    Serves (if c.body = [scopeDevice] then .softResetDevice else .softResetLeases) runSoftReset c := by
  split
  · rename_i hb
    exact ⟨isSoftReset scopeLeases, by simp [isSoftReset, hc, hb, scopeLeases, scopeDevice], fun _ => rfl⟩
  · rename_i hb
    exact ⟨isSoftReset scopeDevice, by simp [isSoftReset, hc, hb], fun _ => rfl⟩

/-- The row of a command takes it and runs the run of its code (log entry 1). The seventeen codes from OPEN to HANDOVER
have a row each. -/
theorem serves_rowOf (c : HeldCommand) : Serves (rowOf c) (runOf c) c := by
  unfold rowOf runOf
  iterate 17 refine .ite (.of_code · fun _ => rfl) fun _ => ?_
  refine .ite serves_softReset fun _ => ?_
  iterate 2 refine .ite (.of_code · fun _ => rfl) fun _ => ?_
  exact ⟨fun c => !knownCodes.contains c.code, by simp_all [knownCodes], fun _ => rfl⟩

section taking

variable {s : State} {p : Port} {c : HeldCommand} {mine : HeldCommand → Bool}
  {run : Port → HeldCommand → State → Except Denial Reply}

/-- The taking of a command of the row, from the state that its run sees. -/
theorem event_take (h : s.nextTaken = some (p, c)) (hm : mine c = true) :
    event (State.take mine run) s = { (s.seen p).respond p c run with touched := [] } := by
  have h' : ({ s with touched := [] } : State).nextTaken = some (p, c) := h
  simp [event, State.take, h', hm, State.seen]

/-- A run that is refused leaves the answered state (00_scope 6.5). -/
theorem event_take_refused {d : Denial} (h : s.Takes p c) (hm : mine c = true) (hr : run p c (s.seen p) = .error d) :
    event (State.take mine run) s = s.answered p c d.status d.body := by
  rw [event_take h.next hm]
  simp only [State.respond, State.seen_accepts, h.client, hr, if_true]
  rw [State.place_answered _ _ _ _ _ (by simp), State.seen_answered]

theorem event_take_denied (h : s.nextTaken = some (p, c)) (hm : mine c = true) (hd : s.accepts p c.client = false) :
    event (State.take mine run) s = s.answered p c .clientDenied [absentByte] := by
  rw [event_take h hm]
  simp only [State.respond, State.seen_accepts, hd]
  exact (State.place_answered _ _ _ _ _ (by simp)).trans (State.seen_answered _ _ _ _ _)

/-- A run that is not refused: its reply is placed. -/
theorem event_take_ok {r : Reply} (h : s.Takes p c) (hm : mine c = true) (hr : run p c (s.seen p) = .ok r) :
    event (State.take mine run) s =
      { r.state.place p (responseTo c r.status r.body) r.save with touched := [] } := by
  rw [event_take h.next hm]
  simp [State.respond, h.client, hr]

theorem exec_rowOf_refused {d : Denial} (h : s.Takes p c) (hr : runOf c p c (s.seen p) = .error d) :
    exec (rowOf c) s = .next (s.answered p c d.status d.body) := by
  obtain ⟨mine, hm, hx⟩ := serves_rowOf c
  rw [hx, event_take_refused h hm hr]

theorem exec_rowOf_denied (h : s.nextTaken = some (p, c)) (hd : s.accepts p c.client = false) :
    exec (rowOf c) s = .next (s.answered p c .clientDenied [absentByte]) := by
  obtain ⟨mine, hm, hx⟩ := serves_rowOf c
  rw [hx, event_take_denied h hm hd]

end taking

/-- Settles O6: the client check precedes every run, and an unknown code's run is a refusal. -/
theorem clientAndCodeChecked : Obligations.ClientAndCodeChecked := by
  intro s p c h
  refine ⟨rfl, exec_rowOf_denied h, fun ha hc => ?_⟩
  have hm : (fun d : HeldCommand => !knownCodes.contains d.code) c = true := by simpa using hc
  exact congrArg _ (event_take_refused (run := runUnknownCode) ⟨h, ha⟩ hm rfl)

/-! ### The first checks -/

@[simp] theorem ok_bind {α β : Type} (x : α) (f : α → Except Denial β) : (Except.ok x >>= f) = f x := rfl
@[simp] theorem error_bind {α β : Type} (d : Denial) (f : α → Except Denial β) :
    ((Except.error d : Except Denial α) >>= f) = .error d := rfl

section checks

variable {c : HeldCommand} {p : Port} {s : State}

theorem supervisorOnly_ok (h : c.client = 0) : supervisorOnly c = .ok () := by simp [supervisorOnly, h]

theorem supervisorOnly_error (h : c.client ≠ 0) : supervisorOnly c = .error (denied .supervisorOnly) := by
  simp [supervisorOnly, h]

theorem bodyOf_ok {α : Type} {read : List Byte → Option α} {x : α} (h : read c.body = some x) :
    bodyOf read c = .ok x := by simp [bodyOf, h]

theorem bodyOf_error {α : Type} {read : List Byte → Option α} (h : read c.body = none) :
    bodyOf read c = .error (denied .badArgument) := by simp [bodyOf, h]

theorem readNothing_eq_none {body : List Byte} (h : body ≠ []) : readNothing body = none := by
  unfold readNothing
  split
  · exact absurd rfl h
  · rfl

/-- The supervisor commands of another client (R18). -/
theorem runOf_supervisorOnly
    (h : c.code ∈ [codeConfigure, codeSetClients, codeHandover, codeSoftReset, codeEngineClear, codeRevoke])
    (hc : c.client ≠ 0) : runOf c p c s = .error (denied .supervisorOnly) := by
  have hs := supervisorOnly_error hc
  simp only [List.mem_cons, List.not_mem_nil, or_false] at h
  rcases h with h | h | h | h | h | h
  · rw [runOf_configure h, runConfigure, hs, error_bind]
  · rw [runOf_setClients h, runSetClients, hs, error_bind]
  · rw [runOf_handover h, runHandover, hs, error_bind]
  · rw [runOf_softReset h, runSoftReset, hs, error_bind]
  · rw [runOf_engineClear h, runEngineClear, hs, error_bind]
  · rw [runOf_revoke h, runRevoke, hs, error_bind]

end checks

end Sys2Proof.Machine

/-! ## A body that does not read -/

namespace Sys2Proof.Machine

section checks

variable {c : HeldCommand} {p : Port} {s : State}

/-- The first pair that offends does offend, and no earlier one does. -/
theorem pairOffends_of_firstOffending {ps : List (Byte × Nat)} {k : Nat} (h : firstOffending ps = some k) :
    k < ps.length ∧ pairOffends ps k = true :=
  ⟨List.mem_range.1 (List.mem_of_find?_eq_some h), List.find?_some h⟩

/-- A pair among the first `n` that are all parameters in range without repeats does not offend (R168). -/
theorem pairOffends_eq_false {ps : List (Byte × Nat)} {n k : Nat} (hk : k < n)
    (hr : ∀ x ∈ ps.take n, readParam x.1 x.2 ≠ none) (hn : ((ps.take n).map Prod.fst).Nodup) :
    pairOffends ps k = false := by
  unfold pairOffends
  split
  · rfl
  rename_i key v hkv
  have hget : (ps.take n)[k]? = some (key, v) := by rw [List.getElem?_take_of_lt hk, hkv]
  have hread : (readParam key v).isNone = false := by
    simpa [Option.ne_none_iff_isSome] using hr _ (List.mem_of_getElem? hget)
  rw [hread, Bool.false_or, List.any_eq_false]
  intro x hx
  obtain ⟨j, hj, hxj⟩ := List.mem_take_iff_getElem.1 hx
  have hjk : j < k := by omega
  have hlen : k < (ps.take n).length := (List.getElem?_eq_some_iff.1 hget).1
  have hne := List.pairwise_iff_getElem.1 hn j k (by simp at hlen ⊢; omega) (by simpa using hlen) hjk
  have hkey : (ps.take n)[k] = (key, v) := (List.getElem?_eq_some_iff.1 hget).2
  simp only [List.getElem_map, hkey, List.getElem_take, hxj] at hne
  simpa using hne

/-- A CONFIGURE list that is not made of whole pairs, is empty, or has more than eight pairs of which the first eight
pass is refused without a position (R168; log entry 10). -/
theorem readConfigure_error {body : List Byte} (h : ∀ ps, readPairs body = some ps → ps = [] ∨ (8 < ps.length ∧
    (∀ x ∈ ps.take 8, readParam x.1 x.2 ≠ none) ∧ ((ps.take 8).map Prod.fst).Nodup)) :
    readConfigure body = .error (denied .badArgument) := by
  unfold readConfigure
  cases hps : readPairs body with
  | none => simp
  | some ps =>
    rw [need_some, ok_bind]
    rcases h ps hps with rfl | ⟨hlen, hr, hn⟩
    · rfl
    · cases hf : firstOffending ps with
      | none => simp [ensure, Nat.not_le.2 hlen]
      | some k =>
        have hk : ¬ k < 8 := fun hk => by
          have := pairOffends_eq_false hk hr hn
          rw [(pairOffends_of_firstOffending hf).2] at this
          cases this
        simp [deniedPair, hk]

end checks

/-- The body of a command, of a client that may give it, does not read by the layout of its code (R181). -/
def HeldCommand.BodyUnread (c : HeldCommand) : Prop :=
  (c.code = codeOpen ∧ readOpen c.body = none) ∨ (c.code = codeStart ∧ readStart c.body = none) ∨
    (c.code = codeRetune ∧ readRetune c.body = none) ∨ (c.code = codeRetry ∧ readRetry c.body = none) ∨
    (c.code ∈ [codeRelease, codeQueryLease] ∧ readHandle c.body = none) ∨
    (c.code = codeRevoke ∧ c.client = 0 ∧ readHandle c.body = none) ∨
    (c.code = codeLookupTag ∧ readLookupTag c.body = none) ∨
    (c.code = codeListClient ∧ readOne 8 c.body = none) ∨
    (c.code = codeFindOutput ∧ readOne 16 c.body = none) ∨
    (c.code = codeQueryEngine ∧ readOne 6 c.body = none) ∨
    (c.code = codeEngineClear ∧ c.client = 0 ∧ readOne 6 c.body = none) ∨
    (c.code ∈ [codeQueryReference, codeNotices, codeReadConfig] ∧ c.body ≠ []) ∨
    (c.code = codeHandover ∧ c.client = 0 ∧ c.body ≠ []) ∨
    (c.code = codeSetIrq ∧ readSetIrq c.body = none) ∨
    (c.code = codeSetClients ∧ c.client = 0 ∧ readSetClients c.body = none) ∨
    (c.code = codeSoftReset ∧ c.client = 0 ∧ readScope c.body = none) ∨
    (c.code = codeConfigure ∧ c.client = 0 ∧
      ∀ ps, readPairs c.body = some ps → ps = [] ∨ (8 < ps.length ∧
        (∀ x ∈ ps.take 8, readParam x.1 x.2 ≠ none) ∧ ((ps.take 8).map Prod.fst).Nodup))

/-- Every command whose body does not read by its layout (R18). -/
theorem runOf_badArgument {c : HeldCommand} {p : Port} {s : State} (h : c.BodyUnread) :
    runOf c p c s = .error (denied .badArgument) := by
  simp only [HeldCommand.BodyUnread, List.mem_cons, List.not_mem_nil, or_false] at h
  rcases h with ⟨h, hb⟩ | ⟨h, hb⟩ | ⟨h, hb⟩ | ⟨h, hb⟩ | ⟨h | h, hb⟩ | ⟨h, hc, hb⟩ | ⟨h, hb⟩ | ⟨h, hb⟩ | ⟨h, hb⟩ | ⟨h, hb⟩ |
    ⟨h, hc, hb⟩ | ⟨h | h | h, hb⟩ | ⟨h, hc, hb⟩ | ⟨h, hb⟩ | ⟨h, hc, hb⟩ | ⟨h, hc, hb⟩ | ⟨h, hc, hb⟩
  · rw [runOf_open h, runOpen, bodyOf_error hb, error_bind]
  · rw [runOf_start h, runStart, bodyOf_error hb, error_bind]
  · rw [runOf_retune h, runRetune, bodyOf_error hb, error_bind]
  · rw [runOf_retry h, runRetry, bodyOf_error hb, error_bind]
  · rw [runOf_release h, runRelease, bodyOf_error hb, error_bind]
  · rw [runOf_queryLease h, runQueryLease, bodyOf_error hb, error_bind]
  · rw [runOf_revoke h, runRevoke, supervisorOnly_ok hc, ok_bind, bodyOf_error hb, error_bind]
  · rw [runOf_lookupTag h, runLookupTag, bodyOf_error hb, error_bind]
  · rw [runOf_listClient h, runListClient, bodyOf_error hb, error_bind]
  · rw [runOf_findOutput h, runFindOutput, bodyOf_error hb, error_bind]
  · rw [runOf_queryEngine h, runQueryEngine, bodyOf_error hb, error_bind]
  · rw [runOf_engineClear h, runEngineClear, supervisorOnly_ok hc, ok_bind, bodyOf_error hb, error_bind]
  · rw [runOf_queryReference h, runQueryReference, bodyOf_error (readNothing_eq_none hb), error_bind]
  · rw [runOf_notices h, runNotices, bodyOf_error (readNothing_eq_none hb), error_bind]
  · rw [runOf_readConfig h, runReadConfig, bodyOf_error (readNothing_eq_none hb), error_bind]
  · rw [runOf_handover h, runHandover, supervisorOnly_ok hc, ok_bind, bodyOf_error (readNothing_eq_none hb), error_bind]
  · rw [runOf_setIrq h, runSetIrq, bodyOf_error hb, error_bind]
  · rw [runOf_setClients h, runSetClients, supervisorOnly_ok hc, ok_bind, bodyOf_error hb, error_bind]
  · rw [runOf_softReset h, runSoftReset, supervisorOnly_ok hc, ok_bind, bodyOf_error hb, error_bind]
  · rw [runOf_configure h, runConfigure, supervisorOnly_ok hc, ok_bind, readConfigure_error hb, error_bind]

/-- The flags byte of a body, bit by bit (11.2). -/
theorem flagsByte_unarmed (f : LeaseFlags) : flagsByte f false =
    (if f.exclusive then 0x01#8 else 0x00#8) ||| (if f.heldStart then 0x02#8 else 0x00#8) |||
      (if f.slipMute then 0x04#8 else 0x00#8) ||| (if f.allowGap then 0x08#8 else 0x00#8) := by
  obtain ⟨w, x, y, z⟩ := f
  revert w x y z
  decide

/-- Settles O7: each layout by its reader's own lemma, then the two refusals by the first check of each run. -/
theorem rightAndBodyChecked : Obligations.RightAndBodyChecked := by
  refine ⟨fun body a => ?_, readStart_eq_some_iff, fun body a => ?_, fun body a => ?_, readHandle_eq_some_iff,
    readLookupTag_eq_some_iff, fun n hn => readOne_eq_some_iff hn, readSetIrq_eq_some_iff, readSetClients_eq_some_iff,
    readScope_eq_some_iff, readPairs_eq_some_iff, readParam_eq_some_iff, fun s p c h => ⟨fun hr hc => ?_, fun hb => ?_⟩⟩
  · rw [readOpen_eq_some_iff, flagsByte_unarmed, engineByte_eq]
    rfl
  · rw [readRetune_eq_some_iff, classByte_eq, engineByte_eq]
    rfl
  · rw [readRetry_eq_some_iff, classByte_eq, engineByte_eq]
    rfl
  · exact exec_rowOf_refused h (runOf_supervisorOnly hr hc)
  · exact exec_rowOf_refused h (runOf_badArgument hb)

end Sys2Proof.Machine

/-! ## The checks of handle, owner and state -/

namespace Sys2Proof.Machine

section checks

variable {s : State} {p : Port} {c : HeldCommand}

@[simp] theorem State.seen_reach (s : State) (p : Port) : (s.seen p).reach = s.reach :=
  funext fun h => by simp only [State.reach, State.seen_slot, State.seen_lease]

theorem Lease.ownedBy_eq_false {l : Lease} {x : ClientId} (hx : x ≠ 0) (ho : l.owner ≠ x) :
    l.ownedBy x = false := by
  simp [Lease.ownedBy, hx, ho]

theorem State.owned_ok {h : Handle} {x : SlotId × Lease} (hr : s.reach h = some x)
    (ho : x.2.ownedBy c.client = true) : s.owned c h = .ok x :=
  State.owned_eq_ok_iff.2 ⟨hr, ho⟩

theorem State.owned_unreached {h : Handle} (hr : s.reach h = none) :
    s.owned c h = .error (deniedAt .noSuchLease 0) := by
  rw [State.owned, hr, need_none, error_bind]

theorem State.owned_other {h : Handle} {x : SlotId × Lease} (hr : s.reach h = some x)
    (ho : x.2.ownedBy c.client = false) : s.owned c h = .error (deniedAt .notOwner 0) := by
  rw [State.owned, hr, need_some, ok_bind, ho, ensure_false, error_bind]

/-! ### Commands that name one handle -/

/-- `c` is a command that names the one handle `h`, its earlier checks passed (R18). -/
def HeldCommand.NamesHandle (c : HeldCommand) (h : Handle) : Prop :=
  (c.code = codeRelease ∧ readHandle c.body = some h) ∨
    (c.code = codeRevoke ∧ c.client = 0 ∧ readHandle c.body = some h) ∨
    (c.code = codeRetune ∧ ∃ a, readRetune c.body = some a ∧ a.handle = h) ∨
    (c.code = codeRetry ∧ ∃ a, readRetry c.body = some a ∧ a.handle = h)

theorem runOf_unreached {h : Handle} (hc : c.NamesHandle h) (hr : s.reach h = none) :
    runOf c p c s = .error (deniedAt .noSuchLease 0) := by
  rcases hc with ⟨hc, hb⟩ | ⟨hc, hcl, hb⟩ | ⟨hc, a, hb, rfl⟩ | ⟨hc, a, hb, rfl⟩
  · rw [runOf_release hc, runRelease, bodyOf_ok hb, ok_bind, State.owned_unreached hr, error_bind]
  · rw [runOf_revoke hc, runRevoke, supervisorOnly_ok hcl, ok_bind, bodyOf_ok hb, ok_bind, hr, need_none, error_bind]
  · rw [runOf_retune hc, runRetune, bodyOf_ok hb, ok_bind, State.owned_unreached hr, error_bind]
  · rw [runOf_retry hc, runRetry, bodyOf_ok hb, ok_bind, State.owned_unreached hr, error_bind]

theorem runOf_notOwner {h : Handle} {x : SlotId × Lease} (hc : c.NamesHandle h) (hr : s.reach h = some x)
    (hcl : c.client ≠ 0) (ho : x.2.owner ≠ c.client) : runOf c p c s = .error (deniedAt .notOwner 0) := by
  have hother := State.owned_other hr (Lease.ownedBy_eq_false hcl ho)
  rcases hc with ⟨hc, hb⟩ | ⟨-, h0, -⟩ | ⟨hc, a, hb, rfl⟩ | ⟨hc, a, hb, rfl⟩
  · rw [runOf_release hc, runRelease, bodyOf_ok hb, ok_bind, hother, error_bind]
  · exact absurd h0 hcl
  · rw [runOf_retune hc, runRetune, bodyOf_ok hb, ok_bind, hother, error_bind]
  · rw [runOf_retry hc, runRetry, bodyOf_ok hb, ok_bind, hother, error_bind]

/-! ### START -/

/-- The first handle that reaches nothing gives the position (R33). -/
theorem State.resolve_error (j k : Nat) {hs : List Handle} {h : Handle} (hk : hs[k]? = some h)
    (hr : s.reach h = none) (hb : ∀ (i : Nat) g, i < k → hs[i]? = some g → s.reach g ≠ none) :
    s.resolve j hs = .error (deniedAt .noSuchLease (j + k)) := by
  induction hs generalizing j k with
  | nil => simp at hk
  | cons g hs ih =>
    cases k with
    | zero =>
      obtain rfl : g = h := by simpa using hk
      rw [State.resolve, hr, need_none, error_bind]
      rfl
    | succ k =>
      obtain ⟨x, hx⟩ := Option.ne_none_iff_exists'.1 (hb 0 g (by omega) rfl)
      rw [State.resolve, hx, need_some, ok_bind,
        ih (j + 1) k (by simpa using hk) fun i f hi hf => hb (i + 1) f (by omega) (by simpa using hf), error_bind]
      congr 2
      omega

variable {hs : List Handle} {xs : List (SlotId × Lease)} {k : Nat}

theorem runStart_unreached {h : Handle} (hb : readStart c.body = some hs) (hk : hs[k]? = some h)
    (hr : s.reach h = none) (hbefore : ∀ (j : Nat) g, j < k → hs[j]? = some g → s.reach g ≠ none) :
    runStart p c s = .error (deniedAt .noSuchLease k) := by
  rw [runStart, bodyOf_ok hb, ok_bind, State.resolve_error 0 k hk hr hbefore, error_bind, Nat.zero_add]

theorem runStart_notOwner {x : SlotId × Lease} (hb : readStart c.body = some hs) (hxs : xs.map some = hs.map s.reach)
    (hx : xs[k]? = some x) (ho : x.2.ownedBy c.client = false)
    (hbefore : ∀ (j : Nat) y, j < k → xs[j]? = some y → y.2.ownedBy c.client = true) :
    runStart p c s = .error (deniedAt .notOwner k) := by
  rw [runStart, bodyOf_ok hb, ok_bind, State.resolve_eq_ok_iff.2 hxs, ok_bind, checkEach_error 0 k hx ho hbefore,
    error_bind, Nat.zero_add]

theorem runStart_wrongState {x : SlotId × Lease} (hb : readStart c.body = some hs)
    (hxs : xs.map some = hs.map s.reach) (hx : xs[k]? = some x) (hst : x.2.startable = false)
    (ho : ∀ y ∈ xs, y.2.ownedBy c.client = true)
    (hbefore : ∀ (j : Nat) y, j < k → xs[j]? = some y → y.2.startable = true) :
    runStart p c s = .error (deniedAt .wrongState k) := by
  rw [runStart, bodyOf_ok hb, ok_bind, State.resolve_eq_ok_iff.2 hxs, ok_bind, checkEach_ok 0 ho, ok_bind,
    checkEach_error 0 k hx hst hbefore, error_bind, Nat.zero_add]

/-! ### RETUNE -/

theorem LeaseState.retunable_iff (st : LeaseState) :
    st.retunable = true ↔ st = .pending ∨ st = .ready ∨ st = .active ∨ st = .disturbed := by
  cases st <;> simp [LeaseState.retunable]

theorem rangeChecks_planRange {n : Nat} {cls : LeaseClass} {plan : Plan} {es : List Entry}
    (h : eligible n cls plan = []) : rangeChecks n cls plan es = .error (denied .planRange) := by
  rw [rangeChecks, h]
  rfl

theorem rangeChecks_outputRange {n : Nat} {cls : LeaseClass} {plan : Plan} {es : List Entry} {x : Entry}
    (h : eligible n cls plan ≠ []) (hx : es[k]? = some x) (hf : plan.outputInRange n x.divider = false)
    (hb : ∀ (j : Nat) y, j < k → es[j]? = some y → plan.outputInRange n y.divider = true) :
    rangeChecks n cls plan es = .error (deniedAt .outputRange k) := by
  have he : (eligible n cls plan).isEmpty = false := by simpa using h
  rw [rangeChecks, he, Bool.not_false, ensure_true, ok_bind,
    checkEach_error (ok := fun x => plan.outputInRange n x.divider) 0 k hx hf hb, error_bind, Nat.zero_add]

/-- A RETUNE whose body, handle and owner pass (R90 steps 1 to 4) is judged by the lease. -/
theorem runRetune_owned {a : RetuneArgs} {i : SlotId} {l : Lease} (hb : readRetune c.body = some a)
    (hr : s.reach a.handle = some (i, l)) (ho : l.ownedBy c.client = true) : runRetune p c s = (do
      ensure l.state.retunable (denied .wrongState)
      sameOutputs a.entries l.entries
      let cs ← rangeChecks s.params.nominal (a.cls.getD l.cls) a.plan.reduce a.entries
      s.retuneCase (p = l.home) i l ⟨a.plan.reduce, a.cls, a.cls.getD l.cls, a.pin, a.entries, cs⟩) := by
  rw [runRetune, bodyOf_ok hb, ok_bind, State.owned_ok hr ho, ok_bind]

end checks

theorem sameOutputs_error {carried own : List Entry} {k : Nat} (h : mismatch 0 carried own = some k) :
    sameOutputs carried own = .error (deniedAt .badArgument k) := by
  rw [sameOutputs, h]

/-- Settles O8: each refusal is the first check of its run that fails, evaluated in the state that the run sees. -/
theorem handleOwnerStateChecked : Obligations.HandleOwnerStateChecked := by
  intro s p c h
  refine ⟨fun g hg => ⟨fun hr => ?_, fun i l hr hcl ho => ?_⟩, fun hs k g hc hb hk => ⟨fun hbefore hr => ?_,
    fun xs hxs x hx => ⟨fun hbefore ho => ?_, fun hall hbefore hst => ?_⟩⟩, fun a i l hc hb hr ho => ?_⟩
  · exact exec_rowOf_refused h (runOf_unreached hg (by simpa using hr))
  · exact exec_rowOf_refused h (runOf_notOwner hg (by simpa using hr) hcl ho)
  · exact congrArg _ (takeCode_refused h hc (runStart_unreached hb hk (by simpa using hr) (by simpa using hbefore)))
  · exact congrArg _ (takeCode_refused h hc (runStart_notOwner hb (by simpa using hxs) hx ho hbefore))
  · exact congrArg _ (takeCode_refused h hc (runStart_wrongState hb (by simpa using hxs) hx hst hall hbefore))
  · have hrun := runRetune_owned (s := s.seen p) (p := p) hb (by rw [s.seen_reach, hr]) ho
    rw [State.seen_params] at hrun
    have refused {d : Denial} (hd : runRetune p c (s.seen p) = .error d) :
        exec .retune s = .next (s.answered p c d.status d.body) :=
      congrArg _ (takeCode_refused h hc hd)
    refine ⟨fun hst => ?_, fun hst => ?_⟩
    · have hst' : l.state.retunable = false := by
        rw [← Bool.not_eq_true, LeaseState.retunable_iff]
        exact hst
      exact refused (hrun.trans (by rw [hst', ensure_false, error_bind]))
    rw [(LeaseState.retunable_iff l.state).2 hst, ensure_true, ok_bind] at hrun
    refine ⟨fun k hk => ?_, fun hout => ?_⟩
    · exact refused (hrun.trans (by rw [sameOutputs_error hk, error_bind]))
    rw [sameOutputs_eq_ok_iff (u := ()).2 hout, ok_bind] at hrun
    refine ⟨fun he => ?_, fun he k x hx hf hbefore => ?_⟩
    · exact refused (hrun.trans (by rw [rangeChecks_planRange he, error_bind]))
    · exact refused (hrun.trans (by rw [rangeChecks_outputRange he hx hf hbefore, error_bind]))

end Sys2Proof.Machine

/-! ## The commands that read the lease table -/

namespace Sys2Proof.Machine

section reads

variable {s : State} {p : Port} {c : HeldCommand}

/-- A command that reads and does not change the part: its response is placed. -/
theorem takeCode_reads {code : Byte} {run : Port → HeldCommand → State → Except Denial Reply} {st : Status}
    {bs : List Byte} (h : s.Takes p c) (hc : c.code = code)
    (hr : run p c (s.seen p) = .ok ⟨s.seen p, st, bs, false⟩) :
    takeCode code run s = s.answered p c st bs := by
  rw [takeCode_answered h hc hr rfl (by simp), State.seen_answered]

/-! ### QUERY_LEASE -/

theorem bitAt_zero (b : Bool) : bitAt 0 b = if b then 0x01#8 else 0x00#8 := by cases b <;> rfl
theorem bitAt_one (b : Bool) : bitAt 1 b = if b then 0x02#8 else 0x00#8 := by cases b <;> rfl
theorem bitAt_two (b : Bool) : bitAt 2 b = if b then 0x04#8 else 0x00#8 := by cases b <;> rfl
theorem bitAt_three (b : Bool) : bitAt 3 b = if b then 0x08#8 else 0x00#8 := by cases b <;> rfl
theorem bitAt_seven (b : Bool) : bitAt 7 b = if b then 0x80#8 else 0x00#8 := by cases b <;> rfl

theorem ownerByte_eq (n : Nat) (home : Port) :
    ownerByte n home = (if home = .B then 0x80#8 else 0x00#8) ||| byte n := by
  cases home <;> rfl

/-- The migration part of a lease record (R182, R113). -/
theorem Lease.migrationBytes_eq (l : Lease) : l.migrationBytes =
    match l.migration with
    | some m => [m.mode.code, (m.target.map fun e => byte e.1).getD 0xFF#8, byte (m.plan.n / 256), byte m.plan.n,
          byte m.plan.d, (m.cls.map fun k => k.code).getD 0xFF#8, (m.pin.map fun e => byte e.1).getD 0xFF#8] ++
        m.entries.flatMap fun x => [byte (x.divider / 256), byte x.divider]
    | none => [0x00#8, (l.closingTarget.map fun e => byte e.1).getD 0xFF#8, 0x00#8, 0x00#8, 0x00#8, 0xFF#8, 0xFF#8] ++
        l.entries.flatMap fun _ => [0x00#8, 0x00#8] := by
  unfold Lease.migrationBytes
  cases l.migration with
  | none => simp only [engineByte_eq]; rfl
  | some m => simp only [engineByte_eq, classByte_eq]; rfl

/-- The lease record of a response, byte by byte (R182). -/
theorem State.leaseBytes_eq (s : State) (i : SlotId) (l : Lease) : s.leaseBytes i l =
    [byte i.1, (s.slot i).gen, l.state.code, (if l.home = .B then 0x80#8 else 0x00#8) ||| byte l.owner.1,
      byte (l.tag.getD 0 / 256), byte (l.tag.getD 0), byte (l.plan.n / 256), byte l.plan.n, byte l.plan.d,
      l.cls.code, flagsByte l.flags l.armed, (l.pin.map fun e => byte e.1).getD 0xFF#8,
      (l.engine.map fun e => byte e.1).getD 0xFF#8, l.reason.code, byte l.entries.length] ++
      entriesBytes l.entries ++ l.migrationBytes := by
  unfold State.leaseBytes
  rw [ownerByte_eq, engineByte_eq, engineByte_eq]
  rfl

/-- The flags byte of a lease record, bit by bit (R182). -/
theorem flagsByte_eq (f : LeaseFlags) (armed : Bool) : flagsByte f armed =
    (if f.exclusive then 0x01#8 else 0x00#8) ||| (if f.heldStart then 0x02#8 else 0x00#8) |||
      (if f.slipMute then 0x04#8 else 0x00#8) ||| (if f.allowGap then 0x08#8 else 0x00#8) |||
      (if armed then 0x80#8 else 0x00#8) := by
  rw [flagsByte, bitAt_zero, bitAt_one, bitAt_two, bitAt_three, bitAt_seven]

@[simp] theorem State.seen_handleBytes (s : State) (p : Port) : (s.seen p).handleBytes = s.handleBytes :=
  funext fun i => by simp only [State.handleBytes, State.seen_slot]

@[simp] theorem State.seen_leaseReport (s : State) (p : Port) (h : Handle) :
    (s.seen p).leaseReport h = s.leaseReport h := by
  simp only [State.leaseReport, State.seen_slot, State.leaseBytes, State.retiredBytes, State.seen_handleBytes]

theorem readFin_of_toNat {n : Nat} {b : Byte} {x : Fin n} (h : b.toNat = x.1) : readFin n b = some x := by
  rw [readFin, dif_pos (h ▸ x.isLt)]
  exact congrArg some (Fin.ext h)

theorem toNat_of_readFin {n : Nat} {b : Byte} {x : Fin n} (h : readFin n b = some x) : b.toNat = x.1 := by
  unfold readFin at h
  split at h
  · cases h; rfl
  · cases h

/-- The report on a handle of a slot's generation is that of the slot's standing (R20). -/
theorem State.leaseReport_of_slot {h : Handle} {i : SlotId} (hi : h.slot.toNat = i.1) (hg : h.gen = (s.slot i).gen) :
    s.leaseReport h =
      match (s.slot i).standing with
      | .live l => some (s.leaseBytes i l)
      | .retired home => some (s.retiredBytes i home)
      | .free => none := by
  rw [State.leaseReport, readFin_of_toNat hi]
  exact if_pos hg.symm

theorem State.leaseReport_eq_none {h : Handle}
    (hf : ∀ i : SlotId, h.slot.toNat = i.1 → h.gen = (s.slot i).gen → (s.slot i).standing = .free) :
    s.leaseReport h = none := by
  unfold State.leaseReport
  split
  · rfl
  · rename_i i hi
    split
    · rename_i hg
      rw [hf i (toNat_of_readFin hi) hg.symm]
    · rfl

theorem exec_queryLease {h : Handle} (ht : s.Takes p c) (hc : c.code = codeQueryLease)
    (hb : readHandle c.body = some h) {bs : List Byte} (hr : s.leaseReport h = some bs) :
    exec .queryLease s = .next (s.answered p c .ok bs) := by
  refine congrArg _ (takeCode_reads ht hc ?_)
  rw [runQueryLease, bodyOf_ok hb, ok_bind, s.seen_leaseReport, hr]
  rfl

end reads

/-- Settles O9: the report is the one of the standing that the handle reaches. -/
theorem queryLeaseReports : Obligations.QueryLeaseReports := by
  intro s p c h ht hc hb
  refine ⟨fun i l hi hg hst => ⟨?_, ?_⟩, fun i q hi hg hst => ?_, fun hf => ?_⟩
  · exact exec_queryLease ht hc hb (by rw [State.leaseReport_of_slot hi hg, hst])
  · rw [State.leaseBytes_eq, flagsByte_eq, Lease.migrationBytes_eq]
    rfl
  · refine exec_queryLease ht hc hb ?_
    have hslot : byte i.1 = h.slot := by rw [← hi, byte_toNat_self]
    rw [State.leaseReport_of_slot hi hg, hst, hg, ← hslot]
    cases q <;> rfl
  · refine congrArg _ (takeCode_refused ht hc (d := deniedAt .noSuchLease 0) ?_)
    rw [runQueryLease, bodyOf_ok hb, ok_bind, s.seen_leaseReport, State.leaseReport_eq_none hf]
    rfl

/-! ## LOOKUP_TAG and LIST_CLIENT -/

section reads

variable {s : State} {p : Port} {c : HeldCommand}

@[simp] theorem State.seen_taggedSlot (s : State) (p : Port) (x : ClientId) (t : Nat) :
    (s.seen p).taggedSlot x t = s.taggedSlot x t := by
  simp only [State.taggedSlot, State.seen_lease]

@[simp] theorem State.seen_slotsOf (s : State) (p : Port) (x : ClientId) : (s.seen p).slotsOf x = s.slotsOf x := by
  simp only [State.slotsOf, State.seen_lease]

/-- Where tags are unique, the slot found is the one of the lease with the tag (R7). -/
theorem State.taggedSlot_of_lease (hu : s.TagsUnique) {i : SlotId} {l : Lease} {t : Nat} (hl : s.lease? i = some l)
    (ht : l.tag = some t) : s.taggedSlot l.owner t = some i := by
  unfold State.taggedSlot
  cases hf : allSlots.find? fun i => (s.lease? i).any fun k => k.owner = l.owner && k.tag = some t with
  | none =>
    have := List.find?_eq_none.1 hf i (mem_allSlots i)
    simp [hl, ht] at this
  | some j =>
    have hj := List.find?_some hf
    obtain ⟨m, hm, ho, htag⟩ : ∃ m, s.lease? j = some m ∧ m.owner = l.owner ∧ m.tag = some t := by
      simpa [Option.any_eq_true] using hj
    rw [hu i j l m hl hm ho.symm (by rw [ht]; rfl) (ht.trans htag.symm)]

theorem State.taggedSlot_eq_none {x : ClientId} {t : Nat}
    (h : ∀ i l, s.lease? i = some l → ¬(l.owner = x ∧ l.tag = some t)) : s.taggedSlot x t = none := by
  refine List.find?_eq_none.2 fun i _ => ?_
  cases hl : s.lease? i with
  | none => simp
  | some l => simpa using h i l hl

/-- The slots of a client's live leases (R22). -/
theorem State.mem_slotsOf {x : ClientId} {i : SlotId} :
    i ∈ s.slotsOf x ↔ ∃ l, s.lease? i = some l ∧ l.owner = x := by
  simp [State.slotsOf, mem_allSlots, Option.any_eq_true]

theorem State.slotsOf_pairwise (s : State) (x : ClientId) : (s.slotsOf x).Pairwise (· < ·) :=
  (List.pairwise_lt_finRange 24).filter _

end reads

/-- A body of LOOKUP_TAG with a client above 7 or the tag 0 does not read (R21). -/
theorem readLookupTag_eq_none {x t1 t0 : Byte} (h : 7 < x.toNat ∨ t1.toNat * 256 + t0.toNat = 0) :
    readLookupTag [x, t1, t0] = none := by
  simp only [readLookupTag]
  rcases h with h | h
  · rw [(readFin_eq_none_iff 8 x).2 (by omega)]
  · split
    · exact if_pos (by simpa [number] using h)
    · rfl

/-- Settles O10: the search for a tag, the list of a client's slots, and the two readings that refuse. -/
theorem lookupsAnswer : Obligations.LookupsAnswer := by
  intro s p c h
  refine ⟨fun x t hc hb hu => ⟨fun i l hl ho ht => ?_, fun hn => ?_⟩, fun x t1 t0 hc hb hx => ?_, fun x hc hb hx => ?_,
    fun x hc hb => ⟨fun hcl => ?_, fun hx h0 => ?_⟩⟩
  · subst ho
    refine congrArg _ (takeCode_reads h hc ?_)
    rw [runLookupTag, bodyOf_ok hb, ok_bind]
    dsimp only
    rw [s.seen_taggedSlot, State.taggedSlot_of_lease hu hl ht]
    rw [s.seen_handleBytes]
    rfl
  · refine congrArg _ (takeCode_reads h hc ?_)
    rw [runLookupTag, bodyOf_ok hb, ok_bind]
    dsimp only
    rw [s.seen_taggedSlot, State.taggedSlot_eq_none hn]
    rfl
  · refine congrArg _ (takeCode_refused h hc (d := denied .badArgument) ?_)
    rw [runLookupTag, bodyOf_error (by rw [hb, readLookupTag_eq_none hx]), error_bind]
  · refine congrArg _ (takeCode_refused h hc (d := denied .badArgument) ?_)
    have hread : readOne 8 c.body = none := by rw [hb]; exact (readFin_eq_none_iff 8 x).2 (by omega)
    rw [runListClient, bodyOf_error hread, error_bind]
  · refine ⟨s.slotsOf x, s.slotsOf_pairwise x, fun i => State.mem_slotsOf, congrArg _ (takeCode_reads h hc ?_)⟩
    rw [runListClient, bodyOf_ok hb, ok_bind, decide_eq_true hcl, ensure_true, ok_bind, s.seen_slotsOf]
    rw [s.seen_handleBytes]
    rfl
  · refine congrArg _ (takeCode_refused h hc (d := denied .notOwner) ?_)
    rw [runListClient, bodyOf_ok hb, ok_bind, decide_eq_false (by tauto), ensure_false, error_bind]

end Sys2Proof.Machine

/-! ## The resets of SOFT_RESET, field by field -/

namespace Sys2Proof.Machine

/-- Freeing slots writes the slots alone. -/
theorem forEach_freeSlot_eq (xs : List SlotId) (s : State) :
    forEach xs State.freeSlot s = { s with slots := (forEach xs State.freeSlot s).slots } := by
  refine forEach_keeps (P := fun t => t = { s with slots := t.slots }) State.freeSlot (fun i t ht => ?_) xs rfl
  unfold State.freeSlot
  split
  · exact ht
  · rw [ht]; rfl
  · rw [ht]; rfl

/-- A lease reset writes the slots, the engines, the outputs and the lease notices (R174). -/
theorem State.leaseReset_eq (s : State) : s.leaseReset =
    { s with
      slots := s.leaseReset.slots, outputs := Vector.replicate 16 OutputRec.initial,
      engines := Vector.replicate 6 EngineRec.initial, portA := s.portA.emptied, portB := s.portB.emptied } := by
  have h := forEach_freeSlot_eq allSlots s
  rw [s.leaseReset_slots]
  unfold State.leaseReset
  generalize forEach allSlots State.freeSlot s = t at h ⊢
  rw [h]

section softReset

variable {s : State} {p : Port} {c : HeldCommand}

theorem runSoftReset_leases (hc : c.client = 0) (hb : c.body = [scopeLeases]) :
    runSoftReset p c s = .ok (resetReply scopeLeases s.leaseReset) := by
  rw [runSoftReset, supervisorOnly_ok hc, ok_bind,
    bodyOf_ok ((readScope_eq_some_iff c.body false).2 hb), ok_bind]
  rfl

theorem runSoftReset_device (hc : c.client = 0) (hb : c.body = [scopeDevice]) :
    runSoftReset p c s = .ok (resetReply scopeDevice (s.deviceReset p)) := by
  rw [runSoftReset, supervisorOnly_ok hc, ok_bind,
    bodyOf_ok ((readScope_eq_some_iff c.body true).2 hb), ok_bind]
  rfl

/-- A slot after the reset that a taken command performs. -/
theorem State.seen_leaseReset_slot (i : SlotId) : (s.seen p).leaseReset.slot i =
    if (s.slot i).standing = .free then s.slot i else ⟨(s.slot i).gen + 1, .free⟩ := by
  rw [State.leaseReset_slot, State.seen_slot, Slot.freed]

theorem Exchange.dropResponse_eq (x : Exchange) : x.dropResponse =
    match x with
    | .held d => .held d
    | _ => .empty := by
  cases x <;> rfl

end softReset

/-- Settles O19: a lease reset field by field, and what scope DEVICE adds to it. -/
theorem softResetsReset : Obligations.SoftResetsReset := by
  intro s p c h hc hcl
  have hreset := (s.seen p).leaseReset_eq
  have hslot := State.seen_leaseReset_slot (s := s) (p := p)
  refine ⟨fun hb => ?_, fun hb => ?_⟩
  · have hm : isSoftReset scopeDevice c = true := by simp [isSoftReset, hc, hb, scopeLeases, scopeDevice]
    refine ⟨_, congrArg Host.Outcome.next (event_take_ok h hm (runSoftReset_leases hcl hb)), ?_⟩
    generalize (s.seen p).leaseReset = t at hreset hslot ⊢
    rw [hreset]
    cases p <;> exact ⟨rfl, hslot, rfl, rfl⟩
  · have hm : isSoftReset scopeLeases c = true := by simp [isSoftReset, hc, hb, scopeLeases, scopeDevice]
    refine ⟨_, congrArg Host.Outcome.next (event_take_ok h hm (runSoftReset_device hcl hb)), ?_⟩
    unfold State.deviceReset
    generalize (s.seen p).leaseReset = t at hreset hslot ⊢
    rw [hreset]
    have hdrop := congrArg (fun x => ({ s.port p.other with
      mask := 0xFE#8, noticeEnable := true, responseEnable := false, notices := Vector.replicate 24 none,
      exchange := x, retry := none } : PortState)) (s.port p.other).exchange.dropResponse_eq
    cases p <;> exact ⟨rfl, hslot, rfl, hdrop⟩

end Sys2Proof.Machine

/-! ## The checks of OPEN -/

namespace Sys2Proof.Machine

section checks

variable {s : State} {p : Port} {c : HeldCommand}

@[simp] theorem State.seen_tagInUse (s : State) (p : Port) (x : ClientId) (tag : Option Nat) :
    (s.seen p).tagInUse x tag = s.tagInUse x tag := by
  simp only [State.tagInUse, State.seen_lease]

@[simp] theorem State.seen_liveCount (s : State) (p : Port) (x : ClientId) :
    (s.seen p).liveCount x = s.liveCount x := by
  simp only [State.liveCount, State.seen_lease]

@[simp] theorem State.seen_lowestFree (s : State) (p : Port) : (s.seen p).lowestFree = s.lowestFree := by
  simp only [State.lowestFree, State.seen_slot]

@[simp] theorem State.seen_ask (s : State) (p : Port) (r : AllocRequest) : (s.seen p).ask r = s.ask r := by
  simp only [State.ask, State.askPinned, State.search, State.seen_engine]

/-- The lowest FREE slot is FREE, and no lower one is (R30). -/
theorem State.lowestFree_eq_some {i : SlotId} (hi : (s.slot i).standing = .free)
    (hlow : ∀ j : SlotId, j < i → (s.slot j).standing ≠ .free) : s.lowestFree = some i := by
  cases hf : s.lowestFree with
  | none => simpa [hi] using List.find?_eq_none.1 hf i (mem_allSlots i)
  | some j =>
    have hj : (s.slot j).standing = .free := by simpa using List.find?_some hf
    obtain ⟨-, before, after, hsplit, hbefore⟩ := List.find?_eq_some_iff_append.1 hf
    rcases lt_trichotomy i j with hij | rfl | hji
    · have hmem : i ∈ before := by
        have hsorted := List.pairwise_append.1 (hsplit ▸ List.pairwise_lt_finRange 24 :
          (before ++ j :: after).Pairwise (· < ·))
        rcases List.mem_append.1 (hsplit ▸ mem_allSlots i : i ∈ before ++ j :: after) with hm | hm
        · exact hm
        rcases List.mem_cons.1 hm with rfl | hm
        · exact absurd hij (lt_irrefl _)
        · exact absurd (List.rel_of_pairwise_cons hsorted.2.1 hm) hij.le.not_gt
      simpa [hi] using hbefore i hmem
    · rfl
    · exact absurd hj (hlow j hji)

theorem State.lowestFree_eq_none (h : ∀ i, (s.slot i).standing ≠ .free) : s.lowestFree = none :=
  List.find?_eq_none.2 fun i _ => by simpa using h i

theorem State.lowestFree_exists (h : ∃ i, (s.slot i).standing = .free) : ∃ i, s.lowestFree = some i := by
  obtain ⟨i, hi⟩ := h
  refine Option.ne_none_iff_exists'.1 fun hn => ?_
  simpa [hi] using List.find?_eq_none.1 hn i (mem_allSlots i)

theorem rangeChecks_ok {n : Nat} {cls : LeaseClass} {plan : Plan} {es : List Entry} (h : eligible n cls plan ≠ [])
    (hr : ∀ x ∈ es, plan.outputInRange n x.divider = true) :
    rangeChecks n cls plan es = .ok (eligible n cls plan) := by
  have he : (eligible n cls plan).isEmpty = false := by simpa using h
  rw [rangeChecks, he, Bool.not_false, ensure_true, ok_bind,
    checkEach_ok (ok := fun x : Entry => plan.outputInRange n x.divider) 0 hr, ok_bind]
  rfl

variable {a : OpenArgs}

/-! ### The run of an OPEN, check by check (R25) -/

theorem runOpen_tagInUse (hb : readOpen c.body = some a) (ht : s.tagInUse c.client a.tag = true) :
    runOpen p c s = .error (denied .tagInUse) := by
  rw [runOpen, bodyOf_ok hb, ok_bind, ht, Bool.not_true, ensure_false, error_bind]

/-- An OPEN under a fresh tag is judged by the quota next. -/
theorem runOpen_quota (hb : readOpen c.body = some a) (ht : s.tagInUse c.client a.tag = false)
    (hq : s.quota c.client ≤ s.liveCount c.client) : runOpen p c s = .error (denied .quota) := by
  rw [runOpen, bodyOf_ok hb, ok_bind, ht, Bool.not_false, ensure_true, ok_bind,
    decide_eq_false (by omega), ensure_false, error_bind]

/-- An OPEN has passed the checks that its client's leases decide (R25, steps 3 and 4). -/
structure State.OpenAllowed (s : State) (c : HeldCommand) (a : OpenArgs) : Prop where
  body : readOpen c.body = some a
  tag : s.tagInUse c.client a.tag = false
  quota : s.liveCount c.client < s.quota c.client

/-- What is left of the run of an allowed OPEN (R25, from step 5). -/
theorem runOpen_allowed (h : s.OpenAllowed c a) : runOpen p c s = (do
    let i ← need s.lowestFree (denied .tableFull)
    let cs ← rangeChecks s.params.nominal a.cls a.plan.reduce a.entries
    checkEach (fun x => (s.output x.output).holder.isNone) .outputHeld 0 a.entries
    let e ← granted (s.ask (a.request cs))
    let t := s.openAccepted p c.client a cs i e
    return replyOk t (t.handleBytes i ++ [t.stateCode i, t.engineByteOf i])) := by
  rw [runOpen, bodyOf_ok h.body, ok_bind, h.tag, Bool.not_false, ensure_true, ok_bind,
    decide_eq_true h.quota, ensure_true, ok_bind]

theorem runOpen_tableFull (h : s.OpenAllowed c a) (hf : s.lowestFree = none) :
    runOpen p c s = .error (denied .tableFull) := by
  rw [runOpen_allowed h, hf, need_none, error_bind]

variable {i : SlotId}

theorem runOpen_planRange (h : s.OpenAllowed c a) (hi : s.lowestFree = some i)
    (he : eligible s.params.nominal a.cls a.plan.reduce = []) : runOpen p c s = .error (denied .planRange) := by
  rw [runOpen_allowed h, hi, need_some, ok_bind, rangeChecks_planRange he, error_bind]

theorem runOpen_outputRange {k : Nat} {x : Entry} (h : s.OpenAllowed c a) (hi : s.lowestFree = some i)
    (he : eligible s.params.nominal a.cls a.plan.reduce ≠ []) (hx : a.entries[k]? = some x)
    (hf : a.plan.reduce.outputInRange s.params.nominal x.divider = false)
    (hbefore : ∀ (j : Nat) y, j < k → a.entries[j]? = some y →
      a.plan.reduce.outputInRange s.params.nominal y.divider = true) :
    runOpen p c s = .error (deniedAt .outputRange k) := by
  rw [runOpen_allowed h, hi, need_some, ok_bind, rangeChecks_outputRange he hx hf hbefore, error_bind]

/-- An allowed OPEN has found a FREE slot and passed its range checks (R25, steps 5 to 7). -/
structure State.OpenInRange (s : State) (c : HeldCommand) (a : OpenArgs) (i : SlotId) : Prop
    extends s.OpenAllowed c a where
  slot : s.lowestFree = some i
  classes : eligible s.params.nominal a.cls a.plan.reduce ≠ []
  range : ∀ x ∈ a.entries, a.plan.reduce.outputInRange s.params.nominal x.divider = true

/-- What is left of the run of an OPEN in range (R25, from step 8). -/
theorem runOpen_inRange (h : s.OpenInRange c a i) : runOpen p c s = (do
    let cs := eligible s.params.nominal a.cls a.plan.reduce
    checkEach (fun x => (s.output x.output).holder.isNone) .outputHeld 0 a.entries
    let e ← granted (s.ask (a.request cs))
    let t := s.openAccepted p c.client a cs i e
    return replyOk t (t.handleBytes i ++ [t.stateCode i, t.engineByteOf i])) := by
  rw [runOpen_allowed h.toOpenAllowed, h.slot, need_some, ok_bind, rangeChecks_ok h.classes h.range, ok_bind]

theorem runOpen_outputHeld {k : Nat} {x : Entry} (h : s.OpenInRange c a i) (hx : a.entries[k]? = some x)
    (hh : (s.output x.output).holder ≠ none)
    (hbefore : ∀ (j : Nat) y, j < k → a.entries[j]? = some y → (s.output y.output).holder = none) :
    runOpen p c s = .error (deniedAt .outputHeld k) := by
  rw [runOpen_inRange h]
  dsimp only
  rw [checkEach_error (ok := fun x : Entry => (s.output x.output).holder.isNone) 0 k hx
    (by simpa [Option.isSome_iff_ne_none] using hh)
    fun j y hj hy => by simpa using hbefore j y hj hy, error_bind, Nat.zero_add]

/-- The allocation judges an OPEN last (R25, step 9). -/
theorem runOpen_unheld (h : s.OpenInRange c a i) (hh : ∀ x ∈ a.entries, (s.output x.output).holder = none) :
    runOpen p c s = (do
    let cs := eligible s.params.nominal a.cls a.plan.reduce
    let e ← granted (s.ask (a.request cs))
    let t := s.openAccepted p c.client a cs i e
    return replyOk t (t.handleBytes i ++ [t.stateCode i, t.engineByteOf i])) := by
  rw [runOpen_inRange h]
  dsimp only
  rw [checkEach_ok (ok := fun x : Entry => (s.output x.output).holder.isNone) 0
    fun x hx => by simpa using hh x hx, ok_bind]

theorem runOpen_notGranted {st : Status} (h : s.OpenInRange c a i)
    (hh : ∀ x ∈ a.entries, (s.output x.output).holder = none)
    (ha : s.ask (a.request (eligible s.params.nominal a.cls a.plan.reduce)) = .error st) :
    runOpen p c s = .error (denied st) := by
  rw [runOpen_unheld h hh]
  dsimp only
  rw [ha]
  rfl

/-- The reply of an OPEN that passes every check (R30). -/
theorem runOpen_granted {e : EngineId} (h : s.OpenInRange c a i)
    (hh : ∀ x ∈ a.entries, (s.output x.output).holder = none)
    (ha : s.ask (a.request (eligible s.params.nominal a.cls a.plan.reduce)) = .ok e) :
    runOpen p c s =
      let t := s.openAccepted p c.client a (eligible s.params.nominal a.cls a.plan.reduce) i e
      .ok (replyOk t (t.handleBytes i ++ [t.stateCode i, t.engineByteOf i])) := by
  rw [runOpen_unheld h hh]
  dsimp only
  rw [ha]
  rfl

/-- The run of a taken OPEN judges the state before the taking. -/
theorem State.OpenAllowed.seen (h : s.OpenAllowed c a) : (s.seen p).OpenAllowed c a :=
  ⟨h.body, by simpa using h.tag, by simpa using h.quota⟩

theorem State.OpenInRange.seen (h : s.OpenInRange c a i) : (s.seen p).OpenInRange c a i :=
  ⟨h.toOpenAllowed.seen, by simpa using h.slot, by simpa using h.classes, by simpa using h.range⟩

end checks

/-- Settles O22: each refusal is the first check of OPEN that fails, in the order of its run. -/
theorem openRefusedInOrder : Obligations.OpenRefusedInOrder := by
  intro s p c a h hc hb
  have refused {d : Denial} (hd : runOpen p c (s.seen p) = .error d) :
      exec .openLease s = .next (s.answered p c d.status d.body) :=
    congrArg _ (takeCode_refused h hc hd)
  refine ⟨fun ht => refused (runOpen_tagInUse hb (by simpa using ht)), fun ht =>
    ⟨fun hq => refused (runOpen_quota hb (by simpa using ht) (by simpa using hq)), fun hq => ?_⟩⟩
  have allowed : s.OpenAllowed c a := ⟨hb, ht, hq⟩
  refine ⟨fun hf => refused (runOpen_tableFull allowed.seen (by simpa using State.lowestFree_eq_none hf)), fun hf => ?_⟩
  obtain ⟨i, hi⟩ := State.lowestFree_exists hf
  have slot : (s.seen p).lowestFree = some i := by simpa using hi
  refine ⟨fun he => refused (runOpen_planRange allowed.seen slot (by simpa using he)), fun he =>
    ⟨fun k x hx hf hbefore => ?_, fun hr => ?_⟩⟩
  · exact refused (runOpen_outputRange allowed.seen slot (by simpa using he) hx (by simpa using hf)
      (by simpa using hbefore))
  have inRange : (s.seen p).OpenInRange c a i := State.OpenInRange.seen ⟨allowed, hi, he, hr⟩
  refine ⟨fun k x hx hh hbefore => ?_, fun hh st ha => ?_⟩
  · exact refused (runOpen_outputHeld inRange hx (by simpa using hh) (by simpa using hbefore))
  · exact refused (runOpen_notGranted inRange (by simpa using hh) (by simpa [OpenArgs.request] using ha))

end Sys2Proof.Machine

/-! ## An accepted OPEN -/

namespace Sys2Proof.Machine

/-! ### The answered state -/

section answered

variable (t : State) (p : Port) (c : HeldCommand) (st : Status) (body : List Byte)

@[simp] theorem State.answered_slot (i : SlotId) : (t.answered p c st body).slot i = t.slot i := by cases p <;> rfl
@[simp] theorem State.answered_lease (i : SlotId) : (t.answered p c st body).lease? i = t.lease? i := by
  cases p <;> rfl
@[simp] theorem State.answered_engines : (t.answered p c st body).engines = t.engines := by cases p <;> rfl
@[simp] theorem State.answered_engine (e : EngineId) : (t.answered p c st body).engine e = t.engine e := by
  cases p <;> rfl
@[simp] theorem State.answered_isLocked (e : EngineId) : (t.answered p c st body).isLocked e = t.isLocked e := by
  cases p <;> rfl
@[simp] theorem State.answered_output (o : OutputId) : (t.answered p c st body).output o = t.output o := by
  cases p <;> rfl
@[simp] theorem State.answered_deviceNotices : (t.answered p c st body).deviceNotices = t.deviceNotices := by
  cases p <;> rfl
@[simp] theorem State.answered_touched : (t.answered p c st body).touched = [] := rfl

theorem State.answered_port (q : Port) : (t.answered p c st body).port q =
    if q = p then { t.port p with exchange := .answered (responseTo c st body) } else t.port q := by
  cases p <;> cases q <;> rfl

@[simp] theorem State.answered_notices (q : Port) :
    ((t.answered p c st body).port q).notices = (t.port q).notices := by
  cases p <;> cases q <;> rfl

end answered

/-- The bound of lease work stands when the same command is answered on both sides. -/
theorem LeaseWork.answered {s t : State} (h : LeaseWork s t) (p : Port) (c : HeldCommand) (st : Status)
    (body : List Byte) : LeaseWork (s.answered p c st body) (t.answered p c st body) where
  rstnLow := by simpa [State.answered] using h.rstnLow
  ready := by simpa [State.answered] using h.ready
  supselPort := by simpa [State.answered] using h.supselPort
  supervisor := by simpa [State.answered] using h.supervisor
  lastServed := rfl
  quotas := by simpa [State.answered] using h.quotas
  refA := by simpa [State.answered] using h.refA
  refB := by simpa [State.answered] using h.refB
  selection := by simpa [State.answered] using h.selection
  params := by simpa [State.answered] using h.params
  freeCount := by simpa [State.answered] using h.freeCount
  pending := by simpa [State.answered] using h.pending
  ports q := by
    rw [t.answered_notices, t.answered_port, s.answered_port]
    split
    · rw [h.ports p]
      subst ‹q = p›
      rfl
    · exact h.ports q

/-- The taking of a command whose run replies without a save, keeping the port served: the run's state, answered, is
lease work on the taken state answered. -/
theorem LeaseWork.taken {s t : State} {p : Port} (h : LeaseWork (s.seen p) t) (c : HeldCommand) (st : Status)
    (body : List Byte) : LeaseWork (s.answered p c st body) (t.answered p c st body) :=
  s.seen_answered p c st body ▸ h.answered p c st body

/-! ### The acceptance, record by record (R30, R31) -/

section accepted

variable (s : State) (p : Port) (c : ClientId) (a : OpenArgs) (cs : List EngineClass) (i : SlotId) (e : EngineId)

/-- The state that a lease opened on engine `e` enters: by the engine as the request leaves it (R30). -/
def State.openState : LeaseState := startState ((s.commit (a.request cs) e).isLocked e) a.flags.heldStart

theorem startState_eq_starting {locked held : Bool} : startState locked held = .starting ↔ locked = true ∧ held = false := by
  cases locked <;> cases held <;> simp [startState]

/-- An accepted OPEN: the engine is committed, the holders and the lease are written, and the outputs are given their
targets where the lease starts at once (R30, R31). -/
theorem State.openAccepted_parts : s.openAccepted p c a cs i e =
    let t := ((s.commit (a.request cs) e).setHolders (some i) a.entries).setLease i
      { a.lease c p e with state := s.openState a cs e }
    if s.openState a cs e = .starting then t.giveEach (wantClock e) a.entries else t := by
  have hlock : ((s.commit (a.request cs) e).setHolders (some i) a.entries).isLocked e =
      (s.commit (a.request cs) e).isLocked e := by simp only [State.isLocked, State.setHolders_engine]
  rw [s.openAccepted_eq, State.setLease_enter _ _ (e := e) rfl, hlock]
  simp only [State.openState, startState_eq_starting]
  rfl

theorem State.openAccepted_slot (j : SlotId) : (s.openAccepted p c a cs i e).slot j =
    if j = i then ⟨(s.slot i).gen, .live { a.lease c p e with state := s.openState a cs e }⟩ else s.slot j := by
  rw [State.openAccepted_parts]
  dsimp only
  split <;> simp [State.slot_setLease]

theorem State.openAccepted_engine (f : EngineId) : (s.openAccepted p c a cs i e).engine f =
    if f = e then (s.engine e).commit (a.request cs) s.selection.isSome s.params.acqLimit else s.engine f := by
  rw [State.openAccepted_parts, ← State.commit_engine]
  dsimp only
  split <;> simp

theorem State.openAccepted_isLocked : (s.openAccepted p c a cs i e).isLocked e =
    (s.commit (a.request cs) e).isLocked e := by
  simp only [State.isLocked, State.openAccepted_engine, State.commit_engine]

theorem State.openAccepted_port (q : Port) : (s.openAccepted p c a cs i e).port q = s.port q := by
  rw [State.openAccepted_parts]
  dsimp only
  split <;> simp [State.commit]

/-- No other slot, no notice of another slot and no device notice is touched. -/
theorem OneSlot.openAccepted : OneSlot i s (s.openAccepted p c a cs i e) :=
  ((((OneSlot.refl i s).commit _ _).setLease _).setHolders _ _).enter

theorem State.openAccepted_output_mem (hn : (outputsOf a.entries).Nodup) {x : Entry} (hx : x ∈ a.entries) :
    (s.openAccepted p c a cs i e).output x.output =
      if s.openState a cs e = .starting then
        { holder := some i, state := (s.output x.output).state.give (.clock e x.divider) }
      else { s.output x.output with holder := some i } := by
  rw [State.openAccepted_parts]
  dsimp only
  split
  · rw [State.giveEach_output _ _ _ hn hx, State.output_setLease, State.setHolders_output _ _ _ hn hx]
    rfl
  · rw [State.output_setLease, State.setHolders_output _ _ _ hn hx, State.commit_output]

theorem State.openAccepted_output_not_mem {o : OutputId} (ho : o ∉ outputsOf a.entries) :
    (s.openAccepted p c a cs i e).output o = s.output o := by
  rw [State.openAccepted_parts]
  dsimp only
  split
  · rw [State.giveEach_output_not_mem _ _ _ ho, State.output_setLease, State.setHolders_output_not_mem _ _ _ ho,
      State.commit_output]
  · rw [State.output_setLease, State.setHolders_output_not_mem _ _ _ ho, State.commit_output]

theorem State.openAccepted_lease : (s.openAccepted p c a cs i e).lease? i =
    some { a.lease c p e with state := s.openState a cs e } :=
  State.lease_of_standing (by rw [State.openAccepted_slot, if_pos rfl])

end accepted

/-- Settles O21: the nine checks pass, and the acceptance is read record by record. -/
theorem openAccepted : Obligations.OpenAccepted := by
  intro s p c a i e cs h hc hb ht hq hi hlow hcs hne hr hh ha
  subst hcs
  have inRange : (s.seen p).OpenInRange c a i :=
    State.OpenInRange.seen ⟨⟨hb, ht, hq⟩, State.lowestFree_eq_some hi hlow, hne, hr⟩
  have hrun := runOpen_granted (p := p) inRange (by simpa using hh) (by simpa [OpenArgs.request] using ha)
  have hn := (readOpen_entries hb).nodup
  rw [State.seen_params] at hrun
  generalize eligible s.params.nominal a.cls a.plan.reduce = cs at hrun
  have hstate : (s.seen p).openState a cs e = s.openState a cs e := by
    simp only [State.openState, State.isLocked, State.commit_engine, State.seen_engine, State.seen_selection,
      State.seen_params]
  have hwork := (LeaseWork.refl (s.seen p)).openAccepted p c.client a cs i e
  have hbody : ∀ t : State, t = (s.seen p).openAccepted p c.client a cs i e →
      t.handleBytes i ++ [t.stateCode i, t.engineByteOf i] =
        [byte i.1, (s.slot i).gen, (s.openState a cs e).code, byte e.1] := by
    rintro t rfl
    rw [State.handleBytes, State.stateCode, State.engineByteOf, State.openAccepted_lease, State.openAccepted_slot,
      if_pos rfl, hstate, State.seen_slot]
    rfl
  refine ⟨_, s.openState a cs e, ?_, congrArg Host.Outcome.next (takeCode_answered h hc hrun rfl hwork.lastServed), ?_,
    ?_, fun q => ?_, rfl, ?_, fun j hj => ?_, ?_, fun f hf => ?_, fun x hx => ?_, fun o ho => ?_⟩
  · rw [← hstate, State.openState, State.answered_isLocked]
    exact congrArg (startState · _) (State.openAccepted_isLocked _ _ _ _ _ _ _).symm
  · exact hbody _ rfl ▸ hwork.taken c _ _
  · simp [replyOk, (OneSlot.openAccepted _ p c.client a cs i e).deviceNotices]
  · simp [replyOk, State.openAccepted_port]
  · simp [replyOk, State.openAccepted_slot, hstate, OpenArgs.lease]
  · simp [replyOk, State.openAccepted_slot, hj]
  · simp [replyOk, State.openAccepted_engine, OpenArgs.request]
  · simp [replyOk, State.openAccepted_engine, hf]
  · simp only [replyOk, State.answered_output, State.openAccepted_output_mem _ _ _ _ _ _ _ hn hx, hstate,
      State.seen_output]
  · simp [replyOk, State.openAccepted_output_not_mem _ _ _ _ _ _ _ ho]

end Sys2Proof.Machine

/-! ## Notices, settlings and freeings, record by record

What one raise makes of a slot's notices, and what the end of a migration and the end of a closing make of the
slot, the engines and the outputs. -/

namespace Sys2Proof.Machine

variable {s t u : State} {i : SlotId} {l k : Lease} {r : Reason} {closed : Bool}

/-! ### The marks of an event -/

@[simp] theorem State.port_touched (s : State) (xs : List SlotId) (q : Port) :
    ({ s with touched := xs } : State).port q = s.port q := by cases q <;> rfl

theorem State.touched_self (h : s.touched = []) : ({ s with touched := [] } : State) = s := by rw [← h]

/-- An event from a state without marks. -/
theorem event_of_unmarked (h : s.touched = []) (f : State → State) : event f s = { f s with touched := [] } := by
  rw [event, State.touched_self h]

/-! ### Raising -/

section raise

variable (s : State) (i : SlotId) (closed : Bool)

@[simp] theorem State.raise_slots : (s.raise i closed).slots = s.slots := by
  unfold State.raise; split <;> simp

@[simp] theorem State.raise_engines : (s.raise i closed).engines = s.engines := by
  unfold State.raise; split <;> simp

@[simp] theorem State.raise_outputs : (s.raise i closed).outputs = s.outputs := by
  unfold State.raise; split <;> simp

@[simp] theorem State.raise_slot (j : SlotId) : (s.raise i closed).slot j = s.slot j := by
  simp only [State.slot, State.raise_slots]

@[simp] theorem State.raise_lease (j : SlotId) : (s.raise i closed).lease? j = s.lease? j := by
  simp only [State.lease?, State.raise_slot]

@[simp] theorem State.raise_engine (f : EngineId) : (s.raise i closed).engine f = s.engine f := by
  simp only [State.engine, State.raise_engines]

@[simp] theorem State.raise_output (o : OutputId) : (s.raise i closed).output o = s.output o := by
  simp only [State.output, State.raise_outputs]

theorem State.raise_touched (h : s.lease? i = some l) : (s.raise i closed).touched = i :: s.touched := by
  rw [State.raise, h]

/-- A raise writes the notice of its slot, at the home port alone (R159, R160). -/
theorem State.raise_port (h : s.lease? i = some l) (q : Port) : (s.raise i closed).port q =
    if q = l.home then
      { s.port l.home with
        notices := (s.port l.home).notices.set i.1
          (some (raisedNotice (s.port l.home).notices[i] (s.touched.contains i) (s.slot i).gen l.reason closed)) i.2 }
    else s.port q := by
  rw [← State.port_setPort, State.raise, h]
  exact State.port_touched _ _ q

theorem State.raise_notices (h : s.lease? i = some l) (q : Port) : ((s.raise i closed).port q).notices[i] =
    if q = l.home then
      some (raisedNotice (s.port q).notices[i] (s.touched.contains i) (s.slot i).gen l.reason closed)
    else (s.port q).notices[i] := by
  rw [s.raise_port i closed h]
  by_cases hq : q = l.home
  · subst hq; simp
  · simp [hq]

end raise

theorem port_other_ne (p : Port) : p.other ≠ p := by cases p <;> decide

/-- The first raise of an event for a lease (R160). -/
theorem State.raise_raised (h : s.lease? i = some l) (ht : i ∉ s.touched) (closed : Bool) :
    s.Raised (s.raise i closed) i l l.reason closed := by
  constructor
  · rw [s.raise_notices i closed h, if_pos rfl]
    simp [ht]
  · rw [s.raise_notices i closed h, if_neg (port_other_ne l.home)]

/-- A second raise of the same event leaves the count and writes the new reason (R160). -/
theorem State.Raised.again (hr : s.Raised t i k r false) (hk : t.lease? i = some l) (home : l.home = k.home)
    (ht : i ∈ t.touched) (closed : Bool) : s.Raised (t.raise i closed) i k l.reason closed := by
  obtain ⟨hh, ho⟩ := hr
  constructor
  · rw [t.raise_notices i closed hk, home, if_pos rfl, hh]
    cases (s.port k.home).notices[i] <;> simp [raisedNotice, ht]
  · rw [t.raise_notices i closed hk, home, if_neg (port_other_ne k.home), ho]

/-- A raise seen from a state with the same notices and generation of the slot. -/
theorem State.Raised.of_left (hr : s.Raised t i l r closed)
    (hn : ∀ q, (s.port q).notices[i] = (u.port q).notices[i]) (hg : (s.slot i).gen = (u.slot i).gen) :
    u.Raised t i l r closed := by
  obtain ⟨hh, ho⟩ := hr
  rw [hn, hg] at hh
  rw [hn] at ho
  exact ⟨hh, ho⟩

/-- A raise seen in a later state with the same notices of the slot. -/
theorem State.Raised.to_right (hr : s.Raised t i l r closed)
    (hn : ∀ q, (u.port q).notices[i] = (t.port q).notices[i]) : s.Raised u i l r closed :=
  ⟨(hn _).trans hr.1, (hn _).trans hr.2⟩

/-! ### A lease written in a background event -/

section background

variable (s : State) (i : SlotId) (k : Lease) (st : LeaseState) (r : Reason)

@[simp] theorem State.background_slot : (s.background i k st r).slot i =
    ⟨(s.slot i).gen, .live { k with state := st, reason := r }⟩ := by
  simp [State.background, State.slot_setLease]

@[simp] theorem State.background_engines : (s.background i k st r).engines = s.engines := by simp [State.background]

@[simp] theorem State.background_outputs : (s.background i k st r).outputs = s.outputs := by simp [State.background]

theorem State.background_touched : i ∈ (s.background i k st r).touched := by
  rw [State.background, State.raise_touched _ _ _ (State.lease_setLease_same _ _ _)]
  exact List.mem_cons_self

end background

theorem State.background_raised (ht : i ∉ s.touched) (k : Lease) (st : LeaseState) (r : Reason) :
    s.Raised (s.background i k st r) i k r false :=
  (State.raise_raised (State.lease_setLease_same s i { k with state := st, reason := r }) ht false).of_left
    (by simp) (by simp [State.slot_setLease])

/-! ### The end of a migration -/

theorem State.settle_of_not_atGoal {m : Migration} (hl : s.lease? i = some l) (hm : l.migration = some m)
    (hg : ¬s.AtGoal l m) (told : Bool) : s.settle told i = s := by
  rw [← s.settled_iff_atGoal] at hg
  unfold State.settle
  simp only [hl]
  split
  · rename_i m' _ hm'
    cases hm.symm.trans hm'
    simp [hg]
  · rfl

theorem State.settle_of_atGoal {m : Migration} (hl : s.lease? i = some l) (hs : l.state = .migrating)
    (hm : l.migration = some m) (hg : s.AtGoal l m) (told : Bool) :
    s.settle told i = (s.finishMigration i l m).tell told i := by
  rw [← s.settled_iff_atGoal] at hg
  simp [State.settle, hl, hs, hm, hg]

section finish

variable (s : State) (i : SlotId) (l : Lease) (m : Migration)

/-- The end of a migration writes the lease of its slot and at most one engine. -/
theorem State.finishMigration_eq : ∃ k, s.finishMigration i l m = s.setLease i k ∨
    ∃ f x, s.finishMigration i l m = (s.setEngine f x).setLease i k := by
  unfold State.finishMigration
  cases m.mode with
  | loc => exact ⟨_, .inl rfl⟩
  | overlap =>
    cases l.engine with
    | none => exact ⟨_, .inl rfl⟩
    | some f => exact ⟨_, .inr ⟨f, _, rfl⟩⟩
  | gap =>
    cases l.engine with
    | none => exact ⟨_, .inl rfl⟩
    | some f => exact ⟨_, .inr ⟨f, _, rfl⟩⟩

@[simp] theorem State.finishMigration_outputs : (s.finishMigration i l m).outputs = s.outputs := by
  obtain ⟨k, h | ⟨f, x, h⟩⟩ := s.finishMigration_eq i l m <;> rw [h] <;> rfl

@[simp] theorem State.finishMigration_port (q : Port) : (s.finishMigration i l m).port q = s.port q := by
  obtain ⟨k, h | ⟨f, x, h⟩⟩ := s.finishMigration_eq i l m <;> simp [h]

@[simp] theorem State.finishMigration_touched : (s.finishMigration i l m).touched = s.touched := by
  obtain ⟨k, h | ⟨f, x, h⟩⟩ := s.finishMigration_eq i l m <;> rw [h] <;> rfl

/-- What the end of a migration makes of the engine that serves the lease: nothing in LOCAL (R97), one user fewer in
OVERLAP (R101), a new plan in GAP (R105). -/
def State.engineLeft (s : State) (m : Migration) (x : EngineRec) : EngineRec :=
  match m.mode with
  | .loc => x
  | .overlap => x.dropUser s.params.linger
  | .gap => x.program s.selection.isSome s.params.acqLimit m.plan

theorem State.finishMigration_engine (f : EngineId) : (s.finishMigration i l m).engine f =
    if l.engine = some f then s.engineLeft m (s.engine f) else s.engine f := by
  unfold State.finishMigration State.engineLeft
  cases m.mode with
  | loc => simp
  | overlap => simp [State.dropUser_engine]
  | gap =>
    cases he : l.engine with
    | none => simp
    | some e =>
      simp only [State.engine_setLease, State.reprogram, State.engine_setEngine, Option.some.injEq]
      by_cases hf : f = e
      · subst hf; simp
      · simp [hf, Ne.symm hf]

variable {l m}

/-- The lease that ends its migration, `g` being the engine that serves it from then on (R97, R101, R105). -/
theorem State.finishMigration_slot {g : EngineId}
    (hg : (if m.mode = .overlap then m.target else l.engine) = some g)
    (hd : m.mode = .overlap → m.target ≠ l.engine) :
    (s.finishMigration i l m).slot i = ⟨(s.slot i).gen, .live (l.migrated m (s.isLocked g))⟩ := by
  unfold State.finishMigration
  cases hmode : m.mode with
  | loc =>
    simp only [hmode, reduceCtorEq, if_false] at hg
    simp [State.slot_setLease, Lease.migrated_loc hmode, State.activeIfLocked, hg]
  | overlap =>
    simp only [hmode, if_true] at hg
    have hne : l.engine ≠ some g := fun he => hd hmode (hg.trans he.symm)
    have hlock : (s.dropUser l.engine).isLocked g = s.isLocked g := by
      rw [State.isLocked, State.dropUser_engine, if_neg hne]; rfl
    simp [State.slot_setLease, Lease.migrated_overlap hmode, State.activeIfLocked, hg, hlock]
  | gap =>
    simp only [hmode, reduceCtorEq, if_false] at hg
    simp [State.slot_setLease, Lease.migrated_gap hmode, hg, State.reprogram]

end finish

/-- A settled lease with the notice of its settling, the first of its event (R95, R159). -/
theorem State.settle_raised {m : Migration} (hl : s.lease? i = some l) (hs : l.state = .migrating)
    (hm : l.migration = some m) (hg : s.AtGoal l m) (ht : i ∉ s.touched) :
    s.Raised (s.settle false i) i l .migrated false := by
  obtain ⟨st, armed, hk⟩ := s.finishMigration_lease i l m
  rw [State.settle_of_atGoal hl hs hm hg]
  exact (State.raise_raised hk (by simpa using ht) false).of_left (by simp)
    (((OneSlot.refl i s).finishMigration l m).gen)

/-! ### The end of a closing -/

/-- The holders of a list are written, whatever outputs it names (R30, R112). -/
theorem State.setHolders_output_mem (s : State) (h : Option SlotId) {es : List Entry} {o : OutputId}
    (ho : o ∈ outputsOf es) : (s.setHolders h es).output o = { s.output o with holder := h } := by
  induction es generalizing s with
  | nil => cases ho
  | cons x es ih =>
    have hstep : s.setHolders h (x :: es) =
        (s.setOutput x.output { s.output x.output with holder := h }).setHolders h es := rfl
    rw [hstep]
    by_cases hx : o ∈ outputsOf es
    · rw [ih _ hx, setHolders_round]
      split <;> rfl
    · obtain rfl : o = x.output := (List.mem_cons.1 ho).resolve_right hx
      rw [State.setHolders_output_not_mem _ _ _ hx, State.output_setOutput_same]

section giveUp

variable (s : State) (l : Lease)

@[simp] theorem State.giveUp_slot (i : SlotId) : (s.giveUp l).slot i = s.slot i := by simp [State.giveUp]

@[simp] theorem State.dropUser_port (o : Option EngineId) (q : Port) : (s.dropUser o).port q = s.port q := by
  cases o <;> simp [State.dropUser]

@[simp] theorem State.dropUser_touched (o : Option EngineId) : (s.dropUser o).touched = s.touched := by
  cases o <;> rfl

@[simp] theorem State.giveUp_port (q : Port) : (s.giveUp l).port q = s.port q := by simp [State.giveUp]

@[simp] theorem State.giveUp_touched : (s.giveUp l).touched = s.touched := by simp [State.giveUp]

theorem State.giveUp_output (o : OutputId) : (s.giveUp l).output o =
    if o ∈ outputsOf l.entries then { s.output o with holder := none } else s.output o := by
  rw [State.giveUp, State.dropUser_output]
  split
  · rw [State.setHolders_output_mem _ _ ‹_›]; simp
  · rw [State.setHolders_output_not_mem _ _ _ ‹_›]; simp

/-- An engine loses a user for each time that the lease counts on it (R112, R115). -/
theorem State.giveUp_engine (f : EngineId) : (s.giveUp l).engine f =
    (EngineRec.dropUser s.params.linger)^[l.countOn f] (s.engine f) := by
  have target := ((LeaseWork.refl s).dropUser l.migrationTarget).params
  have closing := (((LeaseWork.refl s).dropUser l.migrationTarget).dropUser l.closingTarget).params
  have holders := ((((LeaseWork.refl s).dropUser l.migrationTarget).dropUser l.closingTarget).setHolders none
    l.entries).params
  rw [State.giveUp, State.dropUser_engine, holders, State.setHolders_engine, State.dropUser_engine, target,
    State.dropUser_engine, l.countOn_eq]
  by_cases h1 : l.engine = some f <;> by_cases h2 : l.migrationTarget = some f <;>
    by_cases h3 : l.closingTarget = some f <;> simp [h1, h2, h3]

end giveUp

theorem State.retire_slot (s : State) (i : SlotId) (l : Lease) (j : SlotId) : (s.retire i l).slot j =
    if j = i then ⟨(s.slot i).gen, .retired l.home⟩ else s.slot j := by
  simp [State.retire, State.slot_setSlot]

theorem State.retire_raised (h : s.lease? i = some l) (ht : i ∉ s.touched) :
    s.Raised (s.retire i l) i l l.reason true :=
  (State.raise_raised h ht true).to_right (by simp [State.retire])

end Sys2Proof.Machine

/-! ## Completions reported to a lease (R36, R40, R95, R115) -/

namespace Sys2Proof.Machine

/-! ### What a report does, state by state -/

section report

variable {s : State} {i : SlotId} {l : Lease} {e : EngineId}

theorem State.outputsAll_isQuiet_iff {es : List Entry} :
    s.outputsAll isQuiet es = true ↔ ∀ x ∈ es, (s.output x.output).state = .quiet := by
  simp [State.outputsAll, isQuiet]

theorem onCompletion_unheard (hl : s.lease? i = some l)
    (hs : l.state = .pending ∨ l.state = .ready ∨ l.state = .active ∨ l.state = .failed) : onCompletion i s = s := by
  rcases hs with hs | hs | hs | hs <;> simp [onCompletion, hl, hs]

theorem onCompletion_starting (hl : s.lease? i = some l) (hs : l.state = .starting) (he : l.engine = some e) :
    onCompletion i s = if s.outputsAll (runsAt e) l.entries then s.background i l .active .started else s := by
  simp [onCompletion, hl, hs, he]

theorem onCompletion_disturbed (hl : s.lease? i = some l) (hs : l.state = .disturbed) (he : l.engine = some e) :
    onCompletion i s = if s.isLocked e && s.outputsAll (runsAt e) l.entries then s.background i l .active .relocked
      else s := by
  simp [onCompletion, hl, hs, he]

theorem onCompletion_migrating (hl : s.lease? i = some l) (hs : l.state = .migrating) :
    onCompletion i s = s.settle false i := by
  simp [onCompletion, hl, hs]

theorem onCompletion_closing (hl : s.lease? i = some l) (hs : l.state = .closing) :
    onCompletion i s = if s.outputsAll isQuiet l.entries then (s.giveUp l).retire i l else s := by
  simp [onCompletion, State.closeIfQuiet, hl, hs]

end report

/-! ### A settling, seen from the report -/

section settle

variable {s : State} {i : SlotId} {l : Lease} {m : Migration}

@[simp] theorem State.settle_outputs (s : State) (told : Bool) (i : SlotId) :
    (s.settle told i).outputs = s.outputs := by
  unfold State.settle State.tell
  repeat' split
  all_goals simp

@[simp] theorem State.settle_output (s : State) (told : Bool) (i : SlotId) (o : OutputId) :
    (s.settle told i).output o = s.output o := by
  simp only [State.output, State.settle_outputs]

theorem State.settle_engine (hl : s.lease? i = some l) (hs : l.state = .migrating) (hm : l.migration = some m)
    (hg : s.AtGoal l m) (f : EngineId) : (s.settle false i).engine f =
      if l.engine = some f then s.engineLeft m (s.engine f) else s.engine f := by
  rw [State.settle_of_atGoal hl hs hm hg, ← s.finishMigration_engine i]
  exact State.raise_engine _ _ _ _

theorem State.settle_slot {g : EngineId} (hl : s.lease? i = some l) (hs : l.state = .migrating)
    (hm : l.migration = some m) (hg : s.AtGoal l m)
    (served : (if m.mode = .overlap then m.target else l.engine) = some g)
    (hd : m.mode = .overlap → m.target ≠ l.engine) :
    (s.settle false i).slot i = ⟨(s.slot i).gen, .live (l.migrated m (s.isLocked g))⟩ := by
  rw [State.settle_of_atGoal hl hs hm hg, ← s.finishMigration_slot i served hd]
  exact State.raise_slot _ _ _ _

end settle

/-! ### A freeing, seen from the report -/

section free

variable (s : State) (i : SlotId) (l : Lease)

theorem State.giveUp_retire_raised (h : s.lease? i = some l) (ht : i ∉ s.touched) :
    s.Raised ((s.giveUp l).retire i l) i l l.reason true := by
  have hl : (s.giveUp l).lease? i = some l := by rw [State.lease?, State.giveUp_slot]; exact h
  exact (State.retire_raised hl (by simpa using ht)).of_left (by simp) (by simp)

end free

theorem State.giveUp_output_state (s : State) (l : Lease) (b : OutputId) :
    ((s.giveUp l).output b).state = (s.output b).state := by
  rw [State.giveUp_output]
  split <;> rfl

/-- A report changes no output's standing: what it writes of an output is the holder. -/
theorem onCompletion_output_state (s : State) (i : SlotId) (b : OutputId) :
    ((onCompletion i s).output b).state = (s.output b).state := by
  unfold onCompletion State.closeIfQuiet
  repeat' split
  all_goals simp [State.retire_output, State.giveUp_output_state]

/-! ### The event -/

section event

variable {s : State} {o : OutputId}

/-- The state in which a completion is reported: the output has taken its target (R78). -/
def State.completed (s : State) (o : OutputId) : State :=
  s.setOutput o { s.output o with state := (s.output o).state.complete }

theorem changeoverDone_settled (ht : s.touched = []) (h : (s.output o).state.isChanging = false) :
    exec (.changeoverDone o) s = .next s := by
  have hd : s.changeoverDone o = s := by simp [State.changeoverDone, h]
  refine congrArg Host.Outcome.next ?_
  rw [event_of_unmarked ht, hd, State.touched_self ht]

/-- A completion of an output that changes over ends in the report to its holder. -/
theorem changeoverDone_changing (h : (s.output o).state.isChanging = true) :
    s.changeoverDone o = (s.completed o).reportCompletion o := by
  rw [State.changeoverDone, if_pos h, State.completed]

theorem reportCompletion_of_holder {i : SlotId} (h : (s.output o).holder = some i) :
    (s.completed o).reportCompletion o = onCompletion i (s.completed o) := by
  simp [State.reportCompletion, State.completed, h]

/-- A report that reaches no lease changes nothing. -/
theorem reportCompletion_unheld (h : ∀ i l, (s.output o).holder = some i → s.lease? i ≠ some l) :
    (s.completed o).reportCompletion o = s.completed o := by
  cases hh : (s.output o).holder with
  | none => simp [State.reportCompletion, State.completed, hh]
  | some i =>
    have hl : (s.completed o).lease? i = none := Option.eq_none_iff_forall_ne_some.2 fun l => h i l hh
    rw [reportCompletion_of_holder hh, onCompletion, hl]

theorem OneSlot.completed (i : SlotId) : OneSlot i s (s.completed o) := (OneSlot.refl i s).setOutput o _

/-- The report reaches the slot of the output's holder alone. -/
theorem OneSlot.reportCompletion {i : SlotId} (h : (s.output o).holder = some i) :
    OneSlot i s ((s.completed o).reportCompletion o) := by
  rw [reportCompletion_of_holder h]
  exact (OneSlot.completed i).onCompletion

theorem reportCompletion_deviceNotices : ((s.completed o).reportCompletion o).deviceNotices = s.deviceNotices := by
  cases h : (s.output o).holder with
  | none => rw [reportCompletion_unheld (by simp [h])]; rfl
  | some i => exact (OneSlot.reportCompletion h).deviceNotices

theorem reportCompletion_slotKept {j : SlotId} (hj : (s.output o).holder ≠ some j) :
    s.SlotKept ((s.completed o).reportCompletion o) j := by
  cases h : (s.output o).holder with
  | none => rw [reportCompletion_unheld (by simp [h])]; exact ⟨rfl, fun p => by simp [State.completed]⟩
  | some i =>
    have hne : j ≠ i := fun hji => hj (hji ▸ h)
    exact ⟨(OneSlot.reportCompletion h).slots j hne, fun p => (OneSlot.reportCompletion h).notices p j hne⟩

theorem reportCompletion_output_state (b : OutputId) :
    (((s.completed o).reportCompletion o).output b).state = ((s.completed o).output b).state := by
  unfold State.reportCompletion
  split
  · exact onCompletion_output_state ..
  · rfl

end event

/-! ### What the lease reported to becomes -/

section lease

variable {s : State} {i : SlotId} {l : Lease} {e : EngineId}

/-- A lease that a completion takes to ACTIVE: nothing but its slot and its notice changes. -/
theorem State.background_effect (s : State) (ht : i ∉ s.touched) (k : Lease) (st : LeaseState) (r : Reason) :
    (s.background i k st r).outputs = s.outputs ∧ (s.background i k st r).engines = s.engines ∧
      s.Raised (s.background i k st r) i k r false ∧
      (s.background i k st r).slot i = ⟨(s.slot i).gen, .live { k with state := st, reason := r }⟩ :=
  ⟨by simp, by simp, State.background_raised ht k st r, by simp⟩

theorem onCompletion_closing_quiet (hl : s.lease? i = some l) (hs : l.state = .closing) (ht : i ∉ s.touched)
    (hq : ∀ x ∈ l.entries, (s.output x.output).state = .quiet) :
    (onCompletion i s).slot i = ⟨(s.slot i).gen, .retired l.home⟩ ∧
      s.Raised (onCompletion i s) i l l.reason true ∧
      (∀ x ∈ l.entries, (onCompletion i s).output x.output = ⟨none, .quiet⟩) ∧
      (∀ b, b ∉ outputsOf l.entries → (onCompletion i s).output b = s.output b) ∧
      ∀ f, (onCompletion i s).engine f = (EngineRec.dropUser s.params.linger)^[l.countOn f] (s.engine f) := by
  rw [onCompletion_closing hl hs, if_pos (State.outputsAll_isQuiet_iff.2 hq)]
  refine ⟨by simp [State.retire_slot], s.giveUp_retire_raised i l hl ht, fun x hx => ?_, fun b hb => ?_, fun f => ?_⟩
  · have hmem : x.output ∈ outputsOf l.entries := List.mem_map_of_mem hx
    rw [State.retire_output, State.giveUp_output, if_pos hmem, ← hq x hx]
  · rw [State.retire_output, State.giveUp_output, if_neg hb]
  · rw [State.retire_engine, State.giveUp_engine]

end lease

/-- Settles O43: a completion is the output's write and one report, read off by the state of the lease reported to. -/
theorem completionTakesTarget : Obligations.CompletionTakesTarget := by
  intro s o ht
  refine ⟨changeoverDone_settled ht, fun source target waiting h => ?_⟩
  have changing : (s.output o).state.isChanging = true := by rw [h]; rfl
  have hrun : exec (.changeoverDone o) s = .next { (s.completed o).reportCompletion o with touched := [] } := by
    rw [← changeoverDone_changing changing, ← event_of_unmarked ht]
    rfl
  have work := ((LeaseWork.refl s).changeoverDone o).touched []
  rw [changeoverDone_changing changing] at work
  have unmarked : (s.completed o).touched = [] := ht
  refine ⟨_, s.completed o, hrun, work, reportCompletion_deviceNotices, ?_, reportCompletion_output_state,
    fun hno => ?_, fun j hj => ?_, fun i l hi hl => ?_⟩
  · rw [State.completed, h]
    cases waiting with
    | some w => rfl
    | none => cases target <;> rfl
  · rw [reportCompletion_unheld hno, State.touched_self unmarked]
  · obtain ⟨slot, notices⟩ := reportCompletion_slotKept hj
    exact ⟨slot, fun p => by simpa using notices p⟩
  rw [reportCompletion_of_holder hi]
  have lease : (s.completed o).lease? i = some l := hl
  have same (hw : onCompletion i (s.completed o) = s.completed o) :
      ({ onCompletion i (s.completed o) with touched := [] } : State) = s.completed o := by
    rw [hw, State.touched_self unmarked]
  have fresh : i ∉ (s.completed o).touched := by simp [unmarked]
  have raised {r : Reason} {closed : Bool}
      (hr : (s.completed o).Raised (onCompletion i (s.completed o)) i l r closed) :
      s.Raised { onCompletion i (s.completed o) with touched := [] } i l r closed :=
    (hr.to_right (by simp)).of_left (by simp [State.completed]) (by simp [State.completed])
  have activated {r : Reason} (hw : onCompletion i (s.completed o) = (s.completed o).background i l .active r) :
      (onCompletion i (s.completed o)).outputs = (s.completed o).outputs ∧
      (onCompletion i (s.completed o)).engines = s.engines ∧
      s.Raised { onCompletion i (s.completed o) with touched := [] } i l r false ∧
      (onCompletion i (s.completed o)).slot i = ⟨(s.slot i).gen, .live { l with state := .active, reason := r }⟩ := by
    obtain ⟨outputs, engines, notice, slot⟩ := hw ▸ (s.completed o).background_effect fresh l .active r
    exact ⟨outputs, engines, raised notice, slot⟩
  refine ⟨fun hs => same (onCompletion_unheard lease hs), fun e hs he => ?starting, fun e hs he => ?disturbed,
    fun m hs hm => ?migrating, fun hs => ?closing⟩
  case starting =>
    have hw := onCompletion_starting lease hs he
    refine ⟨fun hall => activated (hw.trans (if_pos (State.outputsAll_runsAt.2 hall))),
      fun ⟨x, hx, hne⟩ => same (hw.trans (if_neg fun hall => hne (State.outputsAll_runsAt.1 hall x hx)))⟩
  case disturbed =>
    have hw := onCompletion_disturbed lease hs he
    refine ⟨fun hlock hall => activated (hw.trans (if_pos ?_)), fun hno => same (hw.trans (if_neg ?_))⟩
    · exact Bool.and_eq_true_iff.2 ⟨decide_eq_true hlock, State.outputsAll_runsAt.2 hall⟩
    · rw [Bool.and_eq_true_iff]
      rintro ⟨hlock, hall⟩
      rcases hno with hno | ⟨x, hx, hne⟩
      · exact hno (of_decide_eq_true hlock)
      · exact hne (State.outputsAll_runsAt.1 hall x hx)
  case migrating =>
    have hw := onCompletion_migrating lease hs
    refine ⟨fun hg => same (hw.trans (State.settle_of_not_atGoal lease hm hg false)), fun g hg served hd => ?_⟩
    rw [hw] at raised ⊢
    refine ⟨State.settle_outputs _ _ _, raised (State.settle_raised lease hs hm hg fresh),
      State.settle_slot lease hs hm hg served hd, fun f => ?_⟩
    refine (State.settle_engine lease hs hm hg f).trans ?_
    unfold State.engineLeft
    cases m.mode <;> rfl
  case closing =>
    refine ⟨fun ⟨x, hx, hne⟩ => same ((onCompletion_closing lease hs).trans
      (if_neg fun hall => hne (State.outputsAll_isQuiet_iff.1 hall x hx))), fun hall => ?_⟩
    obtain ⟨slot, notice, given, kept, engines⟩ := onCompletion_closing_quiet lease hs fresh hall
    refine ⟨slot, raised notice, given, kept, fun e he => ?_, fun e he => ?_⟩
    · exact (engines e).trans (by rw [he]; rfl)
    · exact (engines e).trans (by rw [he]; rfl)

end Sys2Proof.Machine

/-! ## Loops over slots, round by round

A loop whose round for one slot leaves the others alone: each round runs on its slot as the loop found it, and the loop
ends with the slot as its round left it. -/

namespace Sys2Proof.Machine

/-! ### Rounds -/

section rounds

/-- The rounds of a loop over `xs` from `s`: `G` holds throughout, and a round leaves to each other slot what `R` asks.
-/
def Rounds (G : State → Prop) (R : SlotId → State → State → Prop) (f : SlotId → State → State) (xs : List SlotId)
    (s : State) : Prop :=
  ∀ i ∈ xs, ∀ u, G u → R i s u → G (f i u) ∧ ∀ j, j ≠ i → R j u (f i u)

/-- What the loop does to slot `i`: its round runs on a state `u` that left the slot alone, as do the rounds after. -/
def Visited (G : State → Prop) (R : SlotId → State → State → Prop) (f : SlotId → State → State) (s t : State)
    (i : SlotId) : Prop :=
  ∃ u, G u ∧ R i s u ∧ R i (f i u) t

variable {G : State → Prop} {R : SlotId → State → State → Prop} {f : SlotId → State → State} {xs : List SlotId}
  {s : State} {x : SlotId}

theorem Rounds.tail (trans : ∀ j s t u, R j s t → R j t u → R j s u) (h : Rounds G R f (x :: xs) s)
    (hx : x ∉ xs) (hR : ∀ j, j ≠ x → R j s (f x s)) : Rounds G R f xs (f x s) := fun i hi u hu hr =>
  h i (List.mem_cons_of_mem x hi) u hu (trans i _ _ _ (hR i fun hix => hx (hix ▸ hi)) hr)

theorem forEach_rounds (refl : ∀ j s, R j s s) (trans : ∀ j s t u, R j s t → R j t u → R j s u) (hn : xs.Nodup)
    (h : Rounds G R f xs s) (hG : G s) : G (forEach xs f s) ∧ (∀ j ∉ xs, R j s (forEach xs f s)) ∧
      ∀ i ∈ xs, Visited G R f s (forEach xs f s) i := by
  induction xs generalizing s with
  | nil => exact ⟨hG, fun j _ => refl j s, by simp⟩
  | cons x xs ih =>
    obtain ⟨hx, hxs⟩ := List.nodup_cons.1 hn
    obtain ⟨hG', hR⟩ := h x List.mem_cons_self s hG (refl x s)
    obtain ⟨final, away, visited⟩ := ih hxs (h.tail trans hx hR) hG'
    refine ⟨final, fun j hj => ?_, fun i hi => ?_⟩
    · obtain ⟨hjx, hj⟩ := not_or.1 (mt List.mem_cons.2 hj)
      exact trans j _ _ _ (hR j hjx) (away j hj)
    · rcases List.mem_cons.1 hi with rfl | hi
      · exact ⟨s, hG, refl i s, away i hx⟩
      · obtain ⟨u, hu, before, after⟩ := visited i hi
        exact ⟨u, hu, trans i _ _ _ (hR i fun hix => hx (hix ▸ hi)) before, after⟩

/-- What every round keeps, given what the loop makes of its slot in the end, the loop keeps. -/
theorem forEach_rounds_view {β : Type} (view : State → β) (refl : ∀ j s, R j s s)
    (trans : ∀ j s t u, R j s t → R j t u → R j s u) (hn : xs.Nodup) (h : Rounds G R f xs s) (hG : G s)
    (keep : ∀ i ∈ xs, ∀ u, G u → R i s u → R i (f i u) (forEach xs f s) → view (f i u) = view u) :
    view (forEach xs f s) = view s := by
  induction xs generalizing s with
  | nil => rfl
  | cons x xs ih =>
    obtain ⟨hx, hxs⟩ := List.nodup_cons.1 hn
    obtain ⟨hG', hR⟩ := h x List.mem_cons_self s hG (refl x s)
    have rest := h.tail trans hx hR
    have first := keep x List.mem_cons_self s hG (refl x s) ((forEach_rounds refl trans hxs rest hG').2.1 x hx)
    refine (ih hxs rest hG' fun i hi u hu before after => ?_).trans first
    exact keep i (List.mem_cons_of_mem x hi) u hu (trans i _ _ _ (hR i fun hix => hx (hix ▸ hi)) before) after

end rounds

/-! ### A slot that is left alone -/

/-- Slot `j` keeps its record, its notices, its mark and the outputs that it holds. -/
structure SlotLeft (j : SlotId) (s t : State) : Prop where
  slot : t.slot j = s.slot j
  notices : ∀ p, (t.port p).notices[j] = (s.port p).notices[j]
  touched : j ∈ t.touched ↔ j ∈ s.touched
  output : ∀ o, (s.output o).holder = some j → t.output o = s.output o

namespace SlotLeft

variable {i j : SlotId} {s t u v : State} {l : Lease} {r : Reason} {closed : Bool}

theorem refl (j : SlotId) (s : State) : SlotLeft j s s := ⟨rfl, fun _ => rfl, Iff.rfl, fun _ _ => rfl⟩

theorem trans (h : SlotLeft j s t) (k : SlotLeft j t u) : SlotLeft j s u where
  slot := k.slot.trans h.slot
  notices p := (k.notices p).trans (h.notices p)
  touched := k.touched.trans h.touched
  output o ho := (k.output o (h.output o ho ▸ ho)).trans (h.output o ho)

theorem lease (h : SlotLeft j s t) : t.lease? j = s.lease? j := by
  unfold State.lease?
  rw [h.slot]

theorem kept (h : SlotLeft j s t) : s.SlotKept t j := ⟨h.slot, h.notices⟩

/-- What one sound operation on another slot leaves. -/
theorem of_oneSlot {X : EngineId → Prop} {q : Option EngineId} (hs : s.SoundBut q) (h : OneSlot i s t)
    (k : SoundFrom X q i s t) (hj : j ≠ i) : SlotLeft j s t where
  slot := h.slots j hj
  notices p := h.notices p j hj
  touched := h.touched j hj
  output o ho := by
    obtain ⟨l, hl, hmem⟩ := hs.holders.held o j ho
    exact k.output j hj l hl o hmem

/-- A raise for the slot, between states that leave the slot alone. -/
theorem raised (before : SlotLeft i s u) (hr : u.Raised v i l r closed) (after : SlotLeft i v t) :
    s.Raised t i l r closed :=
  (hr.of_left before.notices (by rw [before.slot])).to_right after.notices

/-- A round that keeps its slot, between states that leave the slot alone. -/
theorem around (before : SlotLeft i s u) (kept : u.SlotKept v i) (after : SlotLeft i v t) : s.SlotKept t i :=
  ⟨after.slot.trans (kept.1.trans before.slot), fun p =>
    (after.notices p).trans ((kept.2 p).trans (before.notices p))⟩

section listed

variable {o : OutputId} (holders : s.HoldersOk) (hl : s.lease? i = some l) (ho : o ∈ outputsOf l.entries)
include holders hl ho

/-- A round finds the outputs of its lease as the loop did. -/
theorem begins (before : SlotLeft i s u) : u.output o = s.output o :=
  before.output o (holders.listed i l hl o ho)

/-- The loop ends with the outputs of a lease as its round, which keeps the holders, left them. -/
theorem ends (before : SlotLeft i s u) (after : SlotLeft i v t)
    (kept : ∀ b, (v.output b).holder = (u.output b).holder) : t.output o = v.output o :=
  after.output o (by rw [kept, before.begins holders hl ho, holders.listed i l hl o ho])

end listed

end SlotLeft

end Sys2Proof.Machine

/-! ## A settling after the targets of an announcement -/

namespace Sys2Proof.Machine

section goal

variable {s t v : State} {i : SlotId} {l : Lease} {m : Migration}

/-- Whether a migration is at its goal is a matter of the lease's outputs, and in LOCAL of its engine's lock. -/
theorem State.atGoal_congr (hw : m.Wf l) (out : ∀ o ∈ outputsOf l.entries, (t.output o).state = (s.output o).state)
    (lock : m.mode = .loc → ∀ e, l.engine = some e → t.isLocked e = s.isLocked e) : t.AtGoal l m ↔ s.AtGoal l m := by
  have old : ∀ x ∈ l.entries, (t.output x.output).state = (s.output x.output).state := fun x hx =>
    out _ (List.mem_map_of_mem hx)
  have new : ∀ x ∈ m.entries, (t.output x.output).state = (s.output x.output).state := fun x hx =>
    out _ (hw.outputs ▸ List.mem_map_of_mem hx)
  unfold State.AtGoal
  cases hmode : m.mode with
  | loc =>
    refine exists_congr fun e => and_congr_right fun he => forall₂_congr fun x hx => ?_
    have hk : (t.engine e).state = .locked ↔ (s.engine e).state = .locked := by
      simpa [State.isLocked] using lock hmode e he
    rw [new x hx, ne_eq, ne_eq, hk]
  | overlap => exact exists_congr fun g => and_congr_right fun _ => forall₂_congr fun x hx => by rw [new x hx]
  | gap => exact forall₂_congr fun x hx => by rw [old x hx]

/-- A settling takes a user from an engine, or reprograms it, only as it ends an OVERLAP or GAP migration off it. -/
theorem State.settle_engine_cases (v : State) (told : Bool) (i : SlotId) (f : EngineId) :
    (v.settle told i).engine f = v.engine f ∨ ∃ l m, v.lease? i = some l ∧ l.state = .migrating ∧
      l.migration = some m ∧ l.engine = some f ∧ m.mode ≠ .loc ∧ v.AtGoal l m := by
  unfold State.settle
  split
  · exact .inl rfl
  rename_i l hl
  split
  swap
  · exact .inl rfl
  rename_i m hs hm
  split
  swap
  · exact .inl rfl
  rename_i hg
  rw [State.tell_engine, State.finishMigration_engine]
  split
  swap
  · exact .inl rfl
  rename_i he
  by_cases hmode : m.mode = .loc
  · simp [State.engineLeft, hmode]
  · exact .inr ⟨l, m, hl, hs, hm, he, hmode, (v.settled_iff_atGoal l m).1 hg⟩

/-- A settling locks no engine. -/
theorem State.settle_not_locked {e : EngineId} (h : v.isLocked e = false) (told : Bool) (i : SlotId) :
    (v.settle told i).isLocked e = false := by
  have hk : (v.engine e).state ≠ .locked := by simpa [State.isLocked] using h
  suffices ((v.settle told i).engine e).state ≠ .locked by simpa [State.isLocked] using this
  unfold State.settle
  repeat' split
  · exact hk
  · rw [State.tell_engine, State.finishMigration_engine]
    split
    · unfold State.engineLeft
      split
      · exact hk
      · exact EngineRec.dropUser_not_locked _ hk
      · simp [EngineRec.program]
    · exact hk
  · exact hk
  · exact hk

/-- A settling after another raise of the same event (R95, R160). -/
theorem State.settle_raised_again {k : Lease} {r : Reason} (hr : s.Raised v i k r false) (hl : v.lease? i = some l)
    (home : l.home = k.home) (ht : i ∈ v.touched) (hs : l.state = .migrating) (hm : l.migration = some m)
    (hg : v.AtGoal l m) : s.Raised (v.settle false i) i k .migrated false := by
  obtain ⟨st, armed, hk⟩ := v.finishMigration_lease i l m
  rw [State.settle_of_atGoal hl hs hm hg]
  exact (hr.to_right (by simp)).again hk home (by simpa using ht) false

/-- A settling leaves the outputs at their goal or not, as it finds them. -/
theorem State.settle_atGoal {told : Bool} (hl : v.lease? i = some l) (hm : l.migration = some m) :
    (v.settle told i).AtGoal l m ↔ v.AtGoal l m := by
  unfold State.AtGoal
  cases hmode : m.mode with
  | loc =>
    have engine (e : EngineId) : (v.settle told i).engine e = v.engine e := by
      refine (v.settle_engine_cases told i e).resolve_right fun ⟨k, m', hk, _, hm', _, hne, _⟩ => ?_
      cases hl.symm.trans hk
      cases hm.symm.trans hm'
      exact hne hmode
    simp only [engine, State.settle_output]
  | overlap => simp
  | gap => simp

end goal

end Sys2Proof.Machine

/-! ## A slip announced to a lease (R37, R97, R100, R105) -/

namespace Sys2Proof.Machine

/-! ### The outputs that a slip mutes -/

section mute

variable (s : State) (e : EngineId) (l : Lease) (m : Migration)

/-- A slip gives QUIET to outputs of a lease, and touches nothing else. -/
theorem State.mute_frame {β : Type} (view : State → β) (hv : ∀ o r t, view (State.setOutput t o r) = view t) :
    view (s.mute l) = view s := by
  unfold State.mute
  split
  · exact State.giveEach_frame _ _ _ view hv
  · rfl

theorem State.migrationSlip_frame {β : Type} (view : State → β)
    (hv : ∀ o r t, view (State.setOutput t o r) = view t) : view (s.migrationSlip e l m) = view s := by
  unfold State.migrationSlip
  split
  · exact s.mute_frame l view hv
  · split
    · exact State.giveEach_frame _ _ _ view hv
    · rfl
  · rfl

@[simp] theorem State.mute_slot (j : SlotId) : (s.mute l).slot j = s.slot j :=
  s.mute_frame l (State.slot · j) fun _ _ _ => rfl

@[simp] theorem State.mute_port (q : Port) : (s.mute l).port q = s.port q :=
  s.mute_frame l (State.port · q) fun _ _ _ => by simp

@[simp] theorem State.mute_engine (f : EngineId) : (s.mute l).engine f = s.engine f :=
  s.mute_frame l (State.engine · f) fun _ _ _ => rfl

@[simp] theorem State.mute_holder (o : OutputId) : ((s.mute l).output o).holder = (s.output o).holder := by
  unfold State.mute
  split <;> simp

@[simp] theorem State.migrationSlip_slot (j : SlotId) : (s.migrationSlip e l m).slot j = s.slot j :=
  s.migrationSlip_frame e l m (State.slot · j) fun _ _ _ => rfl

@[simp] theorem State.migrationSlip_port (q : Port) : (s.migrationSlip e l m).port q = s.port q :=
  s.migrationSlip_frame e l m (State.port · q) fun _ _ _ => by simp

@[simp] theorem State.migrationSlip_engine (f : EngineId) : (s.migrationSlip e l m).engine f = s.engine f :=
  s.migrationSlip_frame e l m (State.engine · f) fun _ _ _ => rfl

@[simp] theorem State.migrationSlip_touched : (s.migrationSlip e l m).touched = s.touched :=
  s.migrationSlip_frame e l m State.touched fun _ _ _ => rfl

@[simp] theorem State.migrationSlip_holder (o : OutputId) :
    ((s.migrationSlip e l m).output o).holder = (s.output o).holder := by
  unfold State.migrationSlip
  repeat' split
  all_goals simp

variable {l} {x : Entry}

/-- Under SLIP_MUTE each listed output is given QUIET (R37). -/
theorem State.mute_output (hn : (outputsOf l.entries).Nodup) (hx : x ∈ l.entries) : (s.mute l).output x.output =
    if l.flags.slipMute = true then (s.output x.output).given .quiet else s.output x.output := by
  unfold State.mute
  split
  · exact s.giveEach_output _ _ hn hx
  · rfl

/-- Under SLIP_MUTE each output of a LOCAL migration is given QUIET, and of an OVERLAP one each that heads the engine
(R97, R100). -/
theorem State.migrationSlip_output (hn : (outputsOf l.entries).Nodup) (hx : x ∈ l.entries) :
    (s.migrationSlip e l m).output x.output =
      if l.flags.slipMute = true ∧ (m.mode = .loc ∨
          (m.mode = .overlap ∧ (s.output x.output).state.heading.isOn e = true)) then
        (s.output x.output).given .quiet
      else s.output x.output := by
  unfold State.migrationSlip
  cases m.mode with
  | loc => simp [s.mute_output hn hx]
  | overlap =>
    by_cases hmute : l.flags.slipMute = true
    · simp only [hmute, if_true, s.giveEach_output _ _ hn hx, giveRec, wantQuietIfHeading]
      by_cases hon : (s.output x.output).state.heading.isOn e = true <;> simp [hon]
    · simp [hmute]
  | gap => simp

end mute

/-! ### What the announcement does, state by state -/

section announce

variable {u : State} {i : SlotId} {l : Lease} {m : Migration} {e : EngineId}

/-- A lease that does not count on the engine, or is CLOSING, hears nothing (R114). -/
theorem onSlip_unnamed (h : ∀ l, u.lease? i = some l → l.countOn e = 0 ∨ l.state = .closing) :
    onSlip e i u = u := by
  unfold onSlip
  split
  · rfl
  rename_i l hl
  split
  · rename_i hn
    have hs := (h l hl).resolve_left (SoundFrom.countOn_of_named hn).ne'
    rw [hs]
  · rfl

theorem onSlip_ready (hl : u.lease? i = some l) (he : l.engine = some e) (hs : l.state = .ready) :
    onSlip e i u = u.background i l .pending .slip := by
  simp [onSlip, hl, Lease.runsFrom, he, hs]

theorem onSlip_disturbed (hl : u.lease? i = some l) (he : l.engine = some e)
    (hs : l.state = .starting ∨ l.state = .active ∨ l.state = .disturbed) :
    onSlip e i u = (u.background i l .disturbed .slip).mute l := by
  rcases hs with hs | hs | hs <;> simp [onSlip, hl, Lease.runsFrom, he, hs]

theorem onSlip_migrating (hl : u.lease? i = some l) (hs : l.state = .migrating) (hm : l.migration = some m)
    (hn : l.engine = some e ∨ m.target = some e) :
    onSlip e i u = ((u.background i l .migrating .slip).migrationSlip e l m).settle false i := by
  have named : (l.runsFrom e || l.migratesTo e) = true := by
    simpa [Lease.runsFrom, l.migratesTo_iff, Lease.migrationTarget, hm] using hn
  simp [onSlip, hl, named, hs, hm]

/-- The slip is written and raised first, the settling after it (R97, R100). -/
theorem State.migrationSlip_lease (u : State) (l : Lease) :
    ((u.background i l .migrating .slip).migrationSlip e l m).lease? i =
      some { l with state := .migrating, reason := .slip } :=
  (SoundFrom.migrationSlip_lease _ e l m i).trans (State.background_lease _ _ _ _ _)

@[simp] theorem onSlip_holder (u : State) (e : EngineId) (i : SlotId) (o : OutputId) :
    ((onSlip e i u).output o).holder = (u.output o).holder := by
  unfold onSlip; repeat' split
  all_goals simp

/-- A slip touches no engine, or checks the migration of a lease. -/
theorem onSlip_engines_or_settle (u : State) (e : EngineId) (i : SlotId) :
    (∀ f, (onSlip e i u).engine f = u.engine f) ∨ ∃ l m, u.lease? i = some l ∧ l.state = .migrating ∧
      l.migration = some m ∧
      onSlip e i u = ((u.background i l .migrating .slip).migrationSlip e l m).settle false i := by
  unfold onSlip
  split
  · exact .inl fun _ => rfl
  rename_i l hl
  split
  swap
  · exact .inl fun _ => rfl
  split
  case h_5 hs =>
    split
    · rename_i m hm
      exact .inr ⟨l, m, hl, hs, hm, rfl⟩
    · exact .inl fun _ => rfl
  all_goals exact .inl fun _ => by simp

/-- A slip touches an engine only as it ends an OVERLAP or GAP migration off it. -/
theorem onSlip_engine_cases (u : State) (e : EngineId) (i : SlotId) (f : EngineId) :
    (onSlip e i u).engine f = u.engine f ∨ ∃ l m, u.lease? i = some l ∧ l.state = .migrating ∧
      l.migration = some m ∧ l.engine = some f ∧ m.mode ≠ .loc ∧ (onSlip e i u).AtGoal l m := by
  rcases onSlip_engines_or_settle u e i with h | ⟨l, m, hl, hs, hm, h⟩
  · exact .inl (h f)
  rw [h]
  refine (State.settle_engine_cases _ false i f).imp (fun hf => hf.trans (by simp)) fun ⟨k, m', hk, hs', hm', hf⟩ => ?_
  cases (State.migrationSlip_lease u l).symm.trans hk
  cases hm.symm.trans hm'
  obtain ⟨he, hmode, hg⟩ := hf
  exact ⟨l, m, hl, hs, hm, he, hmode, (State.settle_atGoal hk hm).2 hg⟩

theorem onSlip_not_locked (h : u.isLocked e = false) (i : SlotId) : (onSlip e i u).isLocked e = false := by
  rcases onSlip_engines_or_settle u e i with hf | ⟨l, m, -, -, -, hw⟩
  · rwa [State.isLocked, hf e]
  · rw [hw]
    exact State.settle_not_locked (by simpa [State.isLocked] using h) false i

/-- A READY lease waits again; one that is STARTING, ACTIVE or DISTURBED is DISTURBED and muted (R37). -/
theorem onSlip_plain_effect (hl : u.lease? i = some l) (ht : i ∉ u.touched) (hn : (outputsOf l.entries).Nodup)
    (he : l.engine = some e)
    (hs : l.state = .ready ∨ l.state = .starting ∨ l.state = .active ∨ l.state = .disturbed) :
    (onSlip e i u).slot i = ⟨(u.slot i).gen, .live { l with
      state := if l.state = .ready then .pending else .disturbed, reason := .slip }⟩ ∧
    (∀ x ∈ l.entries, (onSlip e i u).output x.output =
      if l.state ≠ .ready ∧ l.flags.slipMute = true then (u.output x.output).given .quiet else u.output x.output) ∧
    u.Raised (onSlip e i u) i l .slip false := by
  rcases hs with hs | hs
  · rw [onSlip_ready hl he hs]
    exact ⟨by simp [hs], fun x _ => by simp [hs], State.background_raised ht l _ _⟩
  · have ready : l.state ≠ .ready := by rcases hs with hs | hs | hs <;> simp [hs]
    rw [onSlip_disturbed hl he hs]
    refine ⟨by simp [ready], fun x hx => ?_, (State.background_raised ht l .disturbed _).to_right (by simp)⟩
    simp [State.mute_output _ hn hx, ready]

/-- A MIGRATING lease is muted as its mode asks, and settles only where that leaves its outputs at their goal (R97,
R100). -/
theorem onSlip_migrating_effect (hl : u.lease? i = some l) (ht : i ∉ u.touched) (hw : l.Wf) 
    (hs : l.state = .migrating) (hm : l.migration = some m) (hn : l.engine = some e ∨ m.target = some e)
    (hk : u.isLocked e = false) :
    (∀ x ∈ l.entries, (onSlip e i u).output x.output =
      if l.flags.slipMute = true ∧ (m.mode = .loc ∨
          (m.mode = .overlap ∧ (u.output x.output).state.heading.isOn e = true)) then
        (u.output x.output).given .quiet
      else u.output x.output) ∧
    (¬(onSlip e i u).AtGoal l m → (onSlip e i u).slot i = ⟨(u.slot i).gen, .live { l with reason := .slip }⟩ ∧
      u.Raised (onSlip e i u) i l .slip false) ∧
    ((onSlip e i u).AtGoal l m → m.mode = .loc →
      (onSlip e i u).slot i = ⟨(u.slot i).gen, .live (l.migrated m false)⟩ ∧
      u.Raised (onSlip e i u) i l .migrated false) := by
  rw [onSlip_migrating hl hs hm hn]
  have lease := State.migrationSlip_lease (i := i) (e := e) (m := m) u l
  have touched : i ∈ ((u.background i l .migrating .slip).migrationSlip e l m).touched := by
    simpa using u.background_touched i l .migrating .slip
  have outputs := fun x (hx : x ∈ l.entries) =>
    (u.background i l .migrating .slip).migrationSlip_output e m hw.entries.nodup hx
  have slot : ((u.background i l .migrating .slip).migrationSlip e l m).slot i =
      ⟨(u.slot i).gen, .live { l with state := .migrating, reason := .slip }⟩ := by simp
  have notice : u.Raised ((u.background i l .migrating .slip).migrationSlip e l m) i l .slip false :=
    (State.background_raised ht l .migrating .slip).to_right (by simp)
  have unlocked : ((u.background i l .migrating .slip).migrationSlip e l m).isLocked e = false := by
    simpa [State.isLocked] using hk
  generalize (u.background i l .migrating .slip).migrationSlip e l m = v at *
  rw [← hs] at lease slot
  have engine (hmode : m.mode = .loc) : l.engine = some e := hn.resolve_right fun ht => by
    rw [hw.target_none hm (by simp [hmode])] at ht
    cases ht
  have goal : (v.settle false i).AtGoal l m ↔ v.AtGoal l m :=
    State.settle_atGoal (l := { l with reason := .slip }) lease hm
  refine ⟨fun x hx => ?_, fun hg => ?_, fun hg hmode => ?_⟩
  · rw [State.settle_output, outputs x hx, State.background_output]
  · rw [State.settle_of_not_atGoal lease hm (fun h => hg (goal.2 h))]
    exact ⟨slot, notice⟩
  · have hg := goal.1 hg
    refine ⟨?_, State.settle_raised_again notice lease rfl touched hs hm hg⟩
    rw [State.settle_slot (g := e) lease hs hm hg (by simp [hmode, engine hmode]) (by simp [hmode]), slot, unlocked]
    rfl

end announce

end Sys2Proof.Machine

/-! ## The announcement of a slip -/

namespace Sys2Proof.Machine

section unmarked

variable {s t : State} {i : SlotId} {l : Lease} {r : Reason} {closed : Bool}

/-- What the end of an event, which clears the marks, leaves. -/
theorem State.SlotKept.unmarked (h : s.SlotKept t i) : s.SlotKept { t with touched := [] } i := by
  obtain ⟨slot, notices⟩ := h
  exact ⟨slot, fun p => by simpa using notices p⟩

theorem State.Raised.unmarked (h : s.Raised t i l r closed) : s.Raised { t with touched := [] } i l r closed :=
  h.to_right (by simp)

theorem SlotLeft.setEngine (j : SlotId) (s : State) (e : EngineId) (x : EngineRec) : SlotLeft j s (s.setEngine e x) :=
  ⟨rfl, fun p => by simp, Iff.rfl, fun _ _ => rfl⟩

/-- A slot that is left alone is not marked where the event has not begun with a mark. -/
theorem SlotLeft.fresh (h : SlotLeft i s t) (hs : s.touched = []) : i ∉ t.touched := by
  rw [h.touched, hs]
  exact List.not_mem_nil

end unmarked

theorem forEach_deviceNotices {f : SlotId → State → State} (hf : ∀ i t, OneSlot i t (f i t)) (xs : List SlotId)
    (s : State) : (forEach xs f s).deviceNotices = s.deviceNotices :=
  forEach_frame State.deviceNotices f (fun i t => (hf i t).deviceNotices) xs s

section slip

variable {s : State} {e : EngineId}

/-- The agreement while a slip of engine `e` is announced. -/
def State.SlipHeard (e : EngineId) (u : State) : Prop := u.SoundBut none ∧ u.isLocked e = false

theorem onSlip_rounds (e : EngineId) (xs : List SlotId) (s : State) :
    Rounds (State.SlipHeard e) SlotLeft (onSlip e) xs s := by
  rintro i - u ⟨sound, unlocked⟩ -
  have work : SoundFrom (fun _ => True) none i u (onSlip e i u) :=
    (SoundFrom.refl sound).onSlip e fun _ _ _ _ _ _ _ => trivial
  exact ⟨⟨work.sound, onSlip_not_locked unlocked i⟩, fun j hj =>
    .of_oneSlot sound ((OneSlot.refl i u).onSlip e) work hj⟩

/-- The state in which a slip is announced. -/
theorem State.Sound.slipHeard (h : s.Sound) (hs : (s.engine e).state = .locked) (n : Nat) :
    (s.setEngine e ((s.engine e).slip n)).SlipHeard e := by
  have hb := h.books.engines e
  have sound := s.soundBut_none_iff.2 h
  have count := sound.books.engines e
  exact ⟨sound.setEngine e rfl (count.slip n (count.users_pos (.inr (.inl hs)))),
    by simp [State.isLocked, EngineRec.slip]⟩

end slip

/-- Settles O40: the slip is announced round by round, each on its slot as the event found it. -/
theorem slipDisturbsLeases : Obligations.SlipDisturbsLeases := by
  intro s e sound ht
  refine ⟨fun hs => ?_, fun hs => ?_⟩
  swap
  · have hw : s.lockLost e = s := by
      rcases hs with hs | hs | hs | hs <;> simp [State.lockLost, hs]
    refine congrArg Host.Outcome.next ?_
    rw [event_of_unmarked ht, hw, State.touched_self ht]
  have hw : s.lockLost e = forEach allSlots (onSlip e) (s.setEngine e ((s.engine e).slip s.params.acqLimit)) := by
    simp [State.lockLost, hs]
  have begun := sound.slipHeard hs s.params.acqLimit
  have hsound := s.soundBut_none_iff.2 sound
  generalize hs0 : s.setEngine e ((s.engine e).slip s.params.acqLimit) = s0 at hw begun
  have rounds := onSlip_rounds e allSlots s0
  obtain ⟨⟨-, unlocked⟩, -, visited⟩ := forEach_rounds SlotLeft.refl (fun _ _ _ _ => .trans) allSlots_nodup rounds begun
  have visit (i : SlotId) : ∃ u, u.SlipHeard e ∧ SlotLeft i s u ∧ SlotLeft i (onSlip e i u) (s.lockLost e) := by
    obtain ⟨u, heard, before, after⟩ := visited i (mem_allSlots i)
    exact ⟨u, heard, (hs0 ▸ SlotLeft.setEngine i s e _).trans before, hw ▸ after⟩
  have holders := sound.holders
  have mem {es : List Entry} {x : Entry} (hx : x ∈ es) : x.output ∈ outputsOf es := List.mem_map_of_mem hx
  refine ⟨{ s.lockLost e with touched := [] }, ?_, ((LeaseWork.refl s).lockLost e).touched [], ?_, fun f hf => ?_,
    fun i l hl he hst => ?_, fun i l m hl hst hm hn => ?_, fun i hi => ?_⟩
  · exact congrArg Host.Outcome.next (event_of_unmarked ht _)
  · change (s.lockLost e).deviceNotices = s.deviceNotices
    rw [hw, forEach_deviceNotices fun i u => (OneSlot.refl i u).onSlip e, ← hs0]
    rfl
  · have kept : (s.lockLost e).engine f = s0.engine f := by
      rw [hw]
      refine forEach_rounds_view (fun u => u.engine f) SlotLeft.refl (fun _ _ _ _ => .trans) allSlots_nodup rounds
        begun fun i _ u _ before after => ?_
      refine (onSlip_engine_cases u e i f).resolve_right fun ⟨l, m, hl, hst, hm, he, hmode, hg⟩ => ?_
      rw [before.lease, ← hs0] at hl
      refine (hf i l m hl hst hm he).elim hmode fun hno => hno ?_
      have hwf := sound.books.leases i l hl
      refine (State.atGoal_congr (hwf.record m hm) (fun o ho => ?_) fun hloc => absurd hloc hmode).2 hg
      have start : SlotLeft i s u := (hs0 ▸ SlotLeft.setEngine i s e _).trans before
      rw [← hw] at after
      exact congrArg OutputRec.state (start.ends holders hl ho after (onSlip_holder u e i) :)
    refine kept.trans ?_
    rw [← hs0, State.engine_setEngine]
    rfl
  · obtain ⟨u, -, before, after⟩ := visit i
    obtain ⟨slot, outputs, notice⟩ := onSlip_plain_effect (before.lease.trans hl) (before.fresh ht)
      (sound.books.leases i l hl).entries.nodup he hst
    refine ⟨?_, fun x hx => ?_, (before.raised notice after).unmarked⟩
    · rw [← before.slot, ← slot]; exact after.slot
    · refine (before.ends holders hl (mem hx) after (onSlip_holder u e i)).trans ?_
      rw [outputs x hx, before.begins holders hl (mem hx)]
  · obtain ⟨u, heard, before, after⟩ := visit i
    have hwf := sound.books.leases i l hl
    obtain ⟨outputs, away, arrived⟩ := onSlip_migrating_effect (before.lease.trans hl) (before.fresh ht) hwf hst hm hn
      heard.2
    have goal : (s.lockLost e).AtGoal l m ↔ (onSlip e i u).AtGoal l m :=
      State.atGoal_congr (hwf.record m hm) (fun o ho => congrArg OutputRec.state 
          (before.ends holders hl ho after (onSlip_holder u e i)))
        fun hmode f hf => by
          have he : l.engine = some e := hn.resolve_right fun ht => by
            rw [hwf.target_none hm (by simp [hmode])] at ht
            cases ht
          cases he.symm.trans hf
          rw [hw, unlocked, onSlip_not_locked heard.2]
    refine ⟨fun x hx => ?_, fun hg => ?_, fun hg hmode => ?_⟩
    · refine (before.ends holders hl (mem hx) after (onSlip_holder u e i)).trans ?_
      rw [outputs x hx, before.begins holders hl (mem hx)]
    · obtain ⟨slot, notice⟩ := away (mt goal.2 hg)
      exact ⟨after.slot.trans (before.slot ▸ slot), (before.raised notice after).unmarked⟩
    · obtain ⟨slot, notice⟩ := arrived (goal.1 hg) hmode
      exact ⟨after.slot.trans (before.slot ▸ slot), (before.raised notice after).unmarked⟩
  · obtain ⟨u, -, before, after⟩ := visit i
    rw [onSlip_unnamed fun l hl => hi l (before.lease ▸ hl)] at after
    have left := before.trans after
    exact ⟨left.kept.unmarked, fun l hl x hx => (left.begins holders hl (mem hx) :)⟩

end Sys2Proof.Machine

/-! ## A lock announced to a lease (R35, R39, R97, R99) -/

namespace Sys2Proof.Machine

/-! ### The targets that a lock gives -/

section given

variable (s : State) (e : EngineId) {l : Lease} {m : Migration} {x : Entry}

theorem State.giveEach_wantClock_output {es : List Entry} (hn : (outputsOf es).Nodup) (hx : x ∈ es) :
    (s.giveEach (wantClock e) es).output x.output = (s.output x.output).given (.clock e x.divider) :=
  s.giveEach_output _ _ hn hx

theorem State.giveEach_wantClockUnlessRunning_output {es : List Entry} (hn : (outputsOf es).Nodup) (hx : x ∈ es) :
    (s.giveEach (wantClockUnlessRunning e) es).output x.output =
      if (s.output x.output).state = .running e x.divider then s.output x.output
      else (s.output x.output).given (.clock e x.divider) := by
  rw [s.giveEach_output _ _ hn hx]
  by_cases h : (s.output x.output).state = .running e x.divider <;> simp [giveRec, wantClockUnlessRunning, runsAt, h]

theorem State.giveEach_wantClockUnlessHeading_output {es : List Entry} (hn : (outputsOf es).Nodup) (hx : x ∈ es) :
    (s.giveEach (wantClockUnlessHeading e) es).output x.output =
      if (s.output x.output).state.heading = .clock e x.divider then s.output x.output
      else (s.output x.output).given (.clock e x.divider) := by
  rw [s.giveEach_output _ _ hn hx]
  by_cases h : (s.output x.output).state.heading = .clock e x.divider <;> simp [giveRec, wantClockUnlessHeading, h]

theorem State.giveEach_wantClockIfHeadingQuiet_output {es : List Entry} (hn : (outputsOf es).Nodup) (hx : x ∈ es) :
    (s.giveEach (wantClockIfHeadingQuiet e) es).output x.output =
      if (s.output x.output).state.heading = .quiet then (s.output x.output).given (.clock e x.divider)
      else s.output x.output := by
  rw [s.giveEach_output _ _ hn hx]
  by_cases h : (s.output x.output).state.heading = .quiet <;> simp [giveRec, wantClockIfHeadingQuiet, h]

/-- Of a lease under migration a lock gives targets to outputs, and nothing else. -/
theorem State.migrationLocked_frame {β : Type} (view : State → β)
    (hv : ∀ o r t, view (State.setOutput t o r) = view t) : view (s.migrationLocked e l m) = view s := by
  unfold State.migrationLocked
  repeat' split
  all_goals first | rfl | exact State.giveEach_frame _ _ _ view hv

@[simp] theorem State.migrationLocked_slot (l : Lease) (m : Migration) (j : SlotId) :
    (s.migrationLocked e l m).slot j = s.slot j :=
  s.migrationLocked_frame e (State.slot · j) fun _ _ _ => rfl

@[simp] theorem State.migrationLocked_engine (l : Lease) (m : Migration) (f : EngineId) :
    (s.migrationLocked e l m).engine f = s.engine f :=
  s.migrationLocked_frame e (State.engine · f) fun _ _ _ => rfl

@[simp] theorem State.migrationLocked_port (l : Lease) (m : Migration) (q : Port) :
    (s.migrationLocked e l m).port q = s.port q :=
  s.migrationLocked_frame e (State.port · q) fun _ _ _ => by simp

@[simp] theorem State.migrationLocked_touched (l : Lease) (m : Migration) :
    (s.migrationLocked e l m).touched = s.touched :=
  s.migrationLocked_frame e State.touched fun _ _ _ => rfl

@[simp] theorem State.migrationLocked_holder (l : Lease) (m : Migration) (o : OutputId) :
    ((s.migrationLocked e l m).output o).holder = (s.output o).holder := by
  unfold State.migrationLocked
  repeat' split
  all_goals simp

/-- LOCAL: the outputs that do not run at their new divider are given it (R97). -/
theorem State.migrationLocked_loc (hn : (outputsOf m.entries).Nodup) (hmode : m.mode = .loc) (hx : x ∈ m.entries) :
    (s.migrationLocked e l m).output x.output =
      if (s.output x.output).state = .running e x.divider then s.output x.output
      else (s.output x.output).given (.clock e x.divider) := by
  simp only [State.migrationLocked, hmode]
  exact s.giveEach_wantClockUnlessRunning_output e hn hx

/-- OVERLAP, the target locking: the outputs that do not head it are given it (R99). -/
theorem State.migrationLocked_target (hn : (outputsOf m.entries).Nodup) (hmode : m.mode = .overlap)
    (ht : m.target = some e) (hx : x ∈ m.entries) : (s.migrationLocked e l m).output x.output =
      if (s.output x.output).state.heading = .clock e x.divider then s.output x.output
      else (s.output x.output).given (.clock e x.divider) := by
  simp only [State.migrationLocked, hmode, ht, if_true]
  exact s.giveEach_wantClockUnlessHeading_output e hn hx

/-- OVERLAP, the source locking: while the target is not LOCKED the outputs that head QUIET are given their listed
targets (R99). -/
theorem State.migrationLocked_source {g : EngineId} (hn : (outputsOf l.entries).Nodup) (hmode : m.mode = .overlap)
    (ht : m.target = some g) (hg : g ≠ e) (hx : x ∈ l.entries) : (s.migrationLocked e l m).output x.output =
      if (s.engine g).state ≠ .locked ∧ (s.output x.output).state.heading = .quiet then
        (s.output x.output).given (.clock e x.divider)
      else s.output x.output := by
  by_cases hk : (s.engine g).state = .locked
  · simp [State.migrationLocked, hmode, ht, hg, State.isLocked, hk]
  · simp only [State.migrationLocked, hmode, ht, Option.some.injEq, hg, if_false, Option.any_some, State.isLocked, hk,
      decide_false, Bool.false_eq_true, ne_eq, not_false_eq_true, true_and]
    exact s.giveEach_wantClockIfHeadingQuiet_output e hn hx

theorem State.migrationLocked_gap (hmode : m.mode = .gap) : s.migrationLocked e l m = s := by
  simp only [State.migrationLocked, hmode]

end given

/-! ### What the announcement does, state by state -/

section announce

variable {u : State} {i : SlotId} {l : Lease} {m : Migration} {e : EngineId} {x : Entry}

/-- A lease that does not count on the engine, or is CLOSING, hears nothing (R114). -/
theorem onLocked_unnamed (h : ∀ l, u.lease? i = some l → l.countOn e = 0 ∨ l.state = .closing) :
    onLocked e i u = u := by
  unfold onLocked
  split
  · rfl
  rename_i l hl
  split
  · rename_i hn
    have hs := (h l hl).resolve_left (SoundFrom.countOn_of_named hn).ne'
    rw [hs]
  · rfl

theorem onLocked_pending (hl : u.lease? i = some l) (he : l.engine = some e) (hs : l.state = .pending) :
    onLocked e i u = u.startPending e i l := by
  simp [onLocked, hl, Lease.runsFrom, he, hs]

theorem onLocked_disturbed (hl : u.lease? i = some l) (he : l.engine = some e) (hs : l.state = .disturbed) :
    onLocked e i u = u.relock e i l := by
  simp [onLocked, hl, Lease.runsFrom, he, hs]

theorem onLocked_migrating (hl : u.lease? i = some l) (hs : l.state = .migrating) (hm : l.migration = some m)
    (hn : l.engine = some e ∨ m.target = some e) :
    onLocked e i u = (u.migrationLocked e l m).settle false i := by
  have named : (l.runsFrom e || l.migratesTo e) = true := by
    simpa [Lease.runsFrom, l.migratesTo_iff, Lease.migrationTarget, hm] using hn
  simp [onLocked, hl, named, hs, hm]

@[simp] theorem onLocked_holder (u : State) (e : EngineId) (i : SlotId) (o : OutputId) :
    ((onLocked e i u).output o).holder = (u.output o).holder := by
  unfold onLocked State.startPending State.relock
  repeat' split
  all_goals simp

/-- A lock announced touches no engine, or checks the migration of a lease. -/
theorem onLocked_engines_or_settle (u : State) (e : EngineId) (i : SlotId) :
    (∀ f, (onLocked e i u).engine f = u.engine f) ∨ ∃ l m, u.lease? i = some l ∧ l.state = .migrating ∧
      l.migration = some m ∧ onLocked e i u = (u.migrationLocked e l m).settle false i := by
  unfold onLocked State.startPending State.relock
  split
  · exact .inl fun _ => rfl
  rename_i l hl
  split
  swap
  · exact .inl fun _ => rfl
  split
  case h_1 => exact .inl fun _ => by split <;> simp
  case h_2 => exact .inl fun _ => by split <;> simp
  case h_3 hs =>
    split
    · rename_i m hm
      exact .inr ⟨l, m, hl, hs, hm, rfl⟩
    · exact .inl fun _ => rfl
  all_goals exact .inl fun _ => rfl

/-- A lock announced touches an engine only as it ends an OVERLAP or GAP migration off it. -/
theorem onLocked_engine_cases (u : State) (e : EngineId) (i : SlotId) (f : EngineId) :
    (onLocked e i u).engine f = u.engine f ∨ ∃ l m, u.lease? i = some l ∧ l.state = .migrating ∧
      l.migration = some m ∧ l.engine = some f ∧ m.mode ≠ .loc ∧ (onLocked e i u).AtGoal l m := by
  rcases onLocked_engines_or_settle u e i with h | ⟨l, m, hl, hs, hm, h⟩
  · exact .inl (h f)
  rw [h]
  refine (State.settle_engine_cases _ false i f).imp (fun hf => hf.trans (by simp)) fun ⟨k, m', hk, hs', hm', hf⟩ => ?_
  cases ((SoundFrom.migrationLocked_lease u e l m i).trans hl).symm.trans hk
  cases hm.symm.trans hm'
  obtain ⟨he, hmode, hg⟩ := hf
  exact ⟨l, m, hl, hs, hm, he, hmode, (State.settle_atGoal hk hm).2 hg⟩

/-- A PENDING lease waits for START, or starts (R35). -/
theorem onLocked_pending_effect (hl : u.lease? i = some l) (ht : i ∉ u.touched) (hn : (outputsOf l.entries).Nodup)
    (he : l.engine = some e) (hs : l.state = .pending) :
    (onLocked e i u).slot i = ⟨(u.slot i).gen, .live
      (if l.flags.heldStart = true ∧ l.armed = false then { l with state := .ready, reason := .locked }
      else { l with state := .starting, armed := false, reason := .locked })⟩ ∧
    (∀ x ∈ l.entries, (onLocked e i u).output x.output =
      if l.flags.heldStart = true ∧ l.armed = false then u.output x.output
      else (u.output x.output).given (.clock e x.divider)) ∧
    u.Raised (onLocked e i u) i l .locked false := by
  rw [onLocked_pending hl he hs]
  unfold State.startPending
  by_cases hheld : l.flags.heldStart = true ∧ l.armed = false
  · rw [if_pos (by simpa using hheld)]
    simp only [if_pos hheld]
    exact ⟨by simp, fun x _ => by simp, State.background_raised ht l _ _⟩
  · rw [if_neg (by simpa using hheld)]
    simp only [if_neg hheld]
    refine ⟨by simp, fun x hx => ?_, ?_⟩
    · rw [State.giveEach_wantClock_output _ e hn hx, State.background_output]
    · exact (State.background_raised ht { l with armed := false } .starting .locked).to_right (by simp)

/-- A DISTURBED lease is ACTIVE where its outputs all run at their listed sources; elsewhere they are given them (R39).
-/
theorem onLocked_disturbed_effect (hl : u.lease? i = some l) (ht : i ∉ u.touched) (hn : (outputsOf l.entries).Nodup)
    (he : l.engine = some e) (hs : l.state = .disturbed) :
    ((∀ x ∈ l.entries, (u.output x.output).state = .running e x.divider) →
      (onLocked e i u).slot i = ⟨(u.slot i).gen, .live { l with state := .active, reason := .relocked }⟩ ∧
      u.Raised (onLocked e i u) i l .relocked false) ∧
    ((∃ x ∈ l.entries, (u.output x.output).state ≠ .running e x.divider) → u.SlotKept (onLocked e i u) i) ∧
    ∀ x ∈ l.entries, (onLocked e i u).output x.output =
      if (u.output x.output).state = .running e x.divider then u.output x.output
      else (u.output x.output).given (.clock e x.divider) := by
  rw [onLocked_disturbed hl he hs]
  unfold State.relock
  by_cases hall : u.outputsAll (runsAt e) l.entries = true
  · rw [if_pos hall]
    have running := State.outputsAll_runsAt.1 hall
    refine ⟨fun _ => ⟨by simp, State.background_raised ht l _ _⟩, fun ⟨x, hx, hne⟩ => absurd (running x hx) hne,
      fun x hx => ?_⟩
    rw [if_pos (running x hx), State.background_output]
  · rw [if_neg hall]
    exact ⟨fun h => absurd (State.outputsAll_runsAt.2 h) hall, fun _ => ⟨by simp, fun p => by simp⟩,
      fun x hx => State.giveEach_wantClockUnlessRunning_output _ e hn hx⟩

/-- A MIGRATING lease is given the targets of its mode, and settles only where its outputs are at their goal (R97, R99).
-/
theorem onLocked_migrating_effect (hl : u.lease? i = some l) (ht : i ∉ u.touched) (hw : l.Wf)
    (hs : l.state = .migrating) (hm : l.migration = some m) (hn : l.engine = some e ∨ m.target = some e)
    (hk : u.isLocked e = true) :
    (∀ o, (onLocked e i u).output o = (u.migrationLocked e l m).output o) ∧
    (¬(onLocked e i u).AtGoal l m → u.SlotKept (onLocked e i u) i) ∧
    ((onLocked e i u).AtGoal l m → m.mode = .loc ∨ m.target = some e →
      (onLocked e i u).slot i = ⟨(u.slot i).gen, .live (l.migrated m true)⟩ ∧
      u.Raised (onLocked e i u) i l .migrated false) := by
  rw [onLocked_migrating hl hs hm hn]
  have lease := (SoundFrom.migrationLocked_lease u e l m i).trans hl
  refine ⟨fun o => State.settle_output _ _ _ _, fun hg => ?_, fun hg hgoal => ?_⟩
  · rw [State.settle_of_not_atGoal lease hm (mt (State.settle_atGoal lease hm).2 hg)]
    exact ⟨by simp, fun p => by simp⟩
  · have hg := (State.settle_atGoal lease hm).1 hg
    have served : (if m.mode = .overlap then m.target else l.engine) = some e := by
      by_cases hmode : m.mode = .overlap
      · rw [if_pos hmode]
        exact hgoal.resolve_left (by simp [hmode])
      · rw [if_neg hmode]
        exact hn.resolve_right (by simp [hw.target_none hm hmode])
    have distinct : m.mode = .overlap → m.target ≠ l.engine := fun hmode =>
      (hw.record m hm).distinct ((hw.record m hm).target.2 hmode)
    refine ⟨?_, ?_⟩
    · rw [State.settle_slot lease hs hm hg served distinct, State.migrationLocked_slot]
      simp only [State.isLocked, State.migrationLocked_engine] at hk ⊢
      rw [hk]
    · exact (State.settle_raised lease hs hm hg (by simpa using ht)).of_left (by simp) (by simp)

end announce

end Sys2Proof.Machine

/-! ## The announcement of a lock -/

namespace Sys2Proof.Machine

/-- Slot `j` is left alone, and the engines that its lease counts on stand as they did. -/
structure SlotHeld (j : SlotId) (s t : State) : Prop extends SlotLeft j s t where
  engine : ∀ f, 0 < s.countAt j f →
    (t.engine f).state = (s.engine f).state ∧ (t.engine f).reserved = (s.engine f).reserved

namespace SlotHeld

variable {i j : SlotId} {s t u : State} {l : Lease} {f : EngineId}

theorem refl (j : SlotId) (s : State) : SlotHeld j s s := ⟨.refl j s, fun _ _ => ⟨rfl, rfl⟩⟩

theorem trans (h : SlotHeld j s t) (k : SlotHeld j t u) : SlotHeld j s u where
  toSlotLeft := h.toSlotLeft.trans k.toSlotLeft
  engine f hf := by
    obtain ⟨state, reserved⟩ := h.engine f hf
    obtain ⟨state', reserved'⟩ := k.engine f (State.countAt_congr h.lease f ▸ hf)
    exact ⟨state'.trans state, reserved'.trans reserved⟩

theorem isLocked (h : SlotHeld j s t) (hl : s.lease? j = some l) (hf : 0 < l.countOn f) :
    t.isLocked f = s.isLocked f := by
  rw [State.isLocked, State.isLocked, (h.engine f (State.countAt_of_lease hl f ▸ hf)).1]

/-- A slot whose lease follows, or has yet to hear of an event, does so still. -/
theorem followsBut {B : Lease → Prop} (holders : s.HoldersOk) (h : SlotHeld j s t) (hf : s.FollowsBut B j) :
    t.FollowsBut B j := fun l hl => by
  have hl' := h.lease ▸ hl
  exact (hf l hl').imp_right fun k => k.congr
    (fun e he => h.engine e (State.countAt_of_lease hl' e ▸ Lease.countOn_pos_of_engine he))
    fun _ o ho => h.begins holders hl' ho

/-- What one sound operation on another slot leaves, where it reprograms at most an engine of that slot alone. -/
theorem of_oneSlot {q : Option EngineId} (hs : s.SoundBut q) (h : OneSlot i s t) (k : SoundFrom (s.Alone i) q i s t)
    (hj : j ≠ i) : SlotHeld j s t :=
  ⟨.of_oneSlot hs h k hj, fun _ hf => k.engine_kept hj hf⟩

end SlotHeld

section lock

variable {s : State} {e : EngineId}

theorem onLocked_rounds (holders : s.HoldersOk) (follows : ∀ i, s.FollowsBut (Lease.AwaitsLock e) i)
    (xs : List SlotId) : Rounds (State.SoundBut none) SlotHeld (onLocked e) xs s := by
  rintro i - u sound before
  have gap : u.GapIn (u.Alone i) i := sound.books.gapIn_alone (before.followsBut holders (follows i)) fun l hl => by
    simp [hl.1]
  have work := (SoundFrom.refl (X := u.Alone i) (i := i) sound).onLocked e gap
  exact ⟨work.sound, fun j hj => .of_oneSlot sound ((OneSlot.refl i u).onLocked e) work hj⟩

theorem EngineRec.mayLock_iff {x : EngineRec} : x.mayLock = true ↔
    (x.state = .acquiring ∧ x.acquisition.standing = .running) ∨ (x.state = .holdover ∧ x.relock = true) := by
  unfold EngineRec.mayLock
  cases x.state <;> simp

/-- The state in which a lock is announced. -/
theorem State.SoundRun.lockBegun (h : s.SoundRun) (hs : (s.engine e).mayLock = true) :
    (s.setEngine e (s.engine e).lock).SoundBut none ∧
      ∀ i, (s.setEngine e (s.engine e).lock).FollowsBut (Lease.AwaitsLock e) i := by
  have begun := s.running_iff.2 h
  have count := begun.sound.books.engines e
  have state : (s.engine e).state = .acquiring ∨ (s.engine e).state = .holdover :=
    (EngineRec.mayLock_iff.1 hs).imp And.left And.left
  have unlocked : s.isLocked e = false := by rcases state with hst | hst <;> simp [State.isLocked, hst]
  refine ⟨begun.sound.setEngine e rfl (count.lock (count.users_pos (state.imp_right .inr))), fun i =>
    (begun.follows i).setEngine fun l _ he hf => ?_⟩
  by_cases hp : l.state = .pending
  · exact .inl ⟨hp, he⟩
  · refine .inr (.off_lock (hf.not_onLock he unlocked) he (fun hs => absurd hs hp) fun m hm hg => ?_)
    rw [State.engine_setEngine_same]
    exact hf.reserved he hm hg

/-- A LOCAL migration keeps its engine, whether it ends or not (R97). -/
theorem State.settle_lease_loc {v : State} {i : SlotId} {l : Lease} {m : Migration} (hl : v.lease? i = some l)
    (hs : l.state = .migrating) (hm : l.migration = some m) (hmode : m.mode = .loc) :
    ∃ k, (v.settle false i).lease? i = some k ∧ k.engine = l.engine := by
  by_cases hg : v.AtGoal l m
  · obtain ⟨st, armed, hk⟩ := v.finishMigration_lease i l m
    rw [State.settle_of_atGoal hl hs hm hg, State.tell_lease]
    exact ⟨_, hk, by simp [hmode]⟩
  · rw [State.settle_of_not_atGoal hl hm hg]
    exact ⟨l, hl, rfl⟩

theorem onLocked_lease_loc {u : State} {i : SlotId} {l : Lease} {m : Migration} (hl : u.lease? i = some l)
    (hs : l.state = .migrating) (hm : l.migration = some m) (hn : l.engine = some e ∨ m.target = some e)
    (hmode : m.mode = .loc) : ∃ k, (onLocked e i u).lease? i = some k ∧ k.engine = l.engine := by
  rw [onLocked_migrating hl hs hm hn]
  exact State.settle_lease_loc ((SoundFrom.migrationLocked_lease u e l m i).trans hl) hs hm hmode

end lock

/-- Settles O39: the lock is announced round by round, each on its slot and its engines as the event found them. -/
theorem lockStartsPendingLeases : Obligations.LockStartsPendingLeases := by
  intro s e run ht
  refine ⟨fun hs => ?_, fun ha hh => ?_⟩
  swap
  · have hw : s.lockAchieved e = s := by
      have hno : ¬(s.engine e).mayLock = true := mt EngineRec.mayLock_iff.1 (not_or.2 ⟨ha, hh⟩)
      rw [State.lockAchieved, if_neg hno]
    refine congrArg Host.Outcome.next ?_
    rw [event_of_unmarked ht, hw, State.touched_self ht]
  have may := EngineRec.mayLock_iff.2 hs
  have hw : s.lockAchieved e = forEach allSlots (onLocked e) (s.setEngine e (s.engine e).lock) := by
    rw [State.lockAchieved, if_pos may]
  obtain ⟨begun, follows⟩ := run.lockBegun may
  have sound := run.sound
  have holders := sound.holders
  generalize hs0 : s.setEngine e (s.engine e).lock = s0 at hw begun follows
  have start (i : SlotId) : SlotLeft i s s0 := hs0 ▸ SlotLeft.setEngine i s e _
  have locked : s0.isLocked e = true := by simp [← hs0, State.isLocked, EngineRec.lock]
  have rounds := onLocked_rounds begun.holders follows allSlots
  obtain ⟨-, -, visited⟩ := forEach_rounds SlotHeld.refl (fun _ _ _ _ => .trans) allSlots_nodup rounds begun
  have visit (i : SlotId) : ∃ u, SlotLeft i s u ∧ SlotHeld i s0 u ∧ SlotHeld i (onLocked e i u) (s.lockAchieved e) := by
    obtain ⟨u, -, before, after⟩ := visited i (mem_allSlots i)
    exact ⟨u, (start i).trans before.toSlotLeft, before, hw ▸ after⟩
  have mem {es : List Entry} {x : Entry} (hx : x ∈ es) : x.output ∈ outputsOf es := List.mem_map_of_mem hx
  refine ⟨{ s.lockAchieved e with touched := [] }, ?_, ((LeaseWork.refl s).lockAchieved e).touched [], ?_,
    fun f hf => ?_, fun i l hl hst he => ?_, fun i l hl hst he => ?_, fun i l m hl hst hm hn => ?_, fun i hi => ?_⟩
  · exact congrArg Host.Outcome.next (event_of_unmarked ht _)
  · change (s.lockAchieved e).deviceNotices = s.deviceNotices
    rw [hw, forEach_deviceNotices fun i u => (OneSlot.refl i u).onLocked e, ← hs0]
    rfl
  · have kept : (s.lockAchieved e).engine f = s0.engine f := by
      rw [hw]
      refine forEach_rounds_view (fun u => u.engine f) SlotHeld.refl (fun _ _ _ _ => .trans) allSlots_nodup rounds
        begun fun i _ u _ before after => ?_
      refine (onLocked_engine_cases u e i f).resolve_right fun ⟨l, m, hl, hst, hm, he, hmode, hg⟩ => ?_
      have left := (start i).trans before.toSlotLeft
      rw [left.lease] at hl
      refine (hf i l m hl hst hm he).elim hmode fun hno => hno ?_
      have hwf := sound.books.leases i l hl
      refine (State.atGoal_congr (hwf.record m hm) (fun o ho => ?_) fun hloc => absurd hloc hmode).2 hg
      rw [← hw] at after
      exact congrArg OutputRec.state (left.ends holders hl ho after.toSlotLeft (onLocked_holder u e i) :)
    refine kept.trans ?_
    rw [← hs0, State.engine_setEngine]
    rfl
  · obtain ⟨u, before, -, after⟩ := visit i
    obtain ⟨slot, outputs, notice⟩ := onLocked_pending_effect (before.lease.trans hl) (before.fresh ht)
      (sound.books.leases i l hl).entries.nodup he hst
    refine ⟨after.slot.trans (before.slot ▸ slot), fun x hx => ?_, (before.raised notice after.toSlotLeft).unmarked⟩
    refine (before.ends holders hl (mem hx) after.toSlotLeft (onLocked_holder u e i)).trans ?_
    rw [outputs x hx, before.begins holders hl (mem hx)]
  · obtain ⟨u, before, -, after⟩ := visit i
    obtain ⟨arrived, away, outputs⟩ := onLocked_disturbed_effect (before.lease.trans hl) (before.fresh ht)
      (sound.books.leases i l hl).entries.nodup he hst
    have found (x : Entry) (hx : x ∈ l.entries) := before.begins holders hl (mem hx)
    refine ⟨fun hall => ?_, fun ⟨x, hx, hne⟩ => ?_, fun x hx => ?_⟩
    · obtain ⟨slot, notice⟩ := arrived fun x hx => found x hx ▸ hall x hx
      exact ⟨after.slot.trans (before.slot ▸ slot), (before.raised notice after.toSlotLeft).unmarked⟩
    · exact (before.around (away ⟨x, hx, found x hx ▸ hne⟩) after.toSlotLeft).unmarked
    · refine (before.ends holders hl (mem hx) after.toSlotLeft (onLocked_holder u e i)).trans ?_
      rw [outputs x hx, found x hx]
  · obtain ⟨u, before, held, after⟩ := visit i
    have hwf := sound.books.leases i l hl
    have hrec := hwf.record m hm
    have named : 0 < l.countOn e :=
      (l.countOn_pos_iff e).2 (hn.imp_right fun ht => .inl ((Lease.migrationTarget_of_some hm).trans ht))
    have lockedAt : u.isLocked e = true := (held.isLocked ((start i).lease.trans hl) named).trans locked
    obtain ⟨outputs, away, arrived⟩ := onLocked_migrating_effect (before.lease.trans hl) (before.fresh ht) hwf hst hm hn
      lockedAt
    have final {o : OutputId} (ho : o ∈ outputsOf l.entries) :
        (s.lockAchieved e).output o = (u.migrationLocked e l m).output o :=
      (before.ends holders hl ho after.toSlotLeft (onLocked_holder u e i)).trans (outputs o)
    have listed (x : Entry) (hx : x ∈ l.entries) := before.begins holders hl (mem hx)
    have mem' {x : Entry} (hx : x ∈ m.entries) : x.output ∈ outputsOf l.entries := hrec.outputs ▸ mem hx
    have recorded (x : Entry) (hx : x ∈ m.entries) := before.begins holders hl (mem' hx)
    have goal : (s.lockAchieved e).AtGoal l m ↔ (onLocked e i u).AtGoal l m := by
      refine State.atGoal_congr hrec (fun o ho => ?_) fun hmode f hf => ?_
      · rw [final ho, outputs o]
      · obtain ⟨k, hk, hke⟩ := onLocked_lease_loc (e := e) (before.lease.trans hl) hst hm hn hmode
        exact after.isLocked hk (Lease.countOn_pos_of_engine (hke.trans hf))
    refine ⟨fun hmode x hx => ?_, fun htarget x hx => ?_, fun g hg hne x hx => ?_, fun hmode x hx => ?_, fun hg => ?_,
      fun hg hend => ?_⟩
    · refine (final (mem' hx)).trans ?_
      rw [u.migrationLocked_loc e hrec.entries.nodup hmode hx, recorded x hx]
    · have hmode : m.mode = .overlap := hrec.target.1 (by rw [htarget]; rfl)
      refine (final (mem' hx)).trans ?_
      rw [u.migrationLocked_target e hrec.entries.nodup hmode htarget hx, recorded x hx]
    · have hmode : m.mode = .overlap := hrec.target.1 (by rw [hg]; rfl)
      have counts : 0 < l.countOn g :=
        (l.countOn_pos_iff g).2 (.inr (.inl ((Lease.migrationTarget_of_some hm).trans hg)))
      have state : (u.engine g).state = (s.engine g).state := by
        have := (held.engine g (State.countAt_of_lease ((start i).lease.trans hl) g ▸ counts)).1
        rwa [← hs0, State.engine_setEngine, if_neg hne] at this
      refine (final (mem hx)).trans ?_
      rw [u.migrationLocked_source e hwf.entries.nodup hmode hg hne hx, listed x hx, state]
    · refine (final (mem hx)).trans ?_
      rw [u.migrationLocked_gap e hmode, listed x hx]
    · exact (before.around (away (mt goal.2 hg)) after.toSlotLeft).unmarked
    · obtain ⟨slot, notice⟩ := arrived (goal.1 hg) hend
      exact ⟨after.slot.trans (before.slot ▸ slot), (before.raised notice after.toSlotLeft).unmarked⟩
  · obtain ⟨u, before, -, after⟩ := visit i
    rw [onLocked_unnamed fun l hl => hi l (before.lease ▸ hl)] at after
    have left := before.trans after.toSlotLeft
    exact ⟨left.kept.unmarked, fun l hl x hx => (left.begins holders hl (mem hx) :)⟩

end Sys2Proof.Machine

/-! ## START (R34) -/

namespace Sys2Proof.Machine

section start

variable {s u : State} {p : Port} {c : HeldCommand} {i : SlotId} {l : Lease} {e : EngineId}

/-! ### One lease started -/

theorem startOne_ready (hl : u.lease? i = some l) (hs : l.state = .ready) (he : l.engine = some e) :
    u.startOne p i = ((u.setLease i { l with state := .starting }).giveEach (wantClock e) l.entries).tell
      (p = l.home) i := by
  simp [State.startOne, hl, hs, he]

theorem startOne_armed (hl : u.lease? i = some l) (hs : l.state ≠ .ready) :
    u.startOne p i = u.setLease i { l with armed := true } := by
  simp [State.startOne, hl, hs]

theorem OneSlot.startOne (u : State) (p : Port) (i : SlotId) : OneSlot i u (u.startOne p i) := by
  unfold State.startOne
  repeat' split
  · exact .refl i u
  · exact (((OneSlot.refl i u).setLease _).giveEach _ _).tell _
  · exact .refl i u
  · exact (OneSlot.refl i u).setLease _

/-- What befalls one slot changes no generation. -/
theorem OneSlot.gen_all {t : State} (h : OneSlot i s t) (j : SlotId) : (t.slot j).gen = (s.slot j).gen := by
  by_cases hj : j = i
  · exact hj ▸ h.gen
  · rw [h.slots j hj]

@[simp] theorem startOne_engines (u : State) (p : Port) (i : SlotId) : (u.startOne p i).engines = u.engines := by
  unfold State.startOne State.tell
  repeat' split
  all_goals simp

@[simp] theorem startOne_holder (u : State) (p : Port) (i : SlotId) (o : OutputId) :
    ((u.startOne p i).output o).holder = (u.output o).holder := by
  unfold State.startOne
  repeat' split
  all_goals simp

/-- START takes a READY lease to STARTING and arms a PENDING one. -/
def Lease.started (l : Lease) : Lease :=
  if l.state = .ready then { l with state := .starting } else { l with armed := true }

theorem startOne_lease (hl : u.lease? i = some l) (hw : l.Wf) :
    (u.startOne p i).lease? i = some l.started := by
  unfold Lease.started
  by_cases hs : l.state = .ready
  · obtain ⟨e, he⟩ := hw.plain_engine (hs ▸ .ready)
    rw [startOne_ready hl hs he, if_pos hs]
    simp
  · rw [startOne_armed hl hs, if_neg hs]
    simp

/-- The answer of START for one lease. -/
theorem Lease.started_state (hst : l.startable = true) :
    l.started.state.code = if l.state = .ready then LeaseState.starting.code else LeaseState.pending.code := by
  unfold Lease.started
  by_cases hs : l.state = .ready
  · simp [hs]
  · simp [((l.startable_iff.1 hst).2.resolve_left hs).1]

theorem startOne_output_mem (hl : u.lease? i = some l) (hs : l.state = .ready) (he : l.engine = some e)
    (hn : (outputsOf l.entries).Nodup) {x : Entry} (hx : x ∈ l.entries) :
    (u.startOne p i).output x.output = (u.output x.output).given (.clock e x.divider) := by
  rw [startOne_ready hl hs he, State.tell_output, State.giveEach_wantClock_output _ e hn hx, State.output_setLease]

theorem startOne_output_not_mem (hl : u.lease? i = some l) {o : OutputId}
    (ho : l.state = .ready → o ∉ outputsOf l.entries) : (u.startOne p i).output o = u.output o := by
  unfold State.startOne
  simp only [hl]
  split
  · split
    · rw [State.tell_output, State.giveEach_output_not_mem _ _ _ (ho ‹_›), State.output_setLease]
    · rfl
  · rfl

/-- START raises a notice for a lease that it starts from a port that is not its home port (R159). -/
theorem startOne_notices (hl : u.lease? i = some l) (hw : l.Wf) (ht : i ∉ u.touched) (q : Port) :
    ((u.startOne p i).port q).notices[i] =
      if l.state = .ready ∧ l.home ≠ p ∧ q = l.home then
        some (raisedNotice (u.port q).notices[i] false (u.slot i).gen l.reason false)
      else (u.port q).notices[i] := by
  by_cases hs : l.state = .ready
  · obtain ⟨e, he⟩ := hw.plain_engine (hs ▸ .ready)
    rw [startOne_ready hl hs he]
    by_cases hp : p = l.home
    · simp [State.tell, hp]
    · have lease : ((u.setLease i { l with state := .starting }).giveEach (wantClock e) l.entries).lease? i =
          some { l with state := .starting } := by simp
      simp only [State.tell, decide_eq_true_eq, if_neg hp, State.raise_notices _ _ _ lease, hs, true_and, ne_eq,
        Ne.symm hp, not_false_eq_true]
      simp [ht, State.slot_setLease]
  · rw [startOne_armed hl hs]
    simp [hs]

/-! ### The run -/

variable {hs : List Handle} {xs : List (SlotId × Lease)}

theorem runStart_accepted (hb : readStart c.body = some hs) (hx : xs.map some = hs.map s.reach)
    (ho : ∀ x ∈ xs, x.2.ownedBy c.client = true) (hst : ∀ x ∈ xs, x.2.startable = true) :
    runStart p c s =
      let t := forEach (xs.map Prod.fst) (State.startOne p) s
      .ok (replyOk t (xs.map fun x => t.stateCode x.1)) := by
  rw [runStart, bodyOf_ok hb, ok_bind, State.resolve_eq_ok_iff.2 hx, ok_bind,
    checkEach_ok (ok := fun x : SlotId × Lease => x.2.ownedBy c.client) 0 ho, ok_bind,
    checkEach_ok (ok := fun x : SlotId × Lease => x.2.startable) 0 hst, ok_bind]
  rfl

theorem State.slots_of_resolved_nodup (hb : readStart c.body = some hs) (hx : xs.map some = hs.map s.reach) :
    (xs.map Prod.fst).Nodup := by
  have hn := readStart_nodup hb
  rw [State.handles_of_resolved hx] at hn
  exact hn.of_map _

/-- The rounds of START over leases that it may act on. -/
theorem startOne_rounds {is : List SlotId} (p : Port)
    (hst : ∀ i ∈ is, ∀ l, s.lease? i = some l → l.startable = true) :
    Rounds (State.SoundBut none) SlotLeft (State.startOne p) is s := by
  intro i hi u sound before
  have work : SoundFrom (fun _ => True) none i u (u.startOne p i) :=
    (SoundFrom.refl sound).startOne p fun l hl => hst i hi l (before.lease ▸ hl)
  exact ⟨work.sound, fun j hj => .of_oneSlot sound (.startOne u p i) work hj⟩

/-- What START makes of the leases `xs`, from `s` to `t` (R34). -/
structure State.StartsEach (s : State) (p : Port) (xs : List (SlotId × Lease)) (t : State) : Prop where
  work : LeaseWork s t
  deviceNotices : t.deviceNotices = s.deviceNotices
  engines : t.engines = s.engines
  gen : ∀ i, (t.slot i).gen = (s.slot i).gen
  lease : ∀ x ∈ xs, t.lease? x.1 = some x.2.started
  outside : ∀ i, (∀ x ∈ xs, x.1 ≠ i) → SlotLeft i s t
  given : ∀ x ∈ xs, x.2.state = .ready → ∀ y ∈ x.2.entries, ∀ e, x.2.engine = some e →
    t.output y.output = (s.output y.output).given (.clock e y.divider)
  kept : ∀ o, (∀ x ∈ xs, x.2.state = .ready → o ∉ outputsOf x.2.entries) → t.output o = s.output o
  notices : ∀ x ∈ xs, ∀ q, (t.port q).notices[x.1] =
    if x.2.state = .ready ∧ x.2.home ≠ p ∧ q = x.2.home then
      some (raisedNotice (s.port q).notices[x.1] false (s.slot x.1).gen x.2.reason false)
    else (s.port q).notices[x.1]

/-- Over distinct slots each lease is started as the command found it. -/
theorem forEach_startOne (sound : s.SoundBut none) (unmarked : s.touched = []) (hn : (xs.map Prod.fst).Nodup)
    (leases : ∀ x ∈ xs, s.lease? x.1 = some x.2) (hst : ∀ x ∈ xs, x.2.startable = true) :
    s.StartsEach p xs (forEach (xs.map Prod.fst) (State.startOne p) s) := by
  have rounds : Rounds (State.SoundBut none) SlotLeft (State.startOne p) (xs.map Prod.fst) s :=
    startOne_rounds p fun i hi l hl => by
      obtain ⟨x, hm, rfl⟩ := List.mem_map.1 hi
      cases (leases x hm).symm.trans hl
      exact hst x hm
  obtain ⟨-, away, visited⟩ := forEach_rounds SlotLeft.refl (fun _ _ _ _ => .trans) hn rounds sound
  have visit {x : SlotId × Lease} (hm : x ∈ xs) : ∃ u, SlotLeft x.1 s u ∧
      SlotLeft x.1 (u.startOne p x.1) (forEach (xs.map Prod.fst) (State.startOne p) s) ∧
      u.lease? x.1 = some x.2 ∧ x.2.Wf := by
    obtain ⟨u, -, before, after⟩ := visited x.1 (List.mem_map_of_mem hm)
    exact ⟨u, before, after, before.lease.trans (leases x hm), sound.books.leases _ _ (leases x hm)⟩
  refine ⟨?work, ?device, ?engines, fun i => ?gen, fun x hm => ?lease, fun i hno => ?outside,
    fun x hm hr y hy e he => ?given, fun o hno => ?kept, fun x hm q => ?notices⟩
  case work => exact forEach_keeps (P := LeaseWork s) _ (fun i _ hu => hu.startOne p i) _ (.refl _)
  case device => exact forEach_deviceNotices (fun i u => OneSlot.startOne u p i) _ _
  case engines => exact forEach_frame State.engines _ (fun i u => startOne_engines u p i) _ _
  case gen => exact forEach_frame (fun u => (u.slot i).gen) _ (fun j u => (OneSlot.startOne u p j).gen_all i) _ _
  case lease =>
    obtain ⟨u, -, after, hl, hw⟩ := visit hm
    rw [after.lease, startOne_lease hl hw]
  case outside =>
    refine away i fun hi => ?_
    obtain ⟨x, hm, rfl⟩ := List.mem_map.1 hi
    exact hno x hm rfl
  case given =>
    obtain ⟨u, before, after, hl, hw⟩ := visit hm
    have listed : y.output ∈ outputsOf x.2.entries := List.mem_map_of_mem hy
    rw [before.ends sound.holders (leases x hm) listed after (startOne_holder u p x.1),
      startOne_output_mem hl hr he hw.entries.nodup hy, before.begins sound.holders (leases x hm) listed]
  case kept =>
    refine forEach_rounds_view (State.output · o) SlotLeft.refl (fun _ _ _ _ => .trans) hn rounds sound
      fun i hi u _ before _ => ?_
    obtain ⟨x, hm, rfl⟩ := List.mem_map.1 hi
    exact startOne_output_not_mem (before.lease.trans (leases x hm)) (hno x hm)
  case notices =>
    obtain ⟨u, before, after, hl, hw⟩ := visit hm
    rw [after.notices, startOne_notices hl hw (before.fresh unmarked), before.notices, before.slot]

end start

/-- Settles O23: the checks pass, and the leases of the list are started one by one in the state that the run sees. -/
theorem startMovesLeases : Obligations.StartMovesLeases := by
  intro s p c hs xs run h hc hb hx ho hst
  have sound : (s.seen p).SoundBut none :=
    (s.soundBut_none_iff.2 run.sound).board (((SameBoard.refl s).touched []).afterTaking p)
  have hx' : xs.map some = hs.map (s.seen p).reach := by rw [State.seen_reach, hx]
  have started := forEach_startOne (p := p) sound (State.seen_touched s p) (State.slots_of_resolved_nodup hb hx')
    (fun x hm => State.lease_of_resolved hx' hm) hst
  have hrun := runStart_accepted (p := p) hb hx' ho hst
  generalize forEach (xs.map Prod.fst) (State.startOne p) (s.seen p) = t at started hrun
  have executed : exec .start s = .next (t.answered p c .ok (xs.map fun x => t.stateCode x.1)) :=
    congrArg Host.Outcome.next (takeCode_answered h hc hrun rfl started.work.lastServed)
  have body : (xs.map fun x => t.stateCode x.1) = xs.map fun x =>
      if x.2.state = .ready then LeaseState.starting.code else LeaseState.pending.code :=
    List.map_congr_left fun x hm => by
      rw [State.stateCode, started.lease x hm]
      exact Lease.started_state (hst x hm)
  refine ⟨_, executed, body ▸ started.work.taken c .ok _, ?_, rfl, ?_, fun x hm => ?_, fun i => ?_, fun i hno => ?_,
    fun x hm hr y hy e he => ?_, fun o hno => ?_, fun q i hq => ?_, fun x hm hr hp => ?_⟩
  · rw [State.answered_deviceNotices, started.deviceNotices, State.seen_deviceNotices]
  · rw [State.answered_engines, started.engines, State.seen_engines]
  · rw [State.answered_lease, started.lease x hm, Lease.started]
  · rw [State.answered_slot, started.gen, State.seen_slot]
  · rw [State.answered_slot, (started.outside i hno).slot, State.seen_slot]
  · rw [State.answered_output, started.given x hm hr y hy e he, State.seen_output]
  · rw [State.answered_output, started.kept o hno, State.seen_output]
  · rw [State.answered_notices]
    by_cases hi : ∃ x ∈ xs, x.1 = i
    · obtain ⟨x, hm, rfl⟩ := hi
      rw [started.notices x hm, if_neg, State.seen_notices]
      rintro ⟨hr, hp, rfl⟩
      exact hp (hq x hm rfl hr rfl)
    · rw [(started.outside i fun x hm hxi => hi ⟨x, hm, hxi⟩).notices, State.seen_notices]
  · rw [State.answered_notices, started.notices x hm, if_pos ⟨hr, hp, rfl⟩, State.seen_notices, State.seen_slot]

end Sys2Proof.Machine

/-! ## The commands that read an engine, the references and the configuration -/

namespace Sys2Proof.Machine

/-- The record of an engine in a response, byte by byte (R182). -/
theorem State.engineBytes_eq (s : State) (e : EngineId) : s.engineBytes e =
    [byte e.1, if e.1 < 4 then 0x00#8 else 0x01#8, (s.engine e).state.code,
      byte (((s.engine e).plan.map Plan.n).getD 0 / 256), byte (((s.engine e).plan.map Plan.n).getD 0),
      byte (((s.engine e).plan.map Plan.d).getD 0), byte (s.engine e).users,
      (if (s.engine e).exclusive then 0x01#8 else 0x00#8) ||| (if (s.engine e).reserved then 0x02#8 else 0x00#8) |||
        (if (s.engine e).relock then 0x04#8 else 0x00#8) |||
        (if (s.engine e).kind = .relock then 0x08#8 else 0x00#8),
      (s.engine e).acquisition.standing.code, byte (s.engine e).acquisition.elapsed,
      byte (s.engine e).acquisition.limit, if (s.engine e).holdover.running then 0x01#8 else 0x00#8,
      byte ((s.engine e).holdover.elapsed / 256), byte (s.engine e).holdover.elapsed,
      if (s.engine e).linger.running then 0x01#8 else 0x00#8, byte ((s.engine e).linger.elapsed / 256),
      byte (s.engine e).linger.elapsed, byte ((s.engine e).linger.time / 256), byte (s.engine e).linger.time,
      faultCode (s.engine e).fault] := by
  have hclass : (classOf e).code = if e.1 < 4 then 0x00#8 else 0x01#8 := by
    unfold classOf
    split <;> rfl
  have hplan : planBytes (s.engine e).plan = [byte (((s.engine e).plan.map Plan.n).getD 0 / 256),
      byte (((s.engine e).plan.map Plan.n).getD 0), byte (((s.engine e).plan.map Plan.d).getD 0)] := by
    cases (s.engine e).plan <;> rfl
  have running (b : Bool) : runningCode b = if b then 0x01#8 else 0x00#8 := by cases b <;> rfl
  unfold State.engineBytes
  simp only [hclass, hplan, running, bitAt_zero, bitAt_one, bitAt_two, bitAt_three, decide_eq_true_eq]
  rfl

/-- The record of an input in a response, byte by byte (R182). -/
theorem InputRec.bytes_eq (x : InputRec) : x.bytes =
    [x.state.code,
      (if x.offset.isSome then 0x01#8 else 0x00#8) ||| (if x.strikes = 1 then 0x02#8 else 0x00#8) |||
        (if x.qualification.running then 0x04#8 else 0x00#8) ||| (if x.interval.running then 0x08#8 else 0x00#8),
      byte ((BitVec.ofInt 16 (x.offset.getD 0)).toNat / 256), byte (BitVec.ofInt 16 (x.offset.getD 0)).toNat,
      byte x.qualification.elapsed, byte x.qualification.period] := by
  unfold InputRec.bytes
  simp only [bitAt_zero, bitAt_one, bitAt_two, bitAt_three, decide_eq_true_eq]
  rfl

section reads

variable (s : State) (p : Port)

@[simp] theorem State.seen_engineBytes (e : EngineId) : (s.seen p).engineBytes e = s.engineBytes e := by
  simp only [State.engineBytes, State.seen_engine]

@[simp] theorem State.seen_referenceBytes : (s.seen p).referenceBytes = s.referenceBytes := by cases p <;> rfl

end reads

/-- Settles O12: each report is the one that its run reads in the state it sees, which the taking has not changed. -/
theorem standingQueriesReport : Obligations.StandingQueriesReport := by
  refine ⟨fun s e x hx => hx ▸ s.engineBytes_eq e, InputRec.bytes_eq, fun s p c ht => ⟨fun e hc hb => ⟨?_, ?_⟩,
    fun hc hb => ⟨?_, ?_⟩, fun hc hb => ?_, fun hc hb => ?_⟩⟩
  · rw [State.engineBytes_eq]
    rfl
  · refine congrArg _ (takeCode_reads ht hc ?_)
    rw [runQueryEngine, bodyOf_ok hb, ok_bind, State.seen_engineBytes]
    rfl
  · rw [InputRec.bytes_eq, InputRec.bytes_eq]
    rfl
  · refine congrArg _ (takeCode_reads ht hc ?_)
    rw [runQueryReference, bodyOf_ok (x := ()) (by rw [hb]; rfl), ok_bind, State.seen_referenceBytes]
    rfl
  · refine congrArg _ (takeCode_reads ht hc ?_)
    rw [runReadConfig, bodyOf_ok (x := ()) (by rw [hb]; rfl), ok_bind, State.seen_params]
    rfl
  · refine congrArg _ (takeCode_refused ht hc (d := denied .badArgument) ?_)
    rw [runReadConfig, bodyOf_error (readNothing_eq_none hb), error_bind]

/-! ## ENGINE_CLEAR -/

/-- An engine write goes unseen by the taking, and the answer hides the taking. -/
theorem State.seen_setEngine_answered (s : State) (p : Port) (e : EngineId) (x : EngineRec) (c : HeldCommand)
    (st : Status) (body : List Byte) :
    ((s.seen p).setEngine e x).answered p c st body = (s.setEngine e x).answered p c st body := by
  cases p <;> rfl

/-- Settles O20: the checks of R68 in their order, and the engine turned off. -/
theorem engineClearActsOnFaulted : Obligations.EngineClearActsOnFaulted := by
  intro s p c n ht hc hb
  refine ⟨fun h0 => ?_, fun h0 hn => ?_, fun e h0 hn => ?_⟩
  · refine congrArg _ (takeCode_refused ht hc (d := denied .supervisorOnly) ?_)
    rw [runEngineClear, supervisorOnly_error h0, error_bind]
  · have hread : readOne 6 c.body = none := by rw [hb]; exact (readFin_eq_none_iff 6 n).2 (by omega)
    refine congrArg _ (takeCode_refused ht hc (d := denied .badArgument) ?_)
    rw [runEngineClear, supervisorOnly_ok h0, ok_bind, bodyOf_error hread, error_bind]
  have hread : readOne 6 c.body = some e := by rw [hb]; exact readFin_of_toNat hn
  refine ⟨fun hs => ⟨(s.setEngine e (s.engine e).turnOff).answered p c .ok [0x00#8], (s.engine e).turnOff,
    congrArg Host.Outcome.next ?_, rfl, rfl, rfl, rfl, rfl, rfl, rfl, rfl, rfl, rfl, rfl, rfl⟩,
    fun hs => ?_⟩
  · have hrun : runEngineClear p c (s.seen p) =
        .ok (replyOk ((s.seen p).setEngine e (s.engine e).turnOff) [0x00#8]) := by
      rw [runEngineClear, supervisorOnly_ok h0, ok_bind, bodyOf_ok hread, ok_bind, State.seen_engine,
        decide_eq_true hs, ensure_true, ok_bind]
      simp only [State.engine_setEngine_same]
      rfl
    refine (takeCode_answered ht hc hrun rfl ?_).trans (s.seen_setEngine_answered p e _ c .ok _)
    exact State.seen_lastServed s p
  · refine congrArg _ (takeCode_refused ht hc (d := notFaulted (s.engine e)) ?_)
    rw [runEngineClear, supervisorOnly_ok h0, ok_bind, bodyOf_ok hread, ok_bind, State.seen_engine,
      decide_eq_false hs, ensure_false, error_bind]

/-! ## The end of a linger -/

/-- An event that raises no notice ends as its work leaves the part. -/
theorem event_of_untouched {s t : State} {f : State → State} (hs : s.touched = []) (hf : f s = t)
    (ht : t.touched = []) : event f s = t := by
  subst hf
  rw [event_of_unmarked hs, State.touched_self ht]

/-- Settles O41: both events write the engine turned off; the expiry looks at the state first. -/
theorem lingeringEngineTurnsOff : Obligations.LingeringEngineTurnsOff := by
  intro s e ht
  have ends {f : State → State} {t : State} (hf : f s = t) (h : t.touched = []) :
      Host.Outcome.next (event f s) = (.next t : Host.Outcome State Fault Refusal) :=
    congrArg Host.Outcome.next (event_of_untouched ht hf h)
  refine ⟨fun hs => ⟨(s.engine e).turnOff, rfl, ends ?_ ht, ends ?_ ht⟩, fun hs => ends ?_ ht⟩
  · exact if_pos hs
  · rw [State.lockLost, hs]
  · exact if_neg hs

end Sys2Proof.Machine

/-! ## The allocation search (R58 to R60) and what a request makes of an engine (R61) -/

namespace Sys2Proof.Machine

section passes

variable {r : AllocRequest} {x : EngineRec}

theorem EngineRec.sharable_iff : x.sharable r = true ↔
    x.plan = some r.plan ∧ x.exclusive = false ∧ x.reserved = false ∧ r.exclusive = false := by
  simp [EngineRec.sharable, and_assoc]

theorem EngineRec.inSharePass_iff : x.inSharePass r = true ↔
    x.plan = some r.plan ∧ x.exclusive = false ∧ x.reserved = false ∧
      (x.state = .lingering ∨ ((x.state = .acquiring ∨ x.state = .locked ∨ x.state = .holdover) ∧
        0 < x.users ∧ r.exclusive = false)) := by
  unfold EngineRec.inSharePass
  split <;> rename_i hs <;> simp only [hs, Bool.and_eq_true, x.sharable_iff, decide_eq_true_eq] <;> simp <;> tauto

theorem EngineRec.inFreePass_iff : x.inFreePass = true ↔ x.state = .off ∧ x.reserved = false := by
  simp [EngineRec.inFreePass]

theorem EngineRec.inReclaimPass_iff : x.inReclaimPass = true ↔ x.state = .lingering ∧ x.reserved = false := by
  simp [EngineRec.inReclaimPass]

/-- The engine is one that the request finds in one of the three passes, in use only if it is shared (R59, R60). -/
def EngineRec.CanServe (r : AllocRequest) (x : EngineRec) : Prop :=
  x.reserved = false ∧ (x.state = .off ∨ x.state = .lingering ∨ (x.state ≠ .faulted ∧ x.sharable r = true))

theorem EngineRec.CanServe.of_inSharePass (h : x.inSharePass r = true) : x.CanServe r := by
  obtain ⟨plan, exclusive, reserved, hs⟩ := x.inSharePass_iff.1 h
  refine ⟨reserved, .inr (hs.imp_right fun ⟨state, _, shared⟩ =>
    ⟨?_, x.sharable_iff.2 ⟨plan, exclusive, reserved, shared⟩⟩)⟩
  rcases state with state | state | state <;> simp [state]

theorem EngineRec.CanServe.of_inFreePass (h : x.inFreePass = true) : x.CanServe r :=
  let ⟨state, reserved⟩ := x.inFreePass_iff.1 h
  ⟨reserved, .inl state⟩

theorem EngineRec.CanServe.of_inReclaimPass (h : x.inReclaimPass = true) : x.CanServe r :=
  let ⟨state, reserved⟩ := x.inReclaimPass_iff.1 h
  ⟨reserved, .inr (.inl state)⟩

end passes

section search

variable {s : State} {r : AllocRequest} {e f : EngineId}

theorem mem_candidates : e ∈ candidates r ↔ classOf e ∈ r.classes ∧ r.excluded ≠ some e := by
  simp [candidates, allEngines]

theorem candidates_pairwise (r : AllocRequest) : (candidates r).Pairwise (· < ·) :=
  (List.pairwise_lt_finRange 6).filter _

/-- What a search of an ascending list finds is the lowest that satisfies it. -/
theorem find_lowest {n : Nat} {p : Fin n → Bool} {xs : List (Fin n)} {x : Fin n} (hxs : xs.Pairwise (· < ·))
    (h : xs.find? p = some x) : x ∈ xs ∧ p x = true ∧ ∀ y ∈ xs, y < x → p y = false := by
  obtain ⟨hx, as, bs, rfl, before⟩ := List.find?_eq_some_iff_append.1 h
  refine ⟨by simp, hx, fun y hy hlt => ?_⟩
  have after : ∀ z ∈ bs, x < z := (List.pairwise_cons.1 (List.pairwise_append.1 hxs).2.1).1
  rcases List.mem_append.1 hy with hy | hy
  · simpa using before y hy
  · rcases List.mem_cons.1 hy with rfl | hy
    · exact absurd hlt (lt_irrefl _)
    · exact absurd (hlt.trans (after y hy)) (lt_irrefl _)

/-- The search takes the lowest candidate of the first pass that any candidate satisfies (R60). -/
theorem State.search_eq_some (h : s.search r = some e) : e ∈ candidates r ∧
    (((s.engine e).inSharePass r = true ∧ ∀ f ∈ candidates r, f < e → (s.engine f).inSharePass r = false) ∨
    ((∀ f ∈ candidates r, (s.engine f).inSharePass r = false) ∧ (s.engine e).inFreePass = true ∧
      ∀ f ∈ candidates r, f < e → (s.engine f).inFreePass = false) ∨
    ((∀ f ∈ candidates r, (s.engine f).inSharePass r = false ∧ (s.engine f).inFreePass = false) ∧
      (s.engine e).inReclaimPass = true ∧
      ∀ f ∈ candidates r, f < e → (s.engine f).inReclaimPass = false)) := by
  have sorted := candidates_pairwise r
  unfold State.search at h
  dsimp only at h
  split at h
  · rename_i g hg
    cases h
    obtain ⟨mem, pass, lowest⟩ := find_lowest sorted hg
    exact ⟨mem, .inl ⟨pass, lowest⟩⟩
  rename_i noShare
  have noShare : ∀ f ∈ candidates r, (s.engine f).inSharePass r = false := by simpa using noShare
  split at h
  · rename_i g hg
    cases h
    obtain ⟨mem, pass, lowest⟩ := find_lowest sorted hg
    exact ⟨mem, .inr (.inl ⟨noShare, pass, lowest⟩)⟩
  · rename_i noFree
    have noFree : ∀ f ∈ candidates r, (s.engine f).inFreePass = false := by simpa using noFree
    obtain ⟨mem, pass, lowest⟩ := find_lowest sorted h
    exact ⟨mem, .inr (.inr ⟨fun f hf => ⟨noShare f hf, noFree f hf⟩, pass, lowest⟩)⟩

theorem State.search_eq_none_iff : s.search r = none ↔ ∀ e ∈ candidates r, (s.engine e).inSharePass r = false ∧
    (s.engine e).inFreePass = false ∧ (s.engine e).inReclaimPass = false := by
  have split {p q : EngineId → Prop} : (∀ e ∈ candidates r, p e ∧ q e) ↔
      (∀ e ∈ candidates r, p e) ∧ ∀ e ∈ candidates r, q e :=
    ⟨fun h => ⟨fun e he => (h e he).1, fun e he => (h e he).2⟩, fun h e he => ⟨h.1 e he, h.2 e he⟩⟩
  simp only [split, ← Bool.not_eq_true, ← List.find?_eq_none]
  unfold State.search
  dsimp only
  split
  · simp [*]
  · split <;> simp [*]

theorem State.search_serves (h : s.search r = some e) : (s.engine e).CanServe r := by
  obtain ⟨-, h | h | h⟩ := State.search_eq_some h
  · exact .of_inSharePass h.1
  · exact .of_inFreePass h.2.1
  · exact .of_inReclaimPass h.2.1

/-- A request pinned to an engine is answered with that engine, or not at all (R59). -/
theorem State.askPinned_eq_ok_iff : s.askPinned r f = .ok e ↔
    f = e ∧ classOf e ∈ r.classes ∧ r.excluded ≠ some e ∧ (s.engine e).CanServe r := by
  unfold State.askPinned EngineRec.CanServe
  dsimp only
  constructor
  · intro h
    split at h
    · cases h
    split at h
    · cases h
    split at h
    · cases h
      simp_all
      tauto
    split at h
    · cases h
      simp_all
    · cases h
  · rintro ⟨rfl, hc, hx, hr, hs⟩
    rcases hs with hs | hs | ⟨hs, hsh⟩ <;> simp_all

theorem State.ask_of_pin (h : r.pin = some e) : s.ask r = s.askPinned r e := by rw [State.ask, h]

theorem State.ask_eq_ok_of_no_pin (h : r.pin = none) : s.ask r = .ok e ↔ s.search r = some e := by
  rw [State.ask, h]
  cases s.search r <;> simp

theorem State.ask_eq_error_of_no_pin (h : r.pin = none) : s.ask r = .error .noEngine ↔ s.search r = none := by
  rw [State.ask, h]
  cases s.search r <;> simp

/-- An engine that answers a request can serve it (R58 to R60). -/
theorem State.ask_serves (h : s.ask r = .ok e) : classOf e ∈ r.classes ∧ r.excluded ≠ some e ∧
    (r.pin = none ∨ r.pin = some e) ∧ (s.engine e).CanServe r := by
  cases hp : r.pin with
  | none =>
    have found := (State.ask_eq_ok_of_no_pin hp).1 h
    obtain ⟨cls, excluded⟩ := mem_candidates.1 (State.search_eq_some found).1
    exact ⟨cls, excluded, .inl rfl, State.search_serves found⟩
  | some f =>
    obtain ⟨rfl, cls, excluded, serves⟩ := State.askPinned_eq_ok_iff.1 (State.ask_of_pin hp ▸ h)
    exact ⟨cls, excluded, .inr rfl, serves⟩

theorem State.askPinned_planRange (h : classOf e ∉ r.classes) : s.askPinned r e = .error .planRange := by
  simp [State.askPinned, h]

theorem State.askPinned_barred (hc : classOf e ∈ r.classes)
    (h : (s.engine e).state = .faulted ∨ (s.engine e).reserved = true ∨ r.excluded = some e) :
    s.askPinned r e = .error .engineBusy := by
  rcases h with h | h | h <;> simp [State.askPinned, hc, h]

theorem State.askPinned_unshared (hc : classOf e ∈ r.classes) (ho : (s.engine e).state ≠ .off)
    (hl : (s.engine e).state ≠ .lingering) (h : ¬(s.engine e).sharable r = true) :
    s.askPinned r e = .error .engineBusy := by
  simp [State.askPinned, hc, ho, hl, h]

end search

/-! ### One engine -/

section engine

variable {x : EngineRec} {n : Nat}

theorem EngineRec.dropUser_of_more (h : 1 < x.users) : x.dropUser n = { x with users := x.users - 1 } :=
  if_neg (by omega)

theorem EngineRec.dropUser_of_last (h : x.users = 1) :
    x.dropUser n = ({ x with users := 0 } : EngineRec).zeroUsers n :=
  if_pos (by omega)

end engine

/-- Settles O47: the cases of R59, the passes of R60 and the records of R61, R57 and R65. -/
theorem allocationAnswers : Obligations.AllocationAnswers := by
  intro s r
  refine ⟨fun e h => ?_, fun e hp => ⟨fun hc => ?_, fun hc => ⟨fun hb => ?_, fun hf hr hx => ⟨fun hs => ?_,
    fun ho hl hs => ?_⟩⟩⟩, fun hp => ⟨?_, fun e h => ?_⟩, fun e => ⟨mem_candidates, ?_⟩, fun x => ⟨x.inSharePass_iff,
    x.inFreePass_iff, x.inReclaimPass_iff, fun selected limit linger fresh hfresh => ?_⟩⟩
  · obtain ⟨cls, excluded, pin, reserved, state⟩ := State.ask_serves h
    refine ⟨cls, excluded, pin, fun hf => by simp [hf] at state, reserved, fun hs => ?_⟩
    obtain ⟨plan, exclusive, -, shared⟩ := EngineRec.sharable_iff.1
      ((state.resolve_left fun ho => by simp [ho] at hs).resolve_left fun hl => by simp [hl] at hs).2
    exact ⟨plan, exclusive, shared⟩
  · rw [State.ask_of_pin hp, State.askPinned_planRange hc]
  · rw [State.ask_of_pin hp, State.askPinned_barred hc hb]
  · rw [State.ask_of_pin hp, State.askPinned_eq_ok_iff]
    refine ⟨rfl, hc, hx, hr, hs.imp_right (Or.imp_right fun ⟨plan, exclusive, shared⟩ => ⟨hf, ?_⟩)⟩
    exact EngineRec.sharable_iff.2 ⟨plan, exclusive, hr, shared⟩
  · rw [State.ask_of_pin hp]
    refine State.askPinned_unshared hc ho hl fun hsh => ?_
    obtain ⟨plan, exclusive, -, shared⟩ := EngineRec.sharable_iff.1 hsh
    simp [plan, exclusive, shared] at hs
  · rw [State.ask_eq_error_of_no_pin hp, State.search_eq_none_iff]
  · exact (State.search_eq_some ((State.ask_eq_ok_of_no_pin hp).1 h)).2
  · unfold classOf
    split <;> simp_all
  have programmed (p : Plan) : x.program selected limit p = fresh p := by
    rw [hfresh]
    cases selected <;> rfl
  refine ⟨programmed, fun hs => ?_, fun hs hp => ?_, fun hs => ?_, EngineRec.dropUser_of_more, fun hu => ⟨fun hs hn => ?_,
    fun hs => ?_, fun hs => ?_⟩⟩
  · rw [← programmed]
    rcases hs with hs | ⟨hs, hp⟩
    · simp only [EngineRec.commit, hs]
      rfl
    · simp only [EngineRec.commit, hs, if_neg hp]
      rfl
  · simp only [EngineRec.commit, hs, if_pos hp]
    rfl
  · rcases hs with hs | hs | hs <;> simp only [EngineRec.commit, hs]
  · simp only [EngineRec.dropUser_of_last hu, EngineRec.zeroUsers, hs, if_neg hn]
  · rw [EngineRec.dropUser_of_last hu]
    rcases hs with ⟨hs, hn⟩ | hs | hs
    · simp only [EngineRec.zeroUsers, hs, if_pos hn]
      rfl
    · simp only [EngineRec.zeroUsers, hs]
      rfl
    · simp only [EngineRec.zeroUsers, hs]
      rfl
  · simp only [EngineRec.dropUser_of_last hu, EngineRec.zeroUsers, hs]

end Sys2Proof.Machine

/-! ## Engines that follow the selection

What each operation on leases, engines and outputs makes of the agreement of the engines with the selection (R45, R46,
R50, R52). The selection itself is written by its re-evaluation and by the resets alone. -/

namespace Sys2Proof.Machine

namespace State.EnginesFollow

variable {s t : State}

/-- The agreement speaks of the engine records and the selection alone. -/
theorem of_engines (h : s.EnginesFollow) (hs : t.selection = s.selection) (he : ∀ e, t.engine e = s.engine e) :
    t.EnginesFollow := fun e => by
  rw [he, hs]
  exact h e

theorem setEngine (h : s.EnginesFollow) (e : EngineId) {x : EngineRec} (hx : x.Follows s.selection.isSome) :
    (s.setEngine e x).EnginesFollow := fun f => by
  rw [State.engine_setEngine]
  split
  · exact hx
  · exact h f

/-! ### The primitive writes -/

section writes

variable (i : SlotId) (l : Lease)

theorem setLease (h : s.EnginesFollow) : (s.setLease i l).EnginesFollow := h

theorem setPort (p : Port) (x : PortState) (h : s.EnginesFollow) : (s.setPort p x).EnginesFollow :=
  h.of_engines (by simp) (by simp)

theorem tell (told : Bool) (h : s.EnginesFollow) : (s.tell told i).EnginesFollow :=
  h.of_engines ((LeaseWork.refl s).tell told i).selection (by simp)

theorem background (st : LeaseState) (r : Reason) (h : s.EnginesFollow) : (s.background i l st r).EnginesFollow :=
  h.of_engines ((LeaseWork.refl s).background i l st r).selection (by simp)

theorem giveEach (want : OutState → Entry → Option Target) (es : List Entry) (h : s.EnginesFollow) :
    (s.giveEach want es).EnginesFollow :=
  h.of_engines ((LeaseWork.refl s).giveEach want es).selection (by simp)

theorem setHolders (k : Option SlotId) (es : List Entry) (h : s.EnginesFollow) : (s.setHolders k es).EnginesFollow :=
  h.of_engines ((LeaseWork.refl s).setHolders k es).selection (by simp)

theorem retire (h : s.EnginesFollow) : (s.retire i l).EnginesFollow :=
  h.of_engines ((LeaseWork.refl s).retire i l).selection (s.retire_engine i l)

theorem freeTold (h : s.EnginesFollow) : (s.freeTold i l).EnginesFollow :=
  h.of_engines ((LeaseWork.refl s).freeTold i l).selection (s.freeTold_engine i l)

end writes

/-! ### The engine writes of leases -/

theorem dropUser (o : Option EngineId) (h : s.EnginesFollow) : (s.dropUser o).EnginesFollow := by
  cases o with
  | none => exact h
  | some e => exact h.setEngine e ((h e).dropUser _)

theorem reprogram (e : EngineId) (p : Plan) (h : s.EnginesFollow) : (s.reprogram e p).EnginesFollow :=
  h.setEngine e (.program _ _ _)

theorem commit (r : AllocRequest) (e : EngineId) (h : s.EnginesFollow) : (s.commit r e).EnginesFollow :=
  h.setEngine e ((h e).commit r _)

theorem reserve (e : EngineId) (h : s.EnginesFollow) : (s.reserve e).EnginesFollow :=
  h.setEngine e ((h e).congr rfl rfl rfl)

theorem giveUp (l : Lease) (h : s.EnginesFollow) : (s.giveUp l).EnginesFollow :=
  (((h.dropUser _).dropUser _).setHolders _ _).dropUser _

/-! ### What befalls a lease -/

section lease

variable (e : EngineId) (i : SlotId) (l : Lease) (m : Migration)

theorem enter (h : s.EnginesFollow) : (s.enter i).EnginesFollow := by
  unfold State.enter
  split
  · exact h
  split
  · exact h
  split
  · split
    · exact h
    · exact (h.setLease i _).giveEach _ _
  · exact h

theorem finishMigration (h : s.EnginesFollow) : (s.finishMigration i l m).EnginesFollow := by
  unfold State.finishMigration
  cases m.mode with
  | loc => exact h
  | overlap => exact h.dropUser l.engine
  | gap =>
    cases l.engine with
    | none => exact h
    | some f => exact h.reprogram f m.plan

theorem settle (told : Bool) (h : s.EnginesFollow) : (s.settle told i).EnginesFollow := by
  unfold State.settle
  split
  · exact h
  split
  · split
    · exact (h.finishMigration i _ _).tell i told
    · exact h
  · exact h

theorem startPending (h : s.EnginesFollow) : (s.startPending e i l).EnginesFollow := by
  unfold State.startPending
  split
  · exact h.background i l _ _
  · exact (h.background i _ _ _).giveEach _ _

theorem relock (h : s.EnginesFollow) : (s.relock e i l).EnginesFollow := by
  unfold State.relock
  split
  · exact h.background i l _ _
  · exact h.giveEach _ _

theorem migrationLocked (h : s.EnginesFollow) : (s.migrationLocked e l m).EnginesFollow :=
  h.of_engines ((LeaseWork.refl s).migrationLocked e l m).selection (by simp)

theorem mute (h : s.EnginesFollow) : (s.mute l).EnginesFollow :=
  h.of_engines ((LeaseWork.refl s).mute l).selection (by simp)

theorem migrationSlip (h : s.EnginesFollow) : (s.migrationSlip e l m).EnginesFollow :=
  h.of_engines ((LeaseWork.refl s).migrationSlip e l m).selection (by simp)

/-- An announcement writes an engine only where it ends a migration. -/
theorem onLocked (h : s.EnginesFollow) : (Machine.onLocked e i s).EnginesFollow := by
  unfold Machine.onLocked
  split
  · exact h
  split
  swap
  · exact h
  split
  · exact h.startPending e i _
  · exact h.relock e i _
  · split
    · exact (h.migrationLocked e _ _).settle i false
    · exact h
  all_goals exact h

theorem onSlip (h : s.EnginesFollow) : (Machine.onSlip e i s).EnginesFollow := by
  unfold Machine.onSlip
  split
  · exact h
  split
  swap
  · exact h
  split
  · exact h.background i _ _ _
  · exact (h.background i _ _ _).mute _
  · exact (h.background i _ _ _).mute _
  · exact (h.background i _ _ _).mute _
  · split
    · exact ((h.background i _ _ _).migrationSlip e _ _).settle i false
    · exact h
  all_goals exact h

theorem onHoldover (h : s.EnginesFollow) : (Machine.onHoldover e i s).EnginesFollow := by
  unfold Machine.onHoldover
  split
  · exact h
  split
  swap
  · exact h
  split
  · exact h.background i _ _ _
  · exact h.background i _ _ _
  · exact h.background i _ _ _
  · exact h.background i _ _ _
  · split
    · exact (h.background i _ _ _).settle i false
    · exact h
  all_goals exact h

theorem closeIfQuiet (h : s.EnginesFollow) : (s.closeIfQuiet i).EnginesFollow := by
  unfold State.closeIfQuiet
  split
  · exact h
  split
  · exact (h.giveUp _).retire i _
  · exact h

theorem endLease (told : Bool) (r : Reason) (h : s.EnginesFollow) : (s.endLease told r i l).EnginesFollow := by
  unfold State.endLease
  split
  · have given := (h.setLease i { l with reason := r }).giveUp l
    dsimp only
    split
    · exact given.freeTold i l
    · exact given.retire i _
  · exact ((h.setLease i _).tell i told).giveEach _ _

/-! ### Faults -/

theorem failLease (h : s.EnginesFollow) : (s.failLease i l).EnginesFollow := h.background i _ _ _

theorem sourceFault (h : s.EnginesFollow) : (s.sourceFault i l m).EnginesFollow := by
  have moved := h.background i { l with engine := none } .migrating .engineFault
  unfold State.sourceFault
  dsimp only
  split
  · refine settle i false ?_
    split
    · exact moved.giveEach _ _
    · exact moved
  · exact moved

theorem targetFault (h : s.EnginesFollow) : (s.targetFault i l).EnginesFollow := by
  unfold State.targetFault
  split
  · exact h.failLease i l
  dsimp only
  split
  · split
    · exact h.background i _ _ _
    · exact (h.background i _ _ _).giveEach _ _
  · exact h.background i _ _ _

theorem onFault (h : s.EnginesFollow) : (Machine.onFault e i s).EnginesFollow := by
  have dropped := h.dropUser (some e)
  have plain (l : Lease) : (if l.runsFrom e then (s.dropUser (some e)).failLease i l else s).EnginesFollow := by
    split
    · exact dropped.failLease i l
    · exact h
  unfold Machine.onFault
  split
  · exact h
  split
  · split
    · exact (dropped.setLease i _).closeIfQuiet i
    · exact h
  · split
    · exact h
    split
    · exact dropped.targetFault i _
    split
    · split
      · exact dropped.sourceFault i _ _
      · exact dropped.failLease i _
      · exact dropped.failLease i _
    · exact h
  iterate 5 exact plain _
  exact h

theorem declareFault (r : FaultReason) (h : s.EnginesFollow) : (s.declareFault e r).EnginesFollow := by
  have raised {u : State} (hu : u.EnginesFollow) : (u.raiseEngineFault e).EnginesFollow := hu
  refine raised ?_
  refine forEach_keeps (P := State.EnginesFollow) (Machine.onFault e) (fun i _ hu => hu.onFault e i) allSlots ?_
  have failed := h.setEngine e (.fail r (s.engine e))
  exact failed.of_engines ((LeaseWork.refl _).forceQuietTied e).selection (BooksBut.forceQuietTied_engine _ e)

end lease

/-! ### The events of the pool and of the outputs -/

section events

variable (e : EngineId)

/-- A lock is acted on with a reference selected alone (R45, R46, R52). -/
theorem selected_of_mayLock (h : s.EnginesFollow) (hm : (s.engine e).mayLock = true) : s.selection.isSome = true := by
  rcases EngineRec.mayLock_iff.1 hm with ⟨hs, hr⟩ | ⟨hs, hr⟩
  · have := (h e).acquiring hs
    rw [hr] at this
    by_contra hn
    simp [hn] at this
  · exact ((h e).holdover hs).symm.trans hr

theorem lockAchieved (h : s.EnginesFollow) : (s.lockAchieved e).EnginesFollow := by
  unfold State.lockAchieved
  split
  · rename_i hm
    refine forEach_keeps (P := State.EnginesFollow) (Machine.onLocked e) (fun i _ hu => hu.onLocked e i) allSlots ?_
    exact h.setEngine e (h.selected_of_mayLock e hm ▸ .lock _)
  · exact h

theorem lockLost (h : s.EnginesFollow) : (s.lockLost e).EnginesFollow := by
  unfold State.lockLost
  split
  · rename_i hs
    refine forEach_keeps (P := State.EnginesFollow) (Machine.onSlip e) (fun i _ hu => hu.onSlip e i) allSlots ?_
    have hx := h e
    have selected := hx.locked hs
    refine h.setEngine e ?_
    rw [selected] at hx ⊢
    exact hx.slip _ hs
  · exact h.setEngine e (.turnOff _)
  all_goals exact h

theorem acquisitionExpiry (h : s.EnginesFollow) : (s.acquisitionExpiry e).EnginesFollow := by
  unfold State.acquisitionExpiry
  split
  · exact h.declareFault e _
  · exact h

theorem holdoverLimitReached (h : s.EnginesFollow) : (s.holdoverLimitReached e).EnginesFollow := by
  unfold State.holdoverLimitReached
  split
  · exact h.declareFault e _
  · exact h

theorem lingerExpiry (h : s.EnginesFollow) : (s.lingerExpiry e).EnginesFollow := by
  unfold State.lingerExpiry
  split
  · exact h.setEngine e (.turnOff _)
  · exact h

theorem onCompletion (i : SlotId) (h : s.EnginesFollow) : (Machine.onCompletion i s).EnginesFollow := by
  unfold Machine.onCompletion
  split
  · exact h
  split
  · split
    · exact h.background i _ _ _
    · exact h
  · split
    · exact h.background i _ _ _
    · exact h
  · exact h.settle i false
  · exact h.closeIfQuiet i
  all_goals exact h

theorem changeoverDone (o : OutputId) (h : s.EnginesFollow) : (s.changeoverDone o).EnginesFollow := by
  have completed : (s.completed o).EnginesFollow := h
  unfold State.changeoverDone State.reportCompletion
  split
  · split
    · exact completed.onCompletion _
    · exact completed
  · exact h

/-- A tick leaves an engine's state, its relock attempt and the standing of its timers (log entry 3). -/
theorem tick (h : s.EnginesFollow) : s.tick.EnginesFollow := by
  have standing (t : AcquisitionTimer) : t.tick.standing = t.standing := by
    unfold AcquisitionTimer.tick
    split <;> rfl
  unfold State.tick
  split
  · refine of_engines (s := forEach allEngines _ s) ?_ rfl fun _ => rfl
    exact forEach_keeps (P := State.EnginesFollow) _
      (fun e u hu => hu.setEngine e (x := (u.engine e).tick _) ((hu e).congr rfl rfl (standing _))) allEngines h
  · exact h

end events

/-! ### A change of selection -/

/-- Every engine reacts to a change of selection, whatever it followed before (R50). -/
theorem announceSelection (h : ∀ e, ∃ b, (s.engine e).Follows b) : s.announceSelection.EnginesFollow := by
  have selection : s.reselected.selection = s.selection :=
    forEach_frame State.selection s.reselectOne (fun _ _ => rfl) allEngines s
  have reselected : s.reselected.EnginesFollow := fun e => by
    rw [s.reselected_engine, selection]
    obtain ⟨b, hb⟩ := h e
    exact hb.reselect _ _
  rw [s.announceSelection_eq]
  refine forEach_keeps (P := State.EnginesFollow) _ (fun e u hu => ?_) allEngines reselected
  split
  · exact forEach_keeps (P := State.EnginesFollow) (Machine.onHoldover e) (fun i _ hv => hv.onHoldover e i) allSlots hu
  · exact hu

theorem reevaluate (h : s.EnginesFollow) : s.reevaluate.EnginesFollow := by
  unfold State.reevaluate
  dsimp only
  split
  · exact h
  · exact announceSelection (s := { s with selection := s.chosen }) fun e => ⟨_, h e⟩

theorem setInput (r : RefInput) (x : InputRec) (h : s.EnginesFollow) : (s.setInput r x).EnginesFollow :=
  h.of_engines (by simp) (by simp)

theorem raiseRefInput (r : RefInput) (h : s.EnginesFollow) : (s.raiseRefInput r).EnginesFollow := by
  cases r <;> exact h

theorem updateInput (r : RefInput) (x : InputRec) (h : s.EnginesFollow) : (s.updateInput r x).EnginesFollow := by
  unfold State.updateInput
  split
  · exact h.setInput r x
  · exact ((h.setInput r x).raiseRefInput r).reevaluate

theorem retrialInput (r : RefInput) (h : s.EnginesFollow) : (s.retrialInput r).EnginesFollow := by
  unfold State.retrialInput
  dsimp only
  split
  · exact h.setInput r _
  · exact (h.setInput r _).raiseRefInput r

theorem checkHoldovers (h : s.EnginesFollow) : s.checkHoldovers.EnginesFollow := by
  refine forEach_keeps (P := State.EnginesFollow) _ (fun e u hu => ?_) allEngines h
  split
  · exact hu.declareFault e _
  · exact hu

theorem configure (ws : List ParamWrite) (h : s.EnginesFollow) : (s.configure ws).EnginesFollow := by
  have written : ({ s with params := ws.foldl Params.write s.params } : State).EnginesFollow := h
  unfold State.configure
  generalize ({ s with params := ws.foldl Params.write s.params } : State) = t at written ⊢
  have retried : (if t.params.nominal = s.params.nominal then t else t.nominalChanged).EnginesFollow := by
    split
    · exact written
    · exact ((written.retrialInput .refA).retrialInput .refB).reevaluate
  dsimp only
  generalize (if t.params.nominal = s.params.nominal then t else t.nominalChanged) = u at retried ⊢
  have selected : (if t.params.mode = s.params.mode && t.params.priority = s.params.priority then u
      else u.reevaluate).EnginesFollow := by
    split
    · exact retried
    · exact retried.reevaluate
  split
  · exact selected.checkHoldovers
  · exact selected

/-! ### The reference monitor -/

section inputs

variable (r : RefInput)

theorem activityStart (h : s.EnginesFollow) : (s.activityStart r).EnginesFollow := by
  unfold State.activityStart
  split
  · exact h.updateInput r _
  · exact h

theorem activityLoss (h : s.EnginesFollow) : (s.activityLoss r).EnginesFollow := by
  unfold State.activityLoss
  split
  · exact h.updateInput r _
  · exact h

theorem measurement (n : Nat) (h : s.EnginesFollow) : (s.measurement r n).EnginesFollow := by
  unfold State.measurement
  split
  · exact h.updateInput r _
  · exact h

theorem qualificationExpiry (h : s.EnginesFollow) : (s.qualificationExpiry r).EnginesFollow := by
  unfold State.qualificationExpiry
  split
  · exact h.updateInput r _
  · exact h

end inputs

/-! ### The lease commands -/

section commands

variable (told : Bool) (i : SlotId) (l : Lease) (r : RetuneRequest) (e : EngineId)

theorem openAccepted (p : Port) (c : ClientId) (a : OpenArgs) (cs : List EngineClass) (h : s.EnginesFollow) :
    (s.openAccepted p c a cs i e).EnginesFollow :=
  (((h.commit _ e).setLease i _).setHolders _ _).enter i

theorem startOne (p : Port) (h : s.EnginesFollow) : (s.startOne p i).EnginesFollow := by
  unfold State.startOne
  split
  · exact h
  split
  · split
    · exact ((h.setLease i _).giveEach _ _).tell i _
    · exact h
  · exact h

theorem rebind (h : s.EnginesFollow) : (s.rebind told i l r e).EnginesFollow :=
  ((((h.commit _ e).dropUser _).setLease i _).enter i).tell i told

theorem retuneLocal (h : s.EnginesFollow) : (s.retuneLocal told i l r e).EnginesFollow :=
  (((h.setLease i _).giveEach _ _).tell i told).settle i told

theorem retuneOverlap (h : s.EnginesFollow) : (s.retuneOverlap told i l r e).EnginesFollow := by
  have begun := (h.commit (r.alloc l) e).setLease i
    { l with state := .migrating, migration := some (r.migration .overlap (some e)) }
  refine settle i told (tell i told ?_)
  split
  · exact begun.giveEach _ _
  · exact begun

theorem retuneGap (h : s.EnginesFollow) : (s.retuneGap told i l r e).EnginesFollow :=
  ((((h.reserve e).setLease i _).giveEach _ _).tell i told).settle i told

theorem retuneCase {q : Reply} (h : s.EnginesFollow) (hq : s.retuneCase told i l r = .ok q) :
    q.state.EnginesFollow := by
  have gap (f : EngineId) (st : Status) (hg : s.gapOrRefuse told i l r f st = .ok q) : q.state.EnginesFollow :=
    of_bind hg fun _ k => by
      rw [← Except.ok.inj k, retuneReply_state]
      exact h.retuneGap told i l r f
  unfold State.retuneCase at hq
  split at hq
  · rwa [← Except.ok.inj hq, retuneReply_state]
  split at hq
  · split at hq
    · rw [← Except.ok.inj hq, retuneReply_state]
      exact (h.setLease i _).tell i told
    · exact of_bind hq fun f k => by
        rw [← Except.ok.inj k, retuneReply_state]
        exact h.rebind told i l r f
  split at hq
  · cases hq
  rename_i f _
  split at hq
  · rw [← Except.ok.inj hq, retuneReply_state]
    exact h.retuneLocal told i l r f
  unfold State.moveOff at hq
  split at hq
  · exact gap f _ hq
  split at hq
  · rename_i g _
    rw [← Except.ok.inj hq, retuneReply_state]
    exact h.retuneOverlap told i l r g
  · exact gap f _ hq
  · cases hq

end commands

/-! ### Frames, notices and clients -/

section ports

variable (p : Port)

theorem freeRetired (i : SlotId) (h : s.EnginesFollow) : (s.freeRetired i).EnginesFollow := by
  unfold State.freeRetired
  split
  · exact h
  · exact h
  · exact h

/-- A loop that frees some of the RETIRED slots. -/
theorem freeSome (ok : State → SlotId → Bool) (h : s.EnginesFollow) :
    (forEach allSlots (fun i u => if ok u i then u.freeRetired i else u) s).EnginesFollow := by
  refine forEach_keeps (P := State.EnginesFollow) _ (fun i u hu => ?_) allSlots h
  split
  · exact hu.freeRetired i
  · exact hu

theorem portResync (h : s.EnginesFollow) : (s.portResync p).EnginesFollow := by
  unfold State.portResync
  refine freeSome (fun u i => u.isRetiredAt p i) ?_
  split
  · exact h.setPort p _
  · exact h.setPort p _

theorem judgeResync (rest : List Byte) (h : s.EnginesFollow) : (s.judgeResync p rest).EnginesFollow := by
  unfold State.judgeResync
  split
  · exact h.setPort p _
  split
  · exact h.portResync p
  · exact h.setPort p _

theorem endFrame (x : ShiftedIn) (h : s.EnginesFollow) : (s.endFrame p x).EnginesFollow := by
  unfold State.endFrame
  split
  swap
  · exact h
  split
  swap
  · exact h.setPort p _
  rename_i f kind rest _ _
  have ended := h.setPort p { s.port p with csLow := false, frame := none, sdo := f.shifted kind rest }
  unfold State.judge
  split
  · exact ended.setPort p _
  split
  · exact ended.setPort p _
  split
  · exact ended.setPort p _
  split
  · exact ended.setPort p _
  split
  · exact ended.judgeResync p rest
  · exact ended.setPort p _

theorem chipSelectFall (h : s.EnginesFollow) : (s.chipSelectFall p).EnginesFollow := by
  unfold State.chipSelectFall
  split
  · exact h
  · exact h.setPort p _

theorem clearNotices (h : s.EnginesFollow) : (s.clearNotices p).EnginesFollow := by
  have freed := h.freeSome fun _ i => s.noticeClosed p i
  unfold State.clearNotices
  dsimp only
  split
  · exact freed.setPort p _
  · exact freed.setPort p _

theorem setMask (m : Option Byte) (h : s.EnginesFollow) : (s.setMask p m).EnginesFollow := by
  cases m with
  | none => exact h
  | some _ => exact h.setPort p _

theorem setClients (a : ClientArgs) (h : s.EnginesFollow) : (s.setClients a).EnginesFollow :=
  forEach_keeps (P := State.EnginesFollow) State.setQuota (fun _ _ hu => hu) a.quotas
    ((h.setMask .A a.maskA).setMask .B a.maskB)

theorem afterFind (o : OutputId) (h : s.EnginesFollow) : (s.afterFind o).EnginesFollow := by
  unfold State.afterFind
  split
  · exact h
  · exact h

end ports

/-! ### Resets -/

/-- An engine that is OFF, as after a reset, follows any selection (R72). -/
theorem of_blank (h : s.Blank) : s.EnginesFollow := fun e => by
  rw [h.engines]
  exact ⟨by simp [EngineRec.initial], by simp [EngineRec.initial], by simp [EngineRec.initial],
    by simp [EngineRec.initial], by simp [EngineRec.initial]⟩

theorem coldReset (s : State) : s.coldReset.EnginesFollow := of_blank s.coldReset_blank

theorem pinReset (h : s.EnginesFollow) : s.pinReset.EnginesFollow := by
  unfold State.pinReset
  split
  · exact h
  · exact coldReset s

theorem pinRelease (v : Level) (h : s.EnginesFollow) : (s.pinRelease v).EnginesFollow := by
  unfold State.pinRelease
  split
  · exact h
  · exact h

theorem oscillatorStable (h : s.EnginesFollow) : s.oscillatorStable.EnginesFollow := by
  unfold State.oscillatorStable
  split
  · exact h
  · exact h

theorem softReset {p : Port} {c : HeldCommand} {r : Reply} (hr : runSoftReset p c s = .ok r) :
    r.state.EnginesFollow := by
  rcases runSoftReset_ok hr with h | h <;> rw [h]
  · exact of_blank (s.deviceReset_blank p)
  · exact of_blank s.leaseReset_blank

/-! ### Events and takings -/

/-- The marks of an event are no part of the agreement. -/
theorem event {f : State → State} (hf : ∀ t, t.EnginesFollow → (f t).EnginesFollow) (h : s.EnginesFollow) :
    (Machine.event f s).EnginesFollow := hf _ h

/-- A taking keeps the agreement where every accepted run of its command does: a refusal writes no engine. -/
theorem taking {mine : HeldCommand → Bool} {run : Port → HeldCommand → State → Except Denial Reply}
    (hr : ∀ p c u r, run p c u = .ok r → u.EnginesFollow → r.state.EnginesFollow) (h : s.EnginesFollow) :
    (Machine.event (State.take mine run) s).EnginesFollow := by
  have h : ({ s with touched := [] } : State).EnginesFollow := h
  suffices (State.take mine run { s with touched := [] }).EnginesFollow from this
  generalize ({ s with touched := [] } : State) = s at h
  unfold State.take
  split
  · exact h
  rename_i p c _
  split
  swap
  · exact h
  have taken : (s.afterTaking p).EnginesFollow := h.setPort p _
  unfold State.respond
  split
  · split
    · rename_i r hrun
      exact (hr p c _ r hrun taken).setPort p _
    · exact taken.setPort p _
  · exact taken.setPort p _

/-! ### Accepted commands, and every command -/

theorem openLease (h : s.EnginesFollow) {p : Port} {c : HeldCommand} {r : Reply} (hr : runOpen p c s = .ok r) :
    r.state.EnginesFollow := by
  obtain ⟨a, cs, i, e, -, hk⟩ := runOpen_ok hr
  exact hk ▸ h.openAccepted i e p c.client a cs

theorem start (h : s.EnginesFollow) {p : Port} {c : HeldCommand} {r : Reply} (hr : runStart p c s = .ok r) :
    r.state.EnginesFollow := by
  obtain ⟨is, -, hk⟩ := runStart_ok hr
  exact hk ▸ forEach_keeps (P := State.EnginesFollow) (State.startOne p) (fun i _ hu => hu.startOne i p) is h

theorem retry (h : s.EnginesFollow) {p : Port} {c : HeldCommand} {r : Reply} (hr : runRetry p c s = .ok r) :
    r.state.EnginesFollow := by
  obtain ⟨told, i, l, q, cls, pin, es, e, -, hk⟩ := runRetry_ok hr
  exact hk ▸ (((h.commit q e).setLease i _).enter i).tell i told

/-- Every command leaves the engines in agreement with the selection. -/
theorem exec (i : Instr) (h : s.EnginesFollow) : ∃ t, Machine.exec i s = .next t ∧ t.EnginesFollow := by
  cases i with
  | powerOnReset v => exact ⟨_, rfl, h.event fun t _ => coldReset t⟩
  | pinResetAssert => exact ⟨_, rfl, h.event fun _ hu => hu.pinReset⟩
  | pinResetRelease v => exact ⟨_, rfl, h.event fun _ hu => hu.pinRelease v⟩
  | oscillatorStable => exact ⟨_, rfl, h.event fun _ hu => hu.oscillatorStable⟩
  | nop p rest => exact ⟨_, rfl, h.event fun _ hu => hu.endFrame p _⟩
  | commandFrame p rest => exact ⟨_, rfl, h.event fun _ hu => hu.endFrame p _⟩
  | fetch p rest => exact ⟨_, rfl, h.event fun _ hu => hu.endFrame p _⟩
  | resync p rest => exact ⟨_, rfl, h.event fun _ hu => hu.endFrame p _⟩
  | unknownFrameKind p bytes => exact ⟨_, rfl, h.event fun _ hu => hu.endFrame p _⟩
  | chipSelectFall p => exact ⟨_, rfl, h.event fun _ hu => hu.chipSelectFall p⟩
  | openLease => exact ⟨_, rfl, h.taking fun _ _ _ _ hr hu => hu.openLease hr⟩
  | start => exact ⟨_, rfl, h.taking fun _ _ _ _ hr hu => hu.start hr⟩
  | retune =>
    refine ⟨_, rfl, h.taking fun p c u r hr hu => ?_⟩
    obtain ⟨told, i, l, q, -, -, hk⟩ := runRetune_ok hr
    exact hu.retuneCase told i l q hk
  | release =>
    refine ⟨_, rfl, h.taking fun p c u r hr hu => ?_⟩
    obtain ⟨told, i, l, -, -, hk⟩ := runRelease_ok hr
    exact hk ▸ hu.endLease i l told _
  | revoke =>
    refine ⟨_, rfl, h.taking fun p c u r hr hu => ?_⟩
    obtain ⟨i, l, -, -, hk⟩ := runRevoke_ok hr
    exact hk ▸ hu.endLease i l false _
  | retry => exact ⟨_, rfl, h.taking fun _ _ _ _ hr hu => hu.retry hr⟩
  | queryLease => exact ⟨_, rfl, h.taking fun _ _ _ _ hr hu => of_bind hr fun _ k => of_bind k fun _ k => by
      cases k; exact hu⟩
  | lookupTag => exact ⟨_, rfl, h.taking fun _ _ _ _ hr hu => of_bind hr fun _ k => by
      split at k <;> cases k <;> exact hu⟩
  | listClient => exact ⟨_, rfl, h.taking fun _ _ _ _ hr hu => of_bind hr fun _ k => of_bind k fun _ k => by
      cases k; exact hu⟩
  | findOutput => exact ⟨_, rfl, h.taking fun _ _ _ _ hr hu => of_bind hr fun o k => by cases k; exact hu.afterFind o⟩
  | queryEngine => exact ⟨_, rfl, h.taking fun _ _ _ _ hr hu => of_bind hr fun _ k => by cases k; exact hu⟩
  | queryReference => exact ⟨_, rfl, h.taking fun _ _ _ _ hr hu => of_bind hr fun _ k => by cases k; exact hu⟩
  | notices => exact ⟨_, rfl, h.taking fun p _ _ _ hr hu => of_bind hr fun _ k => by
      rw [← Except.ok.inj k]; exact hu.clearNotices p⟩
  | setIrq => exact ⟨_, rfl, h.taking fun p _ _ _ hr hu => of_bind hr fun _ k => by cases k; exact hu.setPort p _⟩
  | readConfig => exact ⟨_, rfl, h.taking fun _ _ _ _ hr hu => of_bind hr fun _ k => by cases k; exact hu⟩
  | configure =>
    refine ⟨_, rfl, h.taking fun p c u r hr hu => ?_⟩
    obtain ⟨ws, hk⟩ := runConfigure_ok hr
    exact hk ▸ hu.configure ws
  | setClients => exact ⟨_, rfl, h.taking fun _ _ _ _ hr hu => of_bind hr fun _ k => of_bind k fun a k => by
      cases k; exact hu.setClients a⟩
  | handover => exact ⟨_, rfl, h.taking fun _ _ _ _ hr hu => of_bind hr fun _ k => of_bind k fun _ k => by
      cases k; exact hu⟩
  | softResetLeases => exact ⟨_, rfl, h.taking fun _ _ _ _ hr _ => softReset hr⟩
  | softResetDevice => exact ⟨_, rfl, h.taking fun _ _ _ _ hr _ => softReset hr⟩
  | engineClear =>
    refine ⟨_, rfl, h.taking fun p c u r hr hu => ?_⟩
    obtain ⟨e, -, hk⟩ := runEngineClear_ok hr
    exact hk ▸ hu.setEngine e (.turnOff _)
  | unknownCommandCode => exact ⟨_, rfl, h.taking fun _ _ _ _ hr _ => by cases hr⟩
  | lockAchieved e => exact ⟨_, rfl, h.event fun _ hu => hu.lockAchieved e⟩
  | lockLost e => exact ⟨_, rfl, h.event fun _ hu => hu.lockLost e⟩
  | acquisitionTimerExpiry e => exact ⟨_, rfl, h.event fun _ hu => hu.acquisitionExpiry e⟩
  | holdoverTimerLimit e => exact ⟨_, rfl, h.event fun _ hu => hu.holdoverLimitReached e⟩
  | lingerTimerExpiry e => exact ⟨_, rfl, h.event fun _ hu => hu.lingerExpiry e⟩
  | changeoverDone o => exact ⟨_, rfl, h.event fun _ hu => hu.changeoverDone o⟩
  | activityStart r => exact ⟨_, rfl, h.event fun _ hu => hu.activityStart r⟩
  | activityLoss r => exact ⟨_, rfl, h.event fun _ hu => hu.activityLoss r⟩
  | measurement r n => exact ⟨_, rfl, h.event fun _ hu => hu.measurement r n⟩
  | qualificationTimerExpiry r => exact ⟨_, rfl, h.event fun _ hu => hu.qualificationExpiry r⟩

end State.EnginesFollow

/-- Settles O54: each operation on an engine, and each change of the selection, keeps or restores the agreement. -/
theorem stepKeepsEnginesFollow : Obligations.StepKeepsEnginesFollow := by
  intro s t h hst
  unfold step at hst
  split at hst
  · cases hst
    exact h.tick
  · rename_i c rest _
    have waiting : ({ s with pending := rest } : State).EnginesFollow := h
    obtain ⟨u, hu, hk⟩ := waiting.exec c
    rw [hu] at hst
    cases hst
    exact hk

end Sys2Proof.Machine

/-! ## A fault applied to a lease (R102, R103, R117, R119)

What the round of one slot makes of its lease, its notices and its outputs, in a state in which the outputs tied to the
faulted engine have been forced quiet. -/

namespace Sys2Proof.Machine

/-! ### A lease that counts on the faulted engine -/

/-- The four ways in which a fault finds a lease that counts on its engine (R102, R103, R117, R119). -/
theorem Lease.Wf.fault_cases {l : Lease} {e : EngineId} (hw : l.Wf) (hc : 0 < l.countOn e) :
    (l.state = .closing ∧ (l.engine = some e ∨ l.closingTarget = some e)) ∨
    (l.state ≠ .closing ∧ l.engine = some e ∧ l.migrationTarget = none) ∨
    (∃ m g, l.state = .migrating ∧ l.migration = some m ∧ m.target = some g ∧ l.engine = some e) ∨
    ∃ m, l.state = .migrating ∧ l.migration = some m ∧ m.target = some e := by
  have named := (l.countOn_pos_iff e).1 hc
  by_cases hs : l.state = .migrating
  · obtain ⟨m, hm⟩ := hw.has_record hs
    have target := Lease.migrationTarget_of_some hm
    rw [target, hw.no_closingTarget (by simp [hs])] at named
    rcases named with he | ht | hk
    · cases hg : m.target with
      | none => exact .inr (.inl ⟨by simp [hs], he, target.trans hg⟩)
      | some g => exact .inr (.inr (.inl ⟨m, g, hs, hm, hg, he⟩))
    · exact .inr (.inr (.inr ⟨m, hs, hm, ht⟩))
    · cases hk
  have target : l.migrationTarget = none := Lease.migrationTarget_of_none (hw.no_migration hs)
  rw [target] at named
  by_cases hk : l.state = .closing
  · exact .inl ⟨hk, named.imp_right fun h => h.resolve_left (by simp)⟩
  · rw [hw.no_closingTarget hk] at named
    exact .inr (.inl ⟨hk, by simpa using named, target⟩)

section round

variable {u : State} {i : SlotId} {l : Lease} {m : Migration} {e g : EngineId}

/-- A lease that does not count on the engine hears nothing of its fault. -/
theorem onFault_unnamed (h : ∀ l, u.lease? i = some l → l.countOn e = 0) : onFault e i u = u := by
  unfold onFault
  split
  · rfl
  rename_i l hl
  have off : ¬(l.engine = some e ∨ l.migrationTarget = some e ∨ l.closingTarget = some e) := by
    rw [← l.countOn_pos_iff, h l hl]
    exact lt_irrefl 0
  obtain ⟨source, target, closing⟩ : l.runsFrom e = false ∧ l.migrationTarget ≠ some e ∧ l.closingTarget ≠ some e := by
    simpa [Lease.runsFrom, not_or] using off
  split
  case h_2 =>
    split
    · rfl
    · rename_i m hm
      rw [Lease.migrationTarget_of_some hm] at target
      simp [source, target]
  all_goals simp [source, closing]

/-! ### A lease that fails -/

/-- A lease that names the engine and has no migration target is FAILED (R117). -/
theorem onFault_fails (hl : u.lease? i = some l) (hw : l.Wf) (he : l.engine = some e) (hs : l.state ≠ .closing)
    (ht : l.migrationTarget = none) : onFault e i u = (u.dropUser (some e)).failLease i l := by
  have source : l.runsFrom e = true := decide_eq_true he
  have failed : l.state ≠ .failed := fun hf => by rw [hw.failed hf] at he; cases he
  unfold onFault
  simp only [hl]
  split
  case h_1 hc => exact absurd hc hs
  case h_2 hm =>
    obtain ⟨m, hm⟩ := hw.has_record hm
    rw [Lease.migrationTarget_of_some hm] at ht
    have mode : m.mode ≠ .overlap := fun hmode => by
      obtain ⟨g, hg, -⟩ := hw.overlap_target hm hmode
      rw [ht] at hg
      cases hg
    simp only [hm, ht, source]
    cases hmode : m.mode with
    | overlap => exact absurd hmode mode
    | loc => simp
    | gap => simp
  case h_8 hf => exact absurd hf failed
  all_goals exact if_pos source

/-- So is a lease whose migration target it is and whose source is gone (R103). -/
theorem onFault_target_alone (hl : u.lease? i = some l) (hs : l.state = .migrating) (hm : l.migration = some m)
    (ht : m.target = some e) (he : l.engine = none) : onFault e i u = (u.dropUser (some e)).failLease i l := by
  simp [onFault, hl, hs, hm, ht, State.targetFault, he]

theorem failLease_effect (ht : i ∉ u.touched) (l : Lease) :
    ((u.dropUser (some e)).failLease i l).slot i = ⟨(u.slot i).gen, .live l.failedByFault⟩ ∧
    u.Raised ((u.dropUser (some e)).failLease i l) i l .engineFault false ∧
    ∀ o, ((u.dropUser (some e)).failLease i l).output o = u.output o := by
  have fresh : i ∉ (u.dropUser (some e)).touched := by simpa using ht
  refine ⟨by simp [State.failLease, Lease.failedByFault], ?_, fun o => by simp [State.failLease]⟩
  exact State.Raised.of_left (State.background_raised fresh
    { l with engine := none, armed := false, migration := none } .failed .engineFault) (by simp) (by simp)

/-! ### An OVERLAP migration that loses its source -/

/-- The lease of an OVERLAP migration without its source (R102). -/
def State.sourceLost (e : EngineId) (i : SlotId) (l : Lease) (u : State) : State :=
  (u.dropUser (some e)).background i { l with engine := none } .migrating .engineFault

/-- The same with its outputs given the target engine, where that is LOCKED (R102). -/
def State.sentOn (e g : EngineId) (i : SlotId) (l : Lease) (m : Migration) (u : State) : State :=
  if u.isLocked g then (u.sourceLost e i l).giveEach (wantClockUnlessHeading g) m.entries else u.sourceLost e i l

theorem State.sourceLost_isLocked (hne : e ≠ g) : (u.sourceLost e i l).isLocked g = u.isLocked g := by
  simp [State.sourceLost, State.isLocked, State.dropUser_engine, hne]

theorem onFault_source (hl : u.lease? i = some l) (hw : l.Wf) (hs : l.state = .migrating) (hm : l.migration = some m)
    (hg : m.target = some g) (he : l.engine = some e) : onFault e i u = (u.sentOn e g i l m).settle false i := by
  have mode : m.mode = .overlap := (hw.record m hm).target.1 (by rw [hg]; rfl)
  have hne : e ≠ g := fun heg => (hw.record m hm).distinct (by rw [hg]; rfl) (by rw [hg, he, heg])
  have source : l.runsFrom e = true := decide_eq_true he
  have falls : onFault e i u = (u.dropUser (some e)).sourceFault i l m := by
    simp [onFault, hl, hs, hm, hg, Ne.symm hne, source, mode]
  rw [falls, State.sourceFault, hg]
  refine congrArg (State.settle false i) ?_
  unfold State.sentOn
  rw [← State.sourceLost_isLocked (u := u) (i := i) (l := l) hne]
  rfl

section sentOn

variable (u i l m e g)

theorem State.sentOn_frame {β : Type} (view : State → β) (hv : ∀ o r t, view (State.setOutput t o r) = view t) :
    view (u.sentOn e g i l m) = view (u.sourceLost e i l) := by
  unfold State.sentOn
  split
  · exact State.giveEach_frame _ _ _ view hv
  · rfl

theorem State.sentOn_lease : (u.sentOn e g i l m).lease? i =
    some { l with engine := none, state := .migrating, reason := .engineFault } :=
  (u.sentOn_frame i l m e g (State.lease? · i) fun _ _ _ => rfl).trans (by simp [State.sourceLost])

theorem State.sentOn_slot : (u.sentOn e g i l m).slot i =
    ⟨(u.slot i).gen, .live { l with engine := none, state := .migrating, reason := .engineFault }⟩ :=
  (u.sentOn_frame i l m e g (State.slot · i) fun _ _ _ => rfl).trans (by simp [State.sourceLost])

theorem State.sentOn_touched : i ∈ (u.sentOn e g i l m).touched := by
  rw [u.sentOn_frame i l m e g State.touched fun _ _ _ => rfl]
  exact State.background_touched _ _ _ _ _

theorem State.sentOn_isLocked (hne : e ≠ g) : (u.sentOn e g i l m).isLocked g = u.isLocked g :=
  (u.sentOn_frame i l m e g (State.isLocked · g) fun _ _ _ => rfl).trans (State.sourceLost_isLocked hne)

variable {u i}

theorem State.sentOn_raised (ht : i ∉ u.touched) : u.Raised (u.sentOn e g i l m) i l .engineFault false := by
  have fresh : i ∉ (u.dropUser (some e)).touched := by simpa using ht
  have lost : u.Raised (u.sourceLost e i l) i l .engineFault false :=
    State.Raised.of_left (State.background_raised fresh { l with engine := none } .migrating .engineFault) (by simp)
      (by simp)
  exact lost.to_right fun q => by rw [u.sentOn_frame i l m e g (State.port · q) fun _ _ _ => by simp]

variable {m}

theorem State.sentOn_output (hn : (outputsOf m.entries).Nodup) {x : Entry} (hx : x ∈ m.entries) :
    (u.sentOn e g i l m).output x.output =
      if (u.engine g).state = .locked ∧ (u.output x.output).state.heading ≠ .clock g x.divider then
        (u.output x.output).given (.clock g x.divider)
      else u.output x.output := by
  have lost (o : OutputId) : (u.sourceLost e i l).output o = u.output o := by simp [State.sourceLost]
  unfold State.sentOn State.isLocked
  by_cases hk : (u.engine g).state = .locked
  · simp only [hk, decide_true, if_true, true_and, State.giveEach_wantClockUnlessHeading_output _ _ hn hx, lost,
      ne_eq, ite_not]
  · simp [hk, lost]

end sentOn

/-- A lease under OVERLAP migration from the engine goes on to its target, and settles where that leaves its outputs at
their goal (R102). -/
theorem onFault_source_effect (hl : u.lease? i = some l) (ht : i ∉ u.touched) (hw : l.Wf) (hs : l.state = .migrating)
    (hm : l.migration = some m) (hg : m.target = some g) (he : l.engine = some e) :
    (∀ x ∈ m.entries, (onFault e i u).output x.output =
      if (u.engine g).state = .locked ∧ (u.output x.output).state.heading ≠ .clock g x.divider then
        (u.output x.output).given (.clock g x.divider)
      else u.output x.output) ∧
    (¬(onFault e i u).AtGoal l m →
      (onFault e i u).slot i = ⟨(u.slot i).gen, .live { l with engine := none, reason := .engineFault }⟩ ∧
      u.Raised (onFault e i u) i l .engineFault false) ∧
    ((onFault e i u).AtGoal l m → (onFault e i u).slot i = ⟨(u.slot i).gen, .live (l.migrated m (u.isLocked g))⟩ ∧
      u.Raised (onFault e i u) i l .migrated false) := by
  have hrec := hw.record m hm
  have mode : m.mode = .overlap := hrec.target.1 (by rw [hg]; rfl)
  have hne : e ≠ g := fun heg => hrec.distinct (by rw [hg]; rfl) (by rw [hg, he, heg])
  rw [onFault_source hl hw hs hm hg he]
  have outputs := fun x (hx : x ∈ m.entries) => State.sentOn_output (u := u) (i := i) l e g hrec.entries.nodup hx
  have lease := u.sentOn_lease i l m e g
  have slot := u.sentOn_slot i l m e g
  have touched := u.sentOn_touched i l m e g
  have notice := State.sentOn_raised l m e g ht
  have locked := u.sentOn_isLocked i l m e g hne
  generalize u.sentOn e g i l m = v at *
  rw [← hs] at lease slot
  have record : ({ l with engine := none, state := l.state, reason := .engineFault } : Lease).migration = some m := hm
  have same (t : State) :
      t.AtGoal { l with engine := none, state := l.state, reason := .engineFault } m ↔ t.AtGoal l m := by
    simp [State.AtGoal, mode]
  have goal : (v.settle false i).AtGoal l m ↔ v.AtGoal l m := by
    rw [← same, ← same]
    exact State.settle_atGoal lease record
  refine ⟨fun x hx => ?_, fun hno => ?_, fun hyes => ?_⟩
  · rw [State.settle_output, outputs x hx]
  · rw [State.settle_of_not_atGoal lease record fun h => hno (goal.2 ((same v).1 h))]
    exact ⟨slot, notice⟩
  · have arrived := (same v).2 (goal.1 hyes)
    refine ⟨?_, State.settle_raised_again notice lease rfl touched hs record arrived⟩
    rw [State.settle_slot (g := g) lease hs record arrived (by simp [mode, hg]) (by simp [hg]), slot, locked]
    simp [Lease.migrated, mode]

/-! ### An OVERLAP migration that loses its target -/

/-- The state of a lease that falls back on its source `g` (R103). -/
def State.fallbackState (u : State) (g : EngineId) (l : Lease) : LeaseState :=
  if u.isLocked g then (if u.outputsAll (runsAt g) l.entries then .active else .starting) else .disturbed

/-- The lease of an OVERLAP migration without its target, in state `st` (R103). -/
def State.targetLost (e : EngineId) (i : SlotId) (l : Lease) (st : LeaseState) (u : State) : State :=
  (u.dropUser (some e)).background i { l with migration := none } st .migrationFailed

theorem onFault_target (hl : u.lease? i = some l) (hs : l.state = .migrating) (hm : l.migration = some m)
    (htarget : m.target = some e) (he : l.engine = some g) (hne : e ≠ g) : onFault e i u =
      if u.isLocked g then
        if u.outputsAll (runsAt g) l.entries then u.targetLost e i l .active
        else (u.targetLost e i l .starting).giveEach (wantClockUnlessRunning g) l.entries
      else u.targetLost e i l .disturbed := by
  have locked : (u.dropUser (some e)).isLocked g = u.isLocked g := by
    simp [State.isLocked, State.dropUser_engine, hne]
  have runs : (u.dropUser (some e)).outputsAll (runsAt g) l.entries = u.outputsAll (runsAt g) l.entries := by
    simp [State.outputsAll]
  have falls : onFault e i u = (u.dropUser (some e)).targetFault i l := by simp [onFault, hl, hs, hm, htarget]
  rw [falls, ← locked, ← runs]
  unfold State.targetFault
  split
  · rename_i hnone
    cases he.symm.trans hnone
  · rename_i f hf
    cases he.symm.trans hf
    rfl

theorem State.targetLost_effect (ht : i ∉ u.touched) (l : Lease) (st : LeaseState) :
    (u.targetLost e i l st).slot i =
      ⟨(u.slot i).gen, .live { l with migration := none, state := st, reason := .migrationFailed }⟩ ∧
    u.Raised (u.targetLost e i l st) i l .migrationFailed false ∧
    ∀ o, (u.targetLost e i l st).output o = u.output o := by
  have fresh : i ∉ (u.dropUser (some e)).touched := by simpa using ht
  refine ⟨by simp [State.targetLost], ?_, fun o => by simp [State.targetLost]⟩
  exact State.Raised.of_left (State.background_raised fresh { l with migration := none } st .migrationFailed)
    (by simp) (by simp)

theorem onFault_target_effect (hl : u.lease? i = some l) (ht : i ∉ u.touched) (hw : l.Wf) (hs : l.state = .migrating)
    (hm : l.migration = some m) (htarget : m.target = some e) (he : l.engine = some g) :
    (onFault e i u).slot i = ⟨(u.slot i).gen, .live
      { l with migration := none, state := u.fallbackState g l, reason := .migrationFailed }⟩ ∧
    u.Raised (onFault e i u) i l .migrationFailed false ∧
    ∀ x ∈ l.entries, (onFault e i u).output x.output =
      if (u.engine g).state = .locked ∧ (u.output x.output).state ≠ .running g x.divider then
        (u.output x.output).given (.clock g x.divider)
      else u.output x.output := by
  have hne : e ≠ g := fun heg => (hw.record m hm).distinct (by rw [htarget]; rfl) (by rw [htarget, he, heg])
  rw [onFault_target hl hs hm htarget he hne, State.fallbackState]
  by_cases hk : u.isLocked g = true
  swap
  · have unlocked : (u.engine g).state ≠ .locked := by simpa [State.isLocked] using hk
    obtain ⟨slot, notice, outputs⟩ := State.targetLost_effect (e := e) ht l .disturbed
    rw [if_neg hk, if_neg hk]
    exact ⟨slot, notice, fun x _ => by rw [outputs, if_neg fun h => unlocked h.1]⟩
  have state : (u.engine g).state = .locked := of_decide_eq_true hk
  rw [if_pos hk, if_pos hk]
  by_cases hr : u.outputsAll (runsAt g) l.entries = true
  · have all := State.outputsAll_runsAt.1 hr
    obtain ⟨slot, notice, outputs⟩ := State.targetLost_effect (e := e) ht l .active
    rw [if_pos hr, if_pos hr]
    exact ⟨slot, notice, fun x hx => by rw [outputs, if_neg fun h => h.2 (all x hx)]⟩
  · obtain ⟨slot, notice, outputs⟩ := State.targetLost_effect (e := e) ht l .starting
    rw [if_neg hr, if_neg hr]
    refine ⟨by rw [State.giveEach_slot, slot], notice.to_right (by simp), fun x hx => ?_⟩
    simp only [State.giveEach_wantClockUnlessRunning_output _ _ hw.entries.nodup hx, outputs, state, true_and, ne_eq,
      ite_not]

/-! ### A lease in CLOSING -/

/-- The lease of a CLOSING slot rewritten without the engine, which loses its user (R119). -/
def State.forgotten (e : EngineId) (i : SlotId) (l : Lease) (u : State) : State :=
  (u.dropUser (some e)).setLease i (l.forget e)

theorem onFault_closing (hl : u.lease? i = some l) (hs : l.state = .closing)
    (hn : l.engine = some e ∨ l.closingTarget = some e) : onFault e i u =
      if u.outputsAll isQuiet l.entries then ((u.forgotten e i l).giveUp (l.forget e)).retire i (l.forget e)
      else u.forgotten e i l := by
  have named : (l.runsFrom e || decide (l.closingTarget = some e)) = true := by simpa [Lease.runsFrom] using hn
  have closes : onFault e i u = (u.forgotten e i l).closeIfQuiet i := by
    simp only [onFault, hl, hs]
    exact if_pos named
  have lease : (u.forgotten e i l).lease? i = some (l.forget e) := State.lease_setLease_same _ _ _
  have quiet : (u.forgotten e i l).outputsAll isQuiet (l.forget e).entries = u.outputsAll isQuiet l.entries := by
    simp [State.outputsAll, State.forgotten, Lease.forget]
  have state : (l.forget e).state = .closing := hs
  rw [closes, State.closeIfQuiet, lease]
  simp only [quiet, state, decide_true, Bool.true_and]

/-- A lease in CLOSING with an output that is not quiet names the engine no more (R119). -/
theorem onFault_closing_loud (hl : u.lease? i = some l) (hs : l.state = .closing)
    (hn : l.engine = some e ∨ l.closingTarget = some e) (hq : ∃ x ∈ l.entries, (u.output x.output).state ≠ .quiet) :
    (onFault e i u).slot i = ⟨(u.slot i).gen, .live (l.forget e)⟩ ∧
    (∀ p, ((onFault e i u).port p).notices[i] = (u.port p).notices[i]) ∧
    ∀ o, (onFault e i u).output o = u.output o := by
  obtain ⟨x, hx, hne⟩ := hq
  rw [onFault_closing hl hs hn, if_neg fun hall => hne (State.outputsAll_isQuiet_iff.1 hall x hx)]
  exact ⟨by simp [State.forgotten, State.slot_setLease], fun p => by simp [State.forgotten],
    fun o => by simp [State.forgotten]⟩

/-- A lease in CLOSING whose outputs are quiet is freed (R119). -/
theorem onFault_closing_quiet (hl : u.lease? i = some l) (ht : i ∉ u.touched) (hs : l.state = .closing)
    (hn : l.engine = some e ∨ l.closingTarget = some e) (hq : ∀ x ∈ l.entries, (u.output x.output).state = .quiet) :
    (onFault e i u).slot i = ⟨(u.slot i).gen, .retired l.home⟩ ∧ u.Raised (onFault e i u) i l l.reason true ∧
    ∀ x ∈ l.entries, (onFault e i u).output x.output = ⟨none, .quiet⟩ := by
  have lease : (u.forgotten e i l).lease? i = some (l.forget e) := State.lease_setLease_same _ _ _
  have fresh : i ∉ (u.forgotten e i l).touched := by simpa [State.forgotten] using ht
  rw [onFault_closing hl hs hn, if_pos (State.outputsAll_isQuiet_iff.2 hq)]
  refine ⟨by simp [State.retire_slot, State.forgotten, State.slot_setLease, Lease.forget], ?_, fun x hx => ?_⟩
  · exact State.Raised.of_left (State.giveUp_retire_raised _ i _ lease fresh) (by simp [State.forgotten])
      (by simp [State.forgotten, State.slot_setLease])
  · have mem : x.output ∈ outputsOf (l.forget e).entries := List.mem_map_of_mem hx
    rw [State.retire_output, State.giveUp_output, if_pos mem, ← hq x hx]
    simp [State.forgotten]

/-! ### The holders after a round -/

theorem State.sentOn_holder (u : State) (i : SlotId) (l : Lease) (m : Migration) (e g : EngineId) (o : OutputId) :
    ((u.sentOn e g i l m).output o).holder = (u.output o).holder := by
  unfold State.sentOn
  split <;> simp [State.sourceLost]

/-- A fault takes outputs from a lease that it frees, and gives none to another (R74, R119). -/
theorem onFault_holder (hw : ∀ l, u.lease? i = some l → l.Wf) (e : EngineId) (o : OutputId) :
    ((onFault e i u).output o).holder = (u.output o).holder ∨ ((onFault e i u).output o).holder = none := by
  by_cases hno : ∀ l, u.lease? i = some l → l.countOn e = 0
  · rw [onFault_unnamed hno]
    exact .inl rfl
  obtain ⟨l, hl, hc⟩ : ∃ l, u.lease? i = some l ∧ l.countOn e ≠ 0 := by simpa using hno
  have hwf := hw l hl
  rcases hwf.fault_cases (Nat.pos_of_ne_zero hc) with
    ⟨hs, hn⟩ | ⟨hs, he, ht⟩ | ⟨m, g, hs, hm, hg, he⟩ | ⟨m, hs, hm, ht⟩
  · rw [onFault_closing hl hs hn]
    split
    · rw [State.retire_output, State.giveUp_output]
      split
      · exact .inr rfl
      · exact .inl (by simp [State.forgotten])
    · exact .inl (by simp [State.forgotten])
  · rw [onFault_fails hl hwf he hs ht]
    exact .inl (by simp [State.failLease])
  · rw [onFault_source hl hwf hs hm hg he, State.settle_output, State.sentOn_holder]
    exact .inl rfl
  · cases he : l.engine with
    | none =>
      rw [onFault_target_alone hl hs hm ht he]
      exact .inl (by simp [State.failLease])
    | some g =>
      have hne : e ≠ g := fun heg => (hwf.record m hm).distinct (by rw [ht]; rfl) (by rw [ht, he, heg])
      rw [onFault_target hl hs hm ht he hne]
      repeat' split
      all_goals exact .inl (by simp [State.targetLost])

end round

end Sys2Proof.Machine

/-! ## A fault applied to every lease (R66, R117)

The rounds of a fault: each runs on its slot as the fault's beginning left it, and the slot ends as its round left it.
-/

namespace Sys2Proof.Machine

/-! ### The beginning of a fault -/

/-- The part in which the fault of engine `e` is applied to the leases: the engine is FAULTED, and the outputs tied to
it are forced quiet (R66, R83). -/
def State.faultBegun (e : EngineId) (r : FaultReason) (s : State) : State :=
  (s.setEngine e ((s.engine e).fail r)).forceQuietTied e

section begun

variable (s : State) (e : EngineId) (r : FaultReason)

theorem State.forceQuietTied_frame {β : Type} (view : State → β)
    (hv : ∀ o x t, view (State.setOutput t o x) = view t) : view (s.forceQuietTied e) = view s := by
  refine forEach_frame view _ (fun o t => ?_) allOutputs s
  dsimp only
  split
  · exact hv _ _ _
  · rfl

@[simp] theorem State.faultBegun_slot (i : SlotId) : (s.faultBegun e r).slot i = s.slot i :=
  State.forceQuietTied_frame _ e (State.slot · i) fun _ _ _ => rfl

@[simp] theorem State.faultBegun_lease (i : SlotId) : (s.faultBegun e r).lease? i = s.lease? i :=
  State.forceQuietTied_frame _ e (State.lease? · i) fun _ _ _ => rfl

@[simp] theorem State.faultBegun_port (p : Port) : (s.faultBegun e r).port p = s.port p :=
  (State.forceQuietTied_frame _ e (State.port · p) fun _ _ _ => by simp).trans (by simp)

@[simp] theorem State.faultBegun_touched : (s.faultBegun e r).touched = s.touched :=
  State.forceQuietTied_frame _ e State.touched fun _ _ _ => rfl

@[simp] theorem State.faultBegun_deviceNotices : (s.faultBegun e r).deviceNotices = s.deviceNotices :=
  State.forceQuietTied_frame _ e State.deviceNotices fun _ _ _ => rfl

@[simp] theorem State.faultBegun_output (o : OutputId) : (s.faultBegun e r).output o = (s.output o).forced e :=
  State.forceQuietTied_output _ e o

theorem State.faultBegun_engine (f : EngineId) :
    (s.faultBegun e r).engine f = if f = e then (s.engine e).fail r else s.engine f :=
  (State.BooksBut.forceQuietTied_engine _ e f).trans (State.engine_setEngine _ _ _ _)

theorem State.declareFault_eq :
    s.declareFault e r = (forEach allSlots (onFault e) (s.faultBegun e r)).raiseEngineFault e := rfl

end begun

/-! ### The rounds -/

/-- Slot `j` is left alone with its engines, and so are the outputs without a holder. -/
structure SlotSpared (j : SlotId) (s t : State) : Prop extends SlotHeld j s t where
  unheld : ∀ o, (s.output o).holder = none → t.output o = s.output o

namespace SlotSpared

variable {i j : SlotId} {s t u : State} {o : OutputId}

theorem refl (j : SlotId) (s : State) : SlotSpared j s s := ⟨.refl j s, fun _ _ => rfl⟩

theorem trans (h : SlotSpared j s t) (k : SlotSpared j t u) : SlotSpared j s u where
  toSlotHeld := h.toSlotHeld.trans k.toSlotHeld
  unheld o ho := (k.unheld o (h.unheld o ho ▸ ho)).trans (h.unheld o ho)

theorem output_of_holder (h : SlotSpared j s t) (ho : (s.output o).holder = some j ∨ (s.output o).holder = none) :
    t.output o = s.output o :=
  ho.elim (h.output o) (h.unheld o)

end SlotSpared

section rounds

variable {s u : State} {e : EngineId} {i : SlotId}

/-- One round of a fault leaves the other slots, their engines and the outputs without a holder. -/
theorem onFault_spared (sound : u.SoundBut (some e)) {j : SlotId} (hj : j ≠ i) : SlotSpared j u (onFault e i u) := by
  have work : SoundFrom (u.Alone i) (some e) i u (onFault e i u) := (SoundFrom.refl sound).onFault
  refine ⟨.of_oneSlot sound ((OneSlot.refl i u).onFault e) work hj, fun o ho => ?_⟩
  have kept : ((onFault e i u).output o).holder = none := (onFault_holder (sound.books.leases i) e o).elim (·.trans ho) id
  have quiet := sound.holders.free o ho
  have still := work.sound.holders.free o kept
  cases hx : u.output o
  cases hy : (onFault e i u).output o
  simp_all

/-- The agreement while a fault that began in `s` is applied, and what it leaves of the rest of the part. -/
def State.FaultHeard (e : EngineId) (s u : State) : Prop := u.SoundBut (some e) ∧ LeaseWork s u

theorem onFault_rounds (e : EngineId) (xs : List SlotId) (s : State) :
    Rounds (State.FaultHeard e s) SlotSpared (onFault e) xs s := by
  rintro i - u ⟨sound, work⟩ -
  exact ⟨⟨sound.onFault i, work.onFault e i⟩, fun j hj => onFault_spared sound hj⟩

theorem State.Sound.faultBegun (h : s.Sound) (e : EngineId) (r : FaultReason) :
    (s.faultBegun e r).SoundBut (some e) :=
  (s.soundBut_none_iff.2 h).beginFault e r

/-- A loop whose rounds apply `g` to a view, in the slots of which `p` holds. -/
theorem forEach_rounds_iterate {β : Type} {G : State → Prop} {R : SlotId → State → State → Prop}
    {f : SlotId → State → State} (view : State → β) (g : β → β) (p : SlotId → Bool) (refl : ∀ j s, R j s s)
    (trans : ∀ j s t u, R j s t → R j t u → R j s u) {xs : List SlotId} (hn : xs.Nodup) {s : State}
    (h : Rounds G R f xs s) (hG : G s)
    (round : ∀ i ∈ xs, ∀ u, G u → R i s u → view (f i u) = if p i then g (view u) else view u) :
    view (forEach xs f s) = g^[xs.countP p] (view s) := by
  induction xs generalizing s with
  | nil => rfl
  | cons x xs ih =>
    obtain ⟨hx, hxs⟩ := List.nodup_cons.1 hn
    obtain ⟨hG', hR⟩ := h x List.mem_cons_self s hG (refl x s)
    have rest := h.tail trans hx hR
    have away : ∀ i ∈ xs, R i s (f x s) := fun i hi => hR i fun hix => hx (hix ▸ hi)
    have first := round x List.mem_cons_self s hG (refl x s)
    refine (ih hxs rest hG' fun i hi u hu hr => round i (List.mem_cons_of_mem x hi) u hu
      (trans i _ _ _ (away i hi) hr)).trans ?_
    rw [first, List.countP_cons]
    split
    · rw [Function.iterate_succ_apply]
    · rfl

end rounds

/-! ### What the fault's round finds and leaves -/

/-- The fault of engine `e`, declared in `s`, reaches slot `i` in the state `u`: the slot, its notices and its engines
are as they were, its outputs are forced quiet where they were tied to `e`; and the fault ends with all of them as the round
of the slot leaves them. -/
structure State.FaultReaches (s : State) (e : EngineId) (r : FaultReason) (i : SlotId) (u : State) : Prop where
  sound : u.SoundBut (some e)
  slot : u.slot i = s.slot i
  notices : ∀ p, (u.port p).notices[i] = (s.port p).notices[i]
  fresh : i ∉ u.touched
  state : ∀ f, f ≠ e → 0 < s.countAt i f → (u.engine f).state = (s.engine f).state
  output : ∀ l, s.lease? i = some l → ∀ o ∈ outputsOf l.entries, u.output o = (s.output o).forced e
  after : SlotSpared i (onFault e i u) (s.declareFault e r)

section reaches

variable {s t u : State} {e : EngineId} {r : FaultReason} {i : SlotId} {l : Lease}

theorem State.raiseEngineFault_spared (t : State) (e : EngineId) (i : SlotId) : SlotSpared i t (t.raiseEngineFault e) :=
  ⟨⟨⟨rfl, fun p => by cases p <;> rfl, Iff.rfl, fun _ _ => rfl⟩, fun _ _ => ⟨rfl, rfl⟩⟩, fun _ _ => rfl⟩

theorem declareFault_reaches (sound : s.Sound) (ht : s.touched = []) (e : EngineId) (r : FaultReason) (i : SlotId) :
    ∃ u, s.FaultReaches e r i u := by
  have begun := sound.faultBegun e r
  obtain ⟨-, -, visited⟩ := forEach_rounds SlotSpared.refl (fun _ _ _ _ => .trans) allSlots_nodup
    (onFault_rounds e allSlots (s.faultBegun e r)) ⟨begun, .refl _⟩
  obtain ⟨u, ⟨heard, -⟩, before, after⟩ := visited i (mem_allSlots i)
  refine ⟨u, heard, by rw [before.slot, s.faultBegun_slot], fun p => by rw [before.notices, s.faultBegun_port], ?_,
    fun f hf hc => ?_, fun l hl o ho => ?_, ?_⟩
  · rw [before.touched, s.faultBegun_touched, ht]
    exact List.not_mem_nil
  · have count : 0 < (s.faultBegun e r).countAt i f := by
      rwa [State.countAt_congr (s.faultBegun_lease e r i) f]
    rw [(before.engine f count).1, s.faultBegun_engine, if_neg hf]
  · have lease : (s.faultBegun e r).lease? i = some l := (s.faultBegun_lease e r i).trans hl
    rw [before.begins begun.holders lease ho, s.faultBegun_output]
  · rw [State.declareFault_eq]
    generalize forEach allSlots (onFault e) (s.faultBegun e r) = v at after
    exact after.trans (v.raiseEngineFault_spared e i)

namespace State.FaultReaches

variable (h : s.FaultReaches e r i u)
include h

theorem lease : u.lease? i = s.lease? i := by
  unfold State.lease?
  rw [h.slot]

theorem final_slot : (s.declareFault e r).slot i = (onFault e i u).slot i := h.after.slot

/-- The outputs of a lease end as its round leaves them. -/
theorem final_output (hl : s.lease? i = some l) {o : OutputId} (ho : o ∈ outputsOf l.entries) :
    (s.declareFault e r).output o = (onFault e i u).output o := by
  refine h.after.output_of_holder ?_
  rw [← h.sound.holders.listed i l (h.lease.trans hl) o ho]
  exact onFault_holder (h.sound.books.leases i) e o

theorem raised {k : Reason} {closed : Bool} (hr : u.Raised (onFault e i u) i l k closed) :
    s.Raised (s.declareFault e r) i l k closed :=
  (hr.of_left h.notices (by rw [h.slot])).to_right h.after.notices

theorem isLocked {g : EngineId} (hl : s.lease? i = some l) (hg : g ≠ e) (hc : 0 < l.countOn g) :
    u.isLocked g = s.isLocked g := by
  rw [State.isLocked, State.isLocked, h.state g hg (State.countAt_of_lease hl g ▸ hc)]

end State.FaultReaches

end reaches

end Sys2Proof.Machine

/-! ## The engines under a fault (R55, R57, R66, R119) -/

namespace Sys2Proof.Machine

section round

variable {u : State} {i : SlotId} {l : Lease} {e f : EngineId}

/-- A fault that frees no lease of a slot takes a user from its own engine at most. -/
theorem onFault_engine_cases (hl : u.lease? i = some l) (hw : l.Wf)
    (hno : ¬(l.state = .closing ∧ (l.engine = some e ∨ l.closingTarget = some e) ∧
      ∀ x ∈ l.entries, (u.output x.output).state = .quiet)) (f : EngineId) :
    (onFault e i u).engine f = u.engine f ∨ (onFault e i u).engine f = (u.dropUser (some e)).engine f := by
  rcases Nat.eq_zero_or_pos (l.countOn e) with hc | hc
  · rw [onFault_unnamed fun k hk => by cases hl.symm.trans hk; exact hc]
    exact .inl rfl
  refine .inr ?_
  rcases hw.fault_cases hc with ⟨hs, hn⟩ | ⟨hs, he, ht⟩ | ⟨m, g, hs, hm, hg, he⟩ | ⟨m, hs, hm, ht⟩
  · rw [onFault_closing hl hs hn, if_neg fun hq => hno ⟨hs, hn, State.outputsAll_isQuiet_iff.1 hq⟩]
    rfl
  · rw [onFault_fails hl hw he hs ht]
    simp [State.failLease]
  · rw [onFault_source hl hw hs hm hg he]
    rcases State.settle_engine_cases (u.sentOn e g i l m) false i f with kept | ⟨k, n, hk, -, -, hf, -⟩
    · rw [kept, u.sentOn_frame i l m e g (State.engine · f) fun _ _ _ => rfl]
      simp [State.sourceLost]
    · rw [State.sentOn_lease] at hk
      cases hk
      cases hf
  · cases he : l.engine with
    | none =>
      rw [onFault_target_alone hl hs hm ht he]
      simp [State.failLease]
    | some g =>
      have hne : e ≠ g := fun heg => (hw.record m hm).distinct (by rw [ht]; rfl) (by rw [ht, he, heg])
      rw [onFault_target hl hs hm ht he hne]
      repeat' split
      all_goals simp [State.targetLost]

/-- The engine that a freed lease counted on beside the faulted one loses a user (R57, R119). -/
theorem onFault_engine_freed (hl : u.lease? i = some l) (hs : l.state = .closing)
    (hn : l.engine = some e ∨ l.closingTarget = some e) (hq : ∀ x ∈ l.entries, (u.output x.output).state = .quiet)
    (f : EngineId) : (onFault e i u).engine f =
      (EngineRec.dropUser u.params.linger)^[(l.forget e).countOn f] ((u.dropUser (some e)).engine f) := by
  have params : (u.forgotten e i l).params = u.params := ((LeaseWork.refl u).dropUser (some e)).params
  rw [onFault_closing hl hs hn, if_pos (State.outputsAll_isQuiet_iff.2 hq), State.retire_engine, State.giveUp_engine,
    params]
  rfl

/-- Another engine loses a user with each freed lease that counted on it, and with no other (R57, R119). -/
theorem onFault_engine_other (hl : u.lease? i = some l) (hw : l.Wf) (hf : f ≠ e) :
    (onFault e i u).engine f =
      if l.state = .closing ∧ (l.engine = some e ∨ l.closingTarget = some e) ∧ 0 < l.countOn f ∧
          ∀ x ∈ l.entries, (u.output x.output).state = .quiet then
        (u.engine f).dropUser u.params.linger
      else u.engine f := by
  have away : some e ≠ some f := fun h => hf (Option.some.inj h).symm
  have other : (u.dropUser (some e)).engine f = u.engine f := by rw [u.dropUser_engine, if_neg away]
  by_cases hfree : l.state = .closing ∧ (l.engine = some e ∨ l.closingTarget = some e) ∧
      ∀ x ∈ l.entries, (u.output x.output).state = .quiet
  swap
  · rw [if_neg fun ⟨hs, hn, _, hq⟩ => hfree ⟨hs, hn, hq⟩]
    exact (onFault_engine_cases hl hw hfree f).elim id (·.trans other)
  obtain ⟨hs, hn, hq⟩ := hfree
  have count : (l.forget e).countOn f = l.countOn f := by
    have := hw.forget_countOn hs hn f
    rwa [if_neg away] at this
  have once : l.countOn f ≤ 1 := by
    rw [l.countOn_eq, Lease.migrationTarget_of_none (hw.no_migration (by simp [hs]))]
    rcases hn with he | hk
    · simp only [he, if_neg away, reduceCtorEq, if_false, Nat.zero_add]
      split <;> simp
    · simp only [hk, if_neg away, reduceCtorEq, if_false, Nat.add_zero]
      split <;> simp
  rw [onFault_engine_freed hl hs hn hq, count, other]
  rcases Nat.le_one_iff_eq_zero_or_eq_one.1 once with hc | hc
  · simp [hc]
  · rw [hc, if_pos ⟨hs, hn, Nat.one_pos, hq⟩]
    rfl

/-- The record of an engine but for its users. -/
def EngineRec.unused (x : EngineRec) : EngineRec := { x with users := 0, exclusive := false }

/-- A FAULTED engine that loses a user keeps the rest of its record (R55, R57). -/
theorem EngineRec.dropUser_unused {x y : EngineRec} {r : FaultReason} {limit : Nat}
    (h : x.unused = y.faultedWith r limit) (n : Nat) : (x.dropUser n).unused = y.faultedWith r limit := by
  have state : x.state = .faulted := congrArg EngineRec.state h
  have unreserved : x.reserved = false := congrArg EngineRec.reserved h
  rw [← h]
  unfold EngineRec.dropUser
  split
  · simp [EngineRec.zeroUsers, state, unreserved, EngineRec.unused]
  · rfl

/-- The faulted engine loses users in the rounds of its fault, and nothing else. -/
theorem onFault_engine_own (hw : ∀ l, u.lease? i = some l → l.Wf) {y : EngineRec} {r : FaultReason} {limit : Nat}
    (h : (u.engine e).unused = y.faultedWith r limit) : ((onFault e i u).engine e).unused = y.faultedWith r limit := by
  have dropped : ((u.dropUser (some e)).engine e).unused = y.faultedWith r limit := by
    rw [u.dropUser_engine, if_pos rfl]
    exact EngineRec.dropUser_unused h _
  cases hl : u.lease? i with
  | none =>
    rw [onFault_unnamed fun l hk => by rw [hl] at hk; cases hk]
    exact h
  | some l =>
    by_cases hfree : l.state = .closing ∧ (l.engine = some e ∨ l.closingTarget = some e) ∧
        ∀ x ∈ l.entries, (u.output x.output).state = .quiet
    · obtain ⟨hs, hn, hq⟩ := hfree
      rw [onFault_engine_freed hl hs hn hq]
      exact Function.Iterate.rec (fun x : EngineRec => x.unused = y.faultedWith r limit) dropped
        (fun _ hx => EngineRec.dropUser_unused hx _) _
    · rcases onFault_engine_cases hl (hw l hl) hfree e with kept | lost
      · rw [kept, h]
      · rw [lost, dropped]

end round

/-! ### The whole fault -/

section whole

variable {s : State} {e f : EngineId} {r : FaultReason}

theorem State.raiseEngineFault_engine (t : State) (e f : EngineId) : (t.raiseEngineFault e).engine f = t.engine f := rfl

/-- The faulted engine ends without a user and without a mark (R55, R66). -/
theorem declareFault_engine_own (sound : s.Sound) (e : EngineId) (r : FaultReason) :
    (s.declareFault e r).engine e = (s.engine e).faultedWith r (s.engine e).acquisition.limit := by
  have begun : ((s.faultBegun e r).engine e).unused = (s.engine e).faultedWith r (s.engine e).acquisition.limit := by
    rw [s.faultBegun_engine, if_pos rfl]
    exact EngineRec.fail_faultedWith r (s.engine e)
  have rounds : Rounds (fun u => u.SoundBut (some e) ∧
      (u.engine e).unused = (s.engine e).faultedWith r (s.engine e).acquisition.limit) (fun _ _ _ => True) (onFault e)
      allSlots (s.faultBegun e r) := by
    rintro i - u ⟨heard, kept⟩ -
    exact ⟨⟨heard.onFault i, onFault_engine_own (heard.books.leases i) kept⟩, fun _ _ => trivial⟩
  obtain ⟨⟨-, kept⟩, -, -⟩ := forEach_rounds (fun _ _ => trivial) (fun _ _ _ _ _ _ => trivial) allSlots_nodup rounds
    ⟨sound.faultBegun e r, begun⟩
  have final : ((s.declareFault e r).engine e).unused =
      (s.engine e).faultedWith r (s.engine e).acquisition.limit := by
    rw [s.declareFault_eq, State.raiseEngineFault_engine, kept]
  have count : ((s.declareFault e r).engine e).CountOk :=
    (EngineRec.countBut_false_iff _).1 (by simpa using ((s.soundBut_none_iff.2 sound).declareFault e r).books.engines e)
  generalize (s.declareFault e r).engine e = x at final count
  have users : x.users = 0 := count.idle.2 (.inr (.inr (congrArg EngineRec.state final)))
  have shared : x.exclusive = false := Bool.eq_false_iff.2 fun hx => by
    rw [count.exclusive hx] at users
    cases users
  rw [← final]
  cases x
  cases users
  cases shared
  rfl

/-- Another engine ends with a user fewer for each lease on it that the fault frees (R57, R119). -/
theorem declareFault_engine_other (sound : s.Sound) (hf : f ≠ e) (r : FaultReason) : (s.declareFault e r).engine f =
    (EngineRec.dropUser s.params.linger)^[s.freedWith e f] (s.engine f) := by
  have begun := sound.faultBegun e r
  have start : (s.faultBegun e r).engine f = s.engine f := by rw [s.faultBegun_engine, if_neg hf]
  have params : (s.faultBegun e r).params = s.params :=
    State.forceQuietTied_frame _ e State.params fun _ _ _ => rfl
  rw [s.declareFault_eq, State.raiseEngineFault_engine, ← start]
  refine forEach_rounds_iterate (fun u => u.engine f) _ _ SlotSpared.refl (fun _ _ _ _ => .trans) allSlots_nodup
    (onFault_rounds e allSlots (s.faultBegun e r)) ⟨begun, .refl _⟩ fun i _ u ⟨heard, work⟩ before => ?_
  have lease : u.lease? i = s.lease? i := before.lease.trans (s.faultBegun_lease e r i)
  cases hl : s.lease? i with
  | none =>
    rw [onFault_unnamed fun l hk => by rw [lease, hl] at hk; cases hk]
    simp
  | some l =>
    have hl' : (s.faultBegun e r).lease? i = some l := (s.faultBegun_lease e r i).trans hl
    have outputs : ∀ x ∈ l.entries, u.output x.output = (s.output x.output).forced e := fun x hx =>
      (before.begins begun.holders hl' (List.mem_map_of_mem hx)).trans (s.faultBegun_output e r _)
    have quiet : (∀ x ∈ l.entries, (u.output x.output).state = .quiet) ↔
        ∀ x ∈ l.entries, ((s.output x.output).forced e).state = .quiet :=
      forall₂_congr fun x hx => by rw [outputs x hx]
    rw [onFault_engine_other (lease.trans hl) (heard.books.leases i l (lease.trans hl)) hf, work.params, params]
    simp only [quiet, decide_eq_true_eq]

end whole

end Sys2Proof.Machine

/-! ## The leases and outputs after a fault (R83, R102, R103, R117, R119) -/

namespace Sys2Proof.Machine

theorem OutputRec.forced_of_quiet {x : OutputRec} {e : EngineId} (h : (x.forced e).state = .quiet) :
    x.forced e = { x with state := .quiet } := by rw [← h]; rfl

theorem OutputRec.forced_state_of_tied {x : OutputRec} {e : EngineId} (h : x.state.tiedTo e = true) :
    (x.forced e).state = .quiet := if_pos h

theorem mem_outputsOf_of_mem {es : List Entry} {x : Entry} (hx : x ∈ es) : x.output ∈ outputsOf es :=
  List.mem_map_of_mem hx

theorem State.raiseEngineFault_output (t : State) (e : EngineId) (o : OutputId) :
    (t.raiseEngineFault e).output o = t.output o := rfl

/-- After a fault no output is tied to its engine (R83). -/
theorem declareFault_untied {s : State} (sound : s.Sound) (e : EngineId) (r : FaultReason) (o : OutputId) :
    ((s.declareFault e r).output o).state.tiedTo e = false := by
  obtain ⟨⟨heard, -⟩, -, -⟩ := forEach_rounds SlotSpared.refl (fun _ _ _ _ => .trans) allSlots_nodup
    (onFault_rounds e allSlots (s.faultBegun e r)) ⟨sound.faultBegun e r, .refl _⟩
  rw [s.declareFault_eq, State.raiseEngineFault_output]
  exact heard.forced e rfl o

section leases

variable {s u : State} {e g : EngineId} {r : FaultReason} {i : SlotId} {l : Lease} {m : Migration}

namespace State.FaultReaches

variable (h : s.FaultReaches e r i u)
include h

theorem wf (hl : s.lease? i = some l) : l.Wf := h.sound.books.leases i l (h.lease.trans hl)

/-- A lease that fails leaves its outputs quiet where it counts on no other engine (R117). -/
theorem fails (hl : s.lease? i = some l) (round : onFault e i u = (u.dropUser (some e)).failLease i l)
    (only : ∀ f, 0 < l.countOn f → f = e) :
    (s.declareFault e r).slot i = ⟨(s.slot i).gen, .live l.failedByFault⟩ ∧
    s.Raised (s.declareFault e r) i l .engineFault false ∧
    ∀ x ∈ l.entries, (s.declareFault e r).output x.output = { s.output x.output with state := .quiet } := by
  obtain ⟨slot, notice, outputs⟩ := failLease_effect (e := e) h.fresh l
  rw [← round] at slot notice
  refine ⟨by rw [h.final_slot, slot, h.slot], h.raised notice, fun x hx => ?_⟩
  have mem := mem_outputsOf_of_mem hx
  have found := h.output l hl _ mem
  have quiet := h.sound.quiet_of_forced (h.lease.trans hl) only mem
  rw [h.final_output hl mem, round, outputs, found]
  exact OutputRec.forced_of_quiet (found ▸ quiet)

end State.FaultReaches

/-- A lease of the engine that has no migration target is FAILED (R117). -/
theorem declareFault_fails (sound : s.Sound) (ht : s.touched = []) (r : FaultReason) (hl : s.lease? i = some l)
    (he : l.engine = some e) (hs : l.state ≠ .closing) (hm : l.migrationTarget = none) :
    (s.declareFault e r).slot i = ⟨(s.slot i).gen, .live l.failedByFault⟩ ∧
    s.Raised (s.declareFault e r) i l .engineFault false ∧
    ∀ x ∈ l.entries, (s.declareFault e r).output x.output = { s.output x.output with state := .quiet } := by
  obtain ⟨u, h⟩ := declareFault_reaches sound ht e r i
  have hw := h.wf hl
  refine h.fails hl (onFault_fails (h.lease.trans hl) hw he hs hm) fun f hf => ?_
  have named := (l.countOn_pos_iff f).1 hf
  rw [he, hm, hw.no_closingTarget hs] at named
  exact (Option.some.inj (by simpa using named)).symm

/-- So is a lease in OVERLAP toward the engine that has lost its source (R103). -/
theorem declareFault_target_alone (sound : s.Sound) (ht : s.touched = []) (r : FaultReason) (hl : s.lease? i = some l)
    (hs : l.state = .migrating) (hm : l.migration = some m) (htarget : m.target = some e) (he : l.engine = none) :
    (s.declareFault e r).slot i = ⟨(s.slot i).gen, .live l.failedByFault⟩ ∧
    s.Raised (s.declareFault e r) i l .engineFault false ∧
    ∀ x ∈ l.entries, (s.declareFault e r).output x.output = { s.output x.output with state := .quiet } := by
  obtain ⟨u, h⟩ := declareFault_reaches sound ht e r i
  refine h.fails hl (onFault_target_alone (h.lease.trans hl) hs hm htarget he) fun f hf => ?_
  have named := (l.countOn_pos_iff f).1 hf
  rw [he, Lease.migrationTarget_of_some hm, htarget, (h.wf hl).no_closingTarget (by simp [hs])] at named
  exact (Option.some.inj (by simpa using named)).symm

/-- A lease in OVERLAP from the engine goes on to its target (R102). -/
theorem declareFault_source (sound : s.Sound) (ht : s.touched = []) (r : FaultReason) (hl : s.lease? i = some l)
    (hs : l.state = .migrating) (hm : l.migration = some m) (hg : m.target = some g) (he : l.engine = some e) :
    (∀ x ∈ m.entries, (s.declareFault e r).output x.output =
      if (s.engine g).state = .locked ∧ ((s.output x.output).forced e).state.heading ≠ .clock g x.divider then
        ((s.output x.output).forced e).given (.clock g x.divider)
      else (s.output x.output).forced e) ∧
    (¬(s.declareFault e r).AtGoal l m →
      (s.declareFault e r).slot i = ⟨(s.slot i).gen, .live { l with engine := none, reason := .engineFault }⟩ ∧
      s.Raised (s.declareFault e r) i l .engineFault false) ∧
    ((s.declareFault e r).AtGoal l m →
      (s.declareFault e r).slot i = ⟨(s.slot i).gen, .live (l.migrated m (s.isLocked g))⟩ ∧
      s.Raised (s.declareFault e r) i l .migrated false) := by
  obtain ⟨u, h⟩ := declareFault_reaches sound ht e r i
  have hrec := (h.wf hl).record m hm
  have mode : m.mode = .overlap := hrec.target.1 (by rw [hg]; rfl)
  have hne : g ≠ e := fun hge => hrec.distinct (by rw [hg]; rfl) (by rw [hg, he, hge])
  have count : 0 < l.countOn g := (l.countOn_pos_iff g).2 (.inr (.inl ((Lease.migrationTarget_of_some hm).trans hg)))
  obtain ⟨outputs, away, arrived⟩ := onFault_source_effect (h.lease.trans hl) h.fresh (h.wf hl) hs hm hg he
  have goal : (s.declareFault e r).AtGoal l m ↔ (onFault e i u).AtGoal l m :=
    State.atGoal_congr hrec (fun o ho => congrArg OutputRec.state (h.final_output hl ho)) fun hloc => by
      rw [mode] at hloc
      cases hloc
  refine ⟨fun x hx => ?_, fun hno => ?_, fun hyes => ?_⟩
  · have mem : x.output ∈ outputsOf l.entries := hrec.outputs ▸ mem_outputsOf_of_mem hx
    rw [h.final_output hl mem, outputs x hx, h.output l hl _ mem, h.state g hne (State.countAt_of_lease hl g ▸ count)]
  · obtain ⟨slot, notice⟩ := away (mt goal.2 hno)
    exact ⟨by rw [h.final_slot, slot, h.slot], h.raised notice⟩
  · obtain ⟨slot, notice⟩ := arrived (goal.1 hyes)
    exact ⟨by rw [h.final_slot, slot, h.slot, h.isLocked hl hne count], h.raised notice⟩

/-- The state of a lease that falls back on its source follows the source's lock and where its outputs run (R103). -/
theorem State.fallbackState_cases (u : State) (g : EngineId) (l : Lease) :
    ((u.engine g).state ≠ .locked → u.fallbackState g l = .disturbed) ∧
    ((u.engine g).state = .locked →
      ((∀ x ∈ l.entries, (u.output x.output).state = .running g x.divider) → u.fallbackState g l = .active) ∧
      ((∃ x ∈ l.entries, (u.output x.output).state ≠ .running g x.divider) → u.fallbackState g l = .starting)) := by
  refine ⟨fun hk => ?_, fun hk => ⟨fun hall => ?_, fun ⟨x, hx, hne⟩ => ?_⟩⟩
  · simp [State.fallbackState, State.isLocked, hk]
  · rw [State.fallbackState, State.isLocked, decide_eq_true hk, if_pos rfl, if_pos (State.outputsAll_runsAt.2 hall)]
  · rw [State.fallbackState, State.isLocked, decide_eq_true hk, if_pos rfl,
      if_neg fun hall => hne (State.outputsAll_runsAt.1 hall x hx)]

/-- Running on another engine is neither made nor ended by forcing quiet (R83). -/
theorem OutputRec.forced_running_iff {x : OutputRec} {k : Nat} (hne : g ≠ e) :
    (x.forced e).state = .running g k ↔ x.state = .running g k := by
  refine ⟨fun hx => ?_, fun hx => ?_⟩
  · rcases x.forced_state e with ⟨same, -⟩ | quiet
    · exact same ▸ hx
    · rw [quiet] at hx
      cases hx
  · rw [State.Running.forced_of_untied (by simp [hx, OutState.tiedTo, hne]), hx]

/-- A lease in OVERLAP toward the engine falls back on its source (R103). -/
theorem declareFault_target (sound : s.Sound) (ht : s.touched = []) (r : FaultReason) (hl : s.lease? i = some l)
    (hs : l.state = .migrating) (hm : l.migration = some m) (htarget : m.target = some e) (he : l.engine = some g) :
    (∃ st : LeaseState, (s.declareFault e r).slot i =
        ⟨(s.slot i).gen, .live { l with migration := none, state := st, reason := .migrationFailed }⟩ ∧
      s.Raised (s.declareFault e r) i l .migrationFailed false ∧
      ((s.engine g).state ≠ .locked → st = .disturbed) ∧
      ((s.engine g).state = .locked →
        ((∀ x ∈ l.entries, (s.output x.output).state = .running g x.divider) → st = .active) ∧
        ((∃ x ∈ l.entries, (s.output x.output).state ≠ .running g x.divider) → st = .starting))) ∧
    ∀ x ∈ l.entries, (s.declareFault e r).output x.output =
      if (s.engine g).state = .locked ∧ ((s.output x.output).forced e).state ≠ .running g x.divider then
        ((s.output x.output).forced e).given (.clock g x.divider)
      else (s.output x.output).forced e := by
  obtain ⟨u, h⟩ := declareFault_reaches sound ht e r i
  have hne : g ≠ e := fun hge => ((h.wf hl).record m hm).distinct (by rw [htarget]; rfl) (by rw [htarget, he, hge])
  have engine : (u.engine g).state = (s.engine g).state :=
    h.state g hne (State.countAt_of_lease hl g ▸ Lease.countOn_pos_of_engine he)
  have running (x : Entry) (hx : x ∈ l.entries) :
      (u.output x.output).state = .running g x.divider ↔ (s.output x.output).state = .running g x.divider := by
    rw [h.output l hl _ (mem_outputsOf_of_mem hx), OutputRec.forced_running_iff hne]
  obtain ⟨slot, notice, outputs⟩ := onFault_target_effect (h.lease.trans hl) h.fresh (h.wf hl) hs hm htarget he
  obtain ⟨unlocked, locked⟩ := u.fallbackState_cases g l
  rw [engine] at unlocked locked
  refine ⟨⟨u.fallbackState g l, by rw [h.final_slot, slot, h.slot], h.raised notice, unlocked, fun hk => ?_⟩,
    fun x hx => ?_⟩
  · obtain ⟨active, starting⟩ := locked hk
    exact ⟨fun hall => active fun x hx => (running x hx).2 (hall x hx),
      fun ⟨x, hx, hno⟩ => starting ⟨x, hx, mt (running x hx).1 hno⟩⟩
  · have mem := mem_outputsOf_of_mem hx
    rw [h.final_output hl mem, outputs x hx, h.output l hl _ mem, engine]

/-- A lease in CLOSING with an output still loud names the engine no more (R119). -/
theorem declareFault_closing_loud (sound : s.Sound) (ht : s.touched = []) (r : FaultReason) (hl : s.lease? i = some l)
    (hs : l.state = .closing) (hn : l.engine = some e ∨ l.closingTarget = some e)
    (hq : ∃ x ∈ l.entries, ((s.output x.output).forced e).state ≠ .quiet) :
    (s.declareFault e r).slot i = ⟨(s.slot i).gen, .live (l.forget e)⟩ ∧
    (∀ p, ((s.declareFault e r).port p).notices[i] = (s.port p).notices[i]) ∧
    ∀ x ∈ l.entries, (s.declareFault e r).output x.output = (s.output x.output).forced e := by
  obtain ⟨u, h⟩ := declareFault_reaches sound ht e r i
  obtain ⟨x, hx, hne⟩ := hq
  obtain ⟨slot, notices, outputs⟩ := onFault_closing_loud (h.lease.trans hl) hs hn
    ⟨x, hx, by rwa [h.output l hl _ (mem_outputsOf_of_mem hx)]⟩
  refine ⟨by rw [h.final_slot, slot, h.slot], fun p => ?_, fun y hy => ?_⟩
  · rw [h.after.notices, notices, h.notices]
  · have mem := mem_outputsOf_of_mem hy
    rw [h.final_output hl mem, outputs, h.output l hl _ mem]

/-- A lease in CLOSING whose outputs are quiet is freed (R119). -/
theorem declareFault_closing_quiet (sound : s.Sound) (ht : s.touched = []) (r : FaultReason) (hl : s.lease? i = some l)
    (hs : l.state = .closing) (hn : l.engine = some e ∨ l.closingTarget = some e)
    (hq : ∀ x ∈ l.entries, ((s.output x.output).forced e).state = .quiet) :
    (s.declareFault e r).slot i = ⟨(s.slot i).gen, .retired l.home⟩ ∧
    s.Raised (s.declareFault e r) i l l.reason true ∧
    ∀ x ∈ l.entries, (s.declareFault e r).output x.output = ⟨none, .quiet⟩ := by
  obtain ⟨u, h⟩ := declareFault_reaches sound ht e r i
  obtain ⟨slot, notice, outputs⟩ := onFault_closing_quiet (h.lease.trans hl) h.fresh hs hn fun x hx => by
    rw [h.output l hl _ (mem_outputsOf_of_mem hx), hq x hx]
  exact ⟨by rw [h.final_slot, slot, h.slot], h.raised notice, fun x hx => by
    rw [h.final_output hl (mem_outputsOf_of_mem hx), outputs x hx]⟩

/-- A lease that does not count on the engine keeps its slot and its outputs. -/
theorem declareFault_unnamed (sound : s.Sound) (ht : s.touched = []) (r : FaultReason) (hl : s.lease? i = some l)
    (hc : l.countOn e = 0) : (s.declareFault e r).slot i = s.slot i ∧
      ∀ x ∈ l.entries, (s.declareFault e r).output x.output = s.output x.output := by
  obtain ⟨u, h⟩ := declareFault_reaches sound ht e r i
  have round : onFault e i u = u := onFault_unnamed fun k hk => by
    cases (h.lease.trans hl).symm.trans hk
    exact hc
  refine ⟨by rw [h.final_slot, round, h.slot], fun x hx => ?_⟩
  have mem := mem_outputsOf_of_mem hx
  rw [h.final_output hl mem, round, h.output l hl _ mem]
  refine State.Running.forced_of_untied (Bool.eq_false_iff.2 fun tied => ?_)
  exact absurd ((s.soundBut_none_iff.2 sound).tied_countOn hl mem tied) (by simp [hc])

/-- An output that was tied to the engine is quiet after the fault, where no migration goes on with it (R83). -/
theorem declareFault_tied_quiet (sound : s.Sound) (ht : s.touched = []) (r : FaultReason) {o : OutputId}
    (tied : (s.output o).state.tiedTo e = true) (ho : (s.output o).holder = some i) (hl : s.lease? i = some l)
    (hs : l.state ≠ .migrating) : ((s.declareFault e r).output o).state = .quiet := by
  have hsound := s.soundBut_none_iff.2 sound
  have hw := hsound.books.leases i l hl
  have mem := hsound.mem_of_holder hl ho
  obtain ⟨x, hx, rfl⟩ := List.mem_map.1 mem
  rcases hw.fault_cases (hsound.tied_countOn hl mem tied) with ⟨hc, hn⟩ | ⟨hc, he, hm⟩ | ⟨_, _, hmig, -⟩ | ⟨_, hmig, -⟩
  · by_cases hq : ∀ y ∈ l.entries, ((s.output y.output).forced e).state = .quiet
    · obtain ⟨-, -, outputs⟩ := declareFault_closing_quiet sound ht r hl hc hn hq
      rw [outputs x hx]
    · obtain ⟨-, -, outputs⟩ := declareFault_closing_loud sound ht r hl hc hn (by simpa using hq)
      rw [outputs x hx, OutputRec.forced_state_of_tied tied]
  · obtain ⟨-, -, outputs⟩ := declareFault_fails sound ht r hl he hc hm
    rw [outputs x hx]
  · exact absurd hmig hs
  · exact absurd hmig hs

end leases

end Sys2Proof.Machine

/-! ## The fault of an engine (R48, R51, R66, R71) -/

namespace Sys2Proof.Machine

section events

variable {s : State} {e : EngineId}

/-- When an acquisition timer's expiry faults its engine (R48, R52). -/
theorem EngineRec.expiryFault_acquiring {x : EngineRec} (hs : x.state = .acquiring)
    (ha : x.acquisition.standing = .running) :
    x.expiryFault = some (if x.kind = .first then .lockTimeout else .relockTimeout) := by
  simp [EngineRec.expiryFault, hs, ha]

theorem EngineRec.expiryFault_relock {x : EngineRec} (hs : x.state = .holdover) (hr : x.relock = true) :
    x.expiryFault = some .relockTimeout := by
  simp [EngineRec.expiryFault, hs, hr]

theorem EngineRec.expiryFault_none {x : EngineRec} (ha : ¬(x.state = .acquiring ∧ x.acquisition.standing = .running))
    (hh : ¬(x.state = .holdover ∧ x.relock = true)) : x.expiryFault = none := by
  unfold EngineRec.expiryFault
  split
  · rename_i hs
    exact if_neg fun h => ha ⟨hs, h⟩
  · rename_i hs
    exact if_neg fun h => hh ⟨hs, h⟩
  all_goals rfl

theorem State.acquisitionExpiry_some {r : FaultReason} (h : (s.engine e).expiryFault = some r) :
    s.acquisitionExpiry e = s.declareFault e r := by rw [State.acquisitionExpiry, h]

theorem State.acquisitionExpiry_none (h : (s.engine e).expiryFault = none) : s.acquisitionExpiry e = s := by
  rw [State.acquisitionExpiry, h]

theorem declareFault_deviceNotices (s : State) (e : EngineId) (r : FaultReason) :
    (s.declareFault e r).deviceNotices = { s.deviceNotices with
      engineFault := true, engines := s.deviceNotices.engines.set e.1 true e.2 } := by
  have notices := forEach_deviceNotices (fun i u => (OneSlot.refl i u).onFault e) allSlots (s.faultBegun e r)
  rw [s.faultBegun_deviceNotices] at notices
  rw [s.declareFault_eq, State.raiseEngineFault, notices]

end events

/-! ### The end of an event, which clears the marks -/

section unmarked

variable (s t : State) (i : SlotId) (e : EngineId) (o : OutputId) (p : Port)

theorem State.engine_unmarked : { t with touched := [] }.engine e = t.engine e := rfl
theorem State.output_unmarked : { t with touched := [] }.output o = t.output o := rfl
theorem State.slot_unmarked : { t with touched := [] }.slot i = t.slot i := rfl
theorem State.port_unmarked : { t with touched := [] }.port p = t.port p := by cases p <;> rfl

theorem State.atGoal_unmarked (l : Lease) (m : Migration) : { t with touched := [] }.AtGoal l m ↔ t.AtGoal l m :=
  Iff.rfl

theorem State.raised_unmarked (l : Lease) (r : Reason) (closed : Bool) :
    s.Raised { t with touched := [] } i l r closed ↔ s.Raised t i l r closed := by
  simp only [State.Raised, State.port_unmarked]

end unmarked

/-! ### The statement -/

/-- Settles O42: the timer that runs out declares the fault, which is applied slot by slot, each lease and its outputs
as the event found them. -/
theorem faultDeclared : Obligations.FaultDeclared := by
  intro s e ht
  refine ⟨fun hno => ?_, fun ha hh => ?_, fun row r sound hrow => ?_⟩
  · have hw : s.holdoverLimitReached e = s := if_neg (mt EngineRec.atHoldoverLimit_iff.1 hno)
    exact congrArg Host.Outcome.next (event_of_untouched ht hw ht)
  · have hw := State.acquisitionExpiry_none (EngineRec.expiryFault_none ha hh)
    exact congrArg Host.Outcome.next (event_of_untouched ht hw ht)
  have run : exec row s = .next { s.declareFault e r with touched := [] } := by
    rcases hrow with ⟨rfl, hs, ha, rfl⟩ | ⟨rfl, hs, hr, rfl⟩ | ⟨rfl, hs, hl, hle, rfl⟩
    · rw [← State.acquisitionExpiry_some (EngineRec.expiryFault_acquiring hs ha)]
      exact congrArg Host.Outcome.next (event_of_unmarked ht _)
    · rw [← State.acquisitionExpiry_some (EngineRec.expiryFault_relock hs hr)]
      exact congrArg Host.Outcome.next (event_of_unmarked ht _)
    · have hw : s.holdoverLimitReached e = s.declareFault e .holdoverLimit :=
        if_pos (EngineRec.atHoldoverLimit_iff.2 ⟨hs, hl, hle⟩)
      rw [← hw]
      exact congrArg Host.Outcome.next (event_of_unmarked ht _)
  refine ⟨{ s.declareFault e r with touched := [] }, run, ((LeaseWork.refl s).declareFault e r).touched [], ?_⟩
  simp only [State.engine_unmarked, State.output_unmarked, State.slot_unmarked, State.port_unmarked,
    State.atGoal_unmarked, State.raised_unmarked]
  exact ⟨declareFault_engine_own sound e r, fun f hf => declareFault_engine_other sound hf r,
    declareFault_deviceNotices s e r, declareFault_untied sound e r,
    fun o tied i l ho hl hs => declareFault_tied_quiet sound ht r tied ho hl hs,
    fun i l hl he hs hm => declareFault_fails sound ht r hl he hs hm,
    fun i l m g hl hs hm hg he => declareFault_source sound ht r hl hs hm hg he,
    fun i l m hl hs hm hg => ⟨fun he => declareFault_target_alone sound ht r hl hs hm hg he,
      fun g he => declareFault_target sound ht r hl hs hm hg he⟩,
    fun i l hl hs hn => ⟨fun hq => declareFault_closing_loud sound ht r hl hs hn hq,
      fun hq => declareFault_closing_quiet sound ht r hl hs hn hq⟩,
    fun i l hl hc => declareFault_unnamed sound ht r hl hc⟩

end Sys2Proof.Machine

/-! ## What the selector makes of an output (R73, R76 to R78, R83)

Every operation of the part writes the state of an output by a target, a completion or a forced quiet, or by none. -/

namespace Sys2Proof.Machine

/-- What the selector makes of an output's state, in any number of targets, completions and forced quiets (R76 to R78,
R83). -/
inductive OutState.Reaches (x : OutState) : OutState → Prop
  | refl : x.Reaches x
  | give {y : OutState} (t : Target) : x.Reaches y → x.Reaches (y.give t)
  | complete {y : OutState} : x.Reaches y → x.Reaches y.complete
  | quiet : x.Reaches .quiet

/-- Whatever the selector makes of a sound output is sound (R73). -/
theorem OutState.Reaches.sound {x y : OutState} (h : x.Reaches y) (hx : x.Sound) : y.Sound := by
  induction h with
  | refl => exact hx
  | give t _ ih => exact ih.give t
  | complete _ ih => exact ih.complete
  | quiet => trivial

/-- Every output of `t` is in a state that the selector makes of its state in `s`. -/
structure SelectorFrom (s t : State) : Prop where
  reaches : ∀ o, (s.output o).state.Reaches (t.output o).state

theorem State.OutputsSound.of_selectorFrom {s t : State} (h : s.OutputsSound) (k : SelectorFrom s t) : t.OutputsSound :=
  fun o => (k.reaches o).sound (h o)

/-- No target is given when an engine enters HOLDOVER, and a migration that settles then has its outputs where they
stand (R38, R95). -/
theorem onHoldover_output (e : EngineId) (i : SlotId) (s : State) (o : OutputId) :
    (onHoldover e i s).output o = s.output o := by
  unfold onHoldover
  split
  · rfl
  split
  swap
  · rfl
  split
  · simp
  · simp
  · simp
  · simp
  · split
    · simp
    · rfl
  all_goals rfl

namespace SelectorFrom

variable {s t u : State}

theorem refl (s : State) : SelectorFrom s s := ⟨fun _ => .refl⟩

/-- Work that leaves the output records. -/
theorem of_outputs (h : SelectorFrom s t) (hu : ∀ o, u.output o = t.output o) : SelectorFrom s u :=
  ⟨fun o => hu o ▸ h.reaches o⟩

/-! ### The writes of the selector -/

theorem setOutput (o : OutputId) {x : OutputRec} (hx : (s.output o).state.Reaches x.state) (h : SelectorFrom s t) :
    SelectorFrom s (t.setOutput o x) := ⟨fun b => by
  rw [State.output_setOutput]
  split
  · rename_i hb
    exact hb ▸ hx
  · exact h.reaches b⟩

theorem giveEach (want : OutState → Entry → Option Target) (es : List Entry) (h : SelectorFrom s t) :
    SelectorFrom s (t.giveEach want es) := by
  refine forEach_keeps (P := SelectorFrom s) _ (fun x u hu => ?_) es h
  split
  · exact hu
  · rename_i g _
    exact hu.setOutput _ ((hu.reaches x.output).give g)

theorem setHolders (k : Option SlotId) (es : List Entry) (h : SelectorFrom s t) : SelectorFrom s (t.setHolders k es) :=
  forEach_keeps (P := SelectorFrom s) _ (fun x _ hu => hu.setOutput _ (hu.reaches x.output)) es h

theorem forceQuietTied (e : EngineId) (h : SelectorFrom s t) : SelectorFrom s (t.forceQuietTied e) := ⟨fun o => by
  rw [State.forceQuietTied_output]
  rcases (t.output o).forced_state e with ⟨kept, -⟩ | quiet
  · exact kept ▸ h.reaches o
  · exact quiet ▸ .quiet⟩

/-! ### Writes that leave the outputs -/

theorem setLease (i : SlotId) (l : Lease) (h : SelectorFrom s t) : SelectorFrom s (t.setLease i l) :=
  h.of_outputs fun _ => rfl

theorem setEngine (e : EngineId) (x : EngineRec) (h : SelectorFrom s t) : SelectorFrom s (t.setEngine e x) :=
  h.of_outputs fun _ => rfl

theorem commit (r : AllocRequest) (e : EngineId) (h : SelectorFrom s t) : SelectorFrom s (t.commit r e) :=
  h.setEngine e _

theorem dropUser (e : Option EngineId) (h : SelectorFrom s t) : SelectorFrom s (t.dropUser e) :=
  h.of_outputs fun _ => by simp

theorem tell (told : Bool) (i : SlotId) (h : SelectorFrom s t) : SelectorFrom s (t.tell told i) :=
  h.of_outputs fun _ => by simp

theorem background (i : SlotId) (l : Lease) (st : LeaseState) (r : Reason) (h : SelectorFrom s t) :
    SelectorFrom s (t.background i l st r) :=
  h.of_outputs fun _ => by simp

theorem settle (told : Bool) (i : SlotId) (h : SelectorFrom s t) : SelectorFrom s (t.settle told i) :=
  h.of_outputs fun _ => by simp

theorem retire (i : SlotId) (l : Lease) (h : SelectorFrom s t) : SelectorFrom s (t.retire i l) :=
  h.of_outputs (t.retire_output i l)

theorem freeTold (i : SlotId) (l : Lease) (h : SelectorFrom s t) : SelectorFrom s (t.freeTold i l) :=
  h.of_outputs (t.freeTold_output i l)

/-! ### What befalls a lease -/

section lease

variable (e : EngineId) (i : SlotId) (l : Lease) (m : Migration)

theorem enter (h : SelectorFrom s t) : SelectorFrom s (t.enter i) := by
  unfold State.enter
  split
  · exact h
  split
  · exact h.setLease i _
  split
  · split
    · exact h.setLease i _
    · exact (h.setLease i _).giveEach _ _
  · exact h.setLease i _

theorem startPending (h : SelectorFrom s t) : SelectorFrom s (t.startPending e i l) := by
  unfold State.startPending
  split
  · exact h.background i l _ _
  · exact (h.background i _ _ _).giveEach _ _

theorem relock (h : SelectorFrom s t) : SelectorFrom s (t.relock e i l) := by
  unfold State.relock
  split
  · exact h.background i l _ _
  · exact h.giveEach _ _

theorem migrationLocked (h : SelectorFrom s t) : SelectorFrom s (t.migrationLocked e l m) := by
  unfold State.migrationLocked
  split
  · exact h.giveEach _ _
  · split
    · exact h.giveEach _ _
    split
    · exact h
    · exact h.giveEach _ _
  · exact h

theorem mute (h : SelectorFrom s t) : SelectorFrom s (t.mute l) := by
  unfold State.mute
  split
  · exact h.giveEach _ _
  · exact h

theorem migrationSlip (h : SelectorFrom s t) : SelectorFrom s (t.migrationSlip e l m) := by
  unfold State.migrationSlip
  split
  · exact h.mute l
  · split
    · exact h.giveEach _ _
    · exact h
  · exact h

theorem onLocked (h : SelectorFrom s t) : SelectorFrom s (Machine.onLocked e i t) := by
  unfold Machine.onLocked
  split
  · exact h
  split
  swap
  · exact h
  split
  · exact h.startPending e i _
  · exact h.relock e i _
  · split
    · exact (h.migrationLocked e _ _).settle false i
    · exact h
  all_goals exact h

theorem onSlip (h : SelectorFrom s t) : SelectorFrom s (Machine.onSlip e i t) := by
  unfold Machine.onSlip
  split
  · exact h
  split
  swap
  · exact h
  split
  · exact h.background i _ _ _
  · exact (h.background i _ _ _).mute _
  · exact (h.background i _ _ _).mute _
  · exact (h.background i _ _ _).mute _
  · split
    · exact ((h.background i _ _ _).migrationSlip e _ _).settle false i
    · exact h
  all_goals exact h

theorem onHoldover (h : SelectorFrom s t) : SelectorFrom s (Machine.onHoldover e i t) :=
  h.of_outputs (onHoldover_output e i t)

theorem giveUp (h : SelectorFrom s t) : SelectorFrom s (t.giveUp l) :=
  (((h.dropUser _).dropUser _).setHolders _ _).dropUser _

theorem closeIfQuiet (h : SelectorFrom s t) : SelectorFrom s (t.closeIfQuiet i) := by
  unfold State.closeIfQuiet
  split
  · exact h
  split
  · exact (h.giveUp _).retire i _
  · exact h

theorem endLease (told : Bool) (r : Reason) (h : SelectorFrom s t) : SelectorFrom s (t.endLease told r i l) := by
  unfold State.endLease
  split
  · dsimp only
    split
    · exact ((h.setLease i _).giveUp l).freeTold i l
    · exact ((h.setLease i _).giveUp l).retire i _
  · exact ((h.setLease i _).tell told i).giveEach _ _

theorem onCompletion (h : SelectorFrom s t) : SelectorFrom s (Machine.onCompletion i t) := by
  unfold Machine.onCompletion
  split
  · exact h
  split
  · split
    · exact h.background i _ _ _
    · exact h
  · split
    · exact h.background i _ _ _
    · exact h
  · exact h.settle false i
  · exact h.closeIfQuiet i
  all_goals exact h

/-! ### Faults -/

theorem sourceFault (h : SelectorFrom s t) : SelectorFrom s (t.sourceFault i l m) := by
  have moved := h.background i { l with engine := none } .migrating .engineFault
  unfold State.sourceFault
  dsimp only
  split
  · refine settle false i ?_
    split
    · exact moved.giveEach _ _
    · exact moved
  · exact moved

theorem targetFault (h : SelectorFrom s t) : SelectorFrom s (t.targetFault i l) := by
  unfold State.targetFault
  split
  · exact h.background i _ _ _
  dsimp only
  split
  · split
    · exact h.background i _ _ _
    · exact (h.background i _ _ _).giveEach _ _
  · exact h.background i _ _ _

theorem onFault (h : SelectorFrom s t) : SelectorFrom s (Machine.onFault e i t) := by
  have dropped := h.dropUser (some e)
  have plain (l : Lease) : SelectorFrom s (if l.runsFrom e then (t.dropUser (some e)).failLease i l else t) := by
    split
    · exact dropped.background i _ _ _
    · exact h
  unfold Machine.onFault
  split
  · exact h
  split
  · split
    · exact (dropped.setLease i _).closeIfQuiet i
    · exact h
  · split
    · exact h
    split
    · exact dropped.targetFault i _
    split
    · split
      · exact dropped.sourceFault i _ _
      · exact dropped.background i _ _ _
      · exact dropped.background i _ _ _
    · exact h
  iterate 5 exact plain _
  exact h

/-- A fault forces quiet what is tied to its engine, and the leases give their targets one after another (R66, R83). -/
theorem declareFault (r : FaultReason) (h : SelectorFrom s t) : SelectorFrom s (t.declareFault e r) :=
  (forEach_keeps (P := SelectorFrom s) (Machine.onFault e) (fun i _ hu => hu.onFault e i) allSlots
    ((h.setEngine e _).forceQuietTied e)).of_outputs (State.raiseEngineFault_output _ e)

end lease

/-! ### Completions and changes of selection -/

theorem reportCompletion (o : OutputId) (h : SelectorFrom s t) : SelectorFrom s (t.reportCompletion o) := by
  unfold State.reportCompletion
  split
  · exact h.onCompletion _
  · exact h

theorem announceSelection (h : SelectorFrom s t) : SelectorFrom s t.announceSelection := by
  unfold State.announceSelection
  refine forEach_keeps (P := SelectorFrom s) _ (fun e u hu => ?_) _
    (forEach_keeps (P := SelectorFrom s) _ (fun e u hu => hu.setEngine e _) _ h)
  split
  · exact forEach_keeps (P := SelectorFrom s) (Machine.onHoldover e) (fun i _ hv => hv.onHoldover e i) allSlots hu
  · exact hu

/-! ### The lease commands -/

section commands

variable (told : Bool) (i : SlotId) (l : Lease) (r : RetuneRequest) (e : EngineId)

theorem openAccepted (p : Port) (c : ClientId) (a : OpenArgs) (cs : List EngineClass) (h : SelectorFrom s t) :
    SelectorFrom s (t.openAccepted p c a cs i e) :=
  (((h.commit _ e).setLease i _).setHolders _ _).enter i

theorem startOne (p : Port) (h : SelectorFrom s t) : SelectorFrom s (t.startOne p i) := by
  unfold State.startOne
  split
  · exact h
  split
  · split
    · exact ((h.setLease i _).giveEach _ _).tell _ i
    · exact h
  · exact h.setLease i _

theorem rebind (h : SelectorFrom s t) : SelectorFrom s (t.rebind told i l r e) :=
  ((((h.commit _ e).dropUser _).setLease i _).enter i).tell told i

theorem retuneLocal (h : SelectorFrom s t) : SelectorFrom s (t.retuneLocal told i l r e) :=
  (((h.setLease i _).giveEach _ _).tell told i).settle told i

theorem retuneOverlap (h : SelectorFrom s t) : SelectorFrom s (t.retuneOverlap told i l r e) := by
  unfold State.retuneOverlap
  dsimp only
  split
  · exact ((((h.commit _ e).setLease i _).giveEach _ _).tell told i).settle told i
  · exact (((h.commit _ e).setLease i _).tell told i).settle told i

theorem retuneGap (h : SelectorFrom s t) : SelectorFrom s (t.retuneGap told i l r e) :=
  ((((h.setEngine e _).setLease i _).giveEach _ _).tell told i).settle told i

theorem retryAccepted (q : AllocRequest) (cls : LeaseClass) (pin : Option EngineId) (es : List Entry)
    (h : SelectorFrom s t) : SelectorFrom s (t.retryAccepted told i l q cls pin es e) :=
  (((h.commit q e).setLease i _).enter i).tell told i

end commands

end SelectorFrom

/-! ### Every step -/

theorem selectorFrom_stepClosed (s : State) : StepClosed (SelectorFrom s) where
  board k h := h.of_outputs k.outputs
  blank h := ⟨fun o => by rw [h.outputs]; exact .quiet⟩
  ticked e _ h := h.setEngine e _
  cleared e h _ := h.setEngine e _
  locked e h _ := forEach_keeps (P := SelectorFrom s) (onLocked e) (fun i _ hu => hu.onLocked e i) allSlots
    (h.setEngine e _)
  slipped e _ h _ := forEach_keeps (P := SelectorFrom s) (onSlip e) (fun i _ hu => hu.onSlip e i) allSlots
    (h.setEngine e _)
  faulted e r h _ := h.declareFault e r
  reselected h := h.announceSelection
  completed o h _ := (h.setOutput o (h.reaches o).complete).reportCompletion o
  opened p c a cs i e h _ := h.openAccepted i e p c a cs
  started p is h _ := forEach_keeps (P := SelectorFrom s) (State.startOne p) (fun i _ hu => hu.startOne i p) is h
  rewritten told i _ _ h _ _ _ := (h.setLease i _).tell told i
  rebound told i l r e h _ _ _ := h.rebind told i l r e
  redivided told i l r e h _ _ _ _ := h.retuneLocal told i l r e
  overlapped told i l r _ t h _ _ _ _ := h.retuneOverlap told i l r t
  quieted told i l r e h _ _ _ _ := h.retuneGap told i l r e
  ended told r i l h _ _ := h.endLease i l told r
  retried told i l q cls pin es e h _ := h.retryAccepted told i l e q cls pin es

/-- Settles O52: a step makes of an output what targets, completions and forced quiets make of it, each of which keeps
its changeover sound. -/
theorem stepKeepsOutputsSound : Obligations.StepKeepsOutputsSound :=
  fun s _ h hst => h.of_selectorFrom ((selectorFrom_stepClosed s).step (.refl s) hst)

end Sys2Proof.Machine

/-! ## FIND_OUTPUT (R88) -/

namespace Sys2Proof.Machine

section reads

variable {s : State} {o : OutputId}

@[simp] theorem State.seen_outputBytes (s : State) (p : Port) (o : OutputId) :
    (s.seen p).outputBytes o = s.outputBytes o := by
  cases p <;> rfl

theorem State.outputBytes_held {i : SlotId} (h : (s.output o).holder = some i) : s.outputBytes o =
    [byte o.1, (s.output o).state.code] ++ targetBytes (s.output o).state.source ++
      targetBytes (s.output o).state.target ++ targetBytes (s.output o).state.pendingTarget ++
      [byte i.1, (s.slot i).gen] := by
  simp only [State.outputBytes, h]
  rfl

/-- Without a holder the last byte is the next free value (log entry 8). -/
theorem State.outputBytes_free (h : (s.output o).holder = none) : s.outputBytes o =
    [byte o.1, (s.output o).state.code] ++ targetBytes (s.output o).state.source ++
      targetBytes (s.output o).state.target ++ targetBytes (s.output o).state.pendingTarget ++
      [0xFF#8, Config.freeByte s.freeCount] := by
  simp only [State.outputBytes, h]
  rfl

theorem State.afterFind_held {i : SlotId} (h : (s.output o).holder = some i) : s.afterFind o = s := by
  simp [State.afterFind, h]

theorem State.afterFind_free (h : (s.output o).holder = none) : s.afterFind o = s.drawFree := by
  simp [State.afterFind, h]

/-- A free value drawn goes unseen by the taking, and the answer hides the taking. -/
theorem State.seen_drawFree_answered (s : State) (p : Port) (c : HeldCommand) (st : Status) (body : List Byte) :
    (s.seen p).drawFree.answered p c st body = s.drawFree.answered p c st body := by
  cases p <;> rfl

end reads

/-- Settles O11: the run reads the output's record in the state it sees, and draws a free value for an absent holder
alone. -/
theorem findOutputReports : Obligations.FindOutputReports := by
  intro s p c o ht hc hb
  have run : runFindOutput p c (s.seen p) = .ok (replyOk ((s.seen p).afterFind o) (s.outputBytes o)) := by
    rw [runFindOutput, bodyOf_ok hb, ok_bind, State.seen_outputBytes]
    rfl
  refine ⟨fun i hi => congrArg Host.Outcome.next ?_,
    fun hn => ⟨Config.freeByte s.freeCount, congrArg Host.Outcome.next ?_⟩⟩
  · rw [State.afterFind_held ((congrArg _ (s.seen_output p o)).trans hi)] at run
    rw [← State.outputBytes_held hi]
    exact takeCode_reads ht hc run
  · rw [State.afterFind_free ((congrArg _ (s.seen_output p o)).trans hn)] at run
    rw [← State.outputBytes_free hn]
    exact (takeCode_answered ht hc run rfl (s.seen_lastServed p)).trans (s.seen_drawFree_answered p c .ok _)

end Sys2Proof.Machine

/-! ## A target given to an output (R76 to R78, R94) -/

namespace Sys2Proof.Machine

/-- What an output's changeovers come to: the standing that its heading names (R78, R94). -/
theorem OutState.completes_to_heading (st : OutState) :
    ∃ n : Nat, n ≤ 2 ∧ OutState.complete^[n] st = .ofTarget st.heading := by
  cases st with
  | quiet => exact ⟨0, by omega, rfl⟩
  | running e q => exact ⟨0, by omega, rfl⟩
  | changing src tgt w =>
    cases w with
    | none => exact ⟨1, by omega, rfl⟩
    | some t => exact ⟨2, by omega, rfl⟩

theorem OutState.give_changing (t src tgt : Target) (w : Option Target) : OutState.give t (.changing src tgt w) =
    if t = tgt then .changing src tgt none else .changing src tgt (some t) := by
  by_cases h : t = tgt <;> simp [OutState.give, h]

/-- Settles O46: the cases of R76 and R77 are those of the definition; a target given is headed, and what is headed is
reached by a completion for each changeover begun or waiting. -/
theorem targetGiven : Obligations.TargetGiven := by
  refine ⟨fun _ => rfl, fun _ _ _ => rfl, OutState.give_changing, fun _ _ _ => rfl, fun _ _ => rfl, fun _ _ => rfl, rfl,
    OutState.heading_give, fun st => ?_⟩
  obtain ⟨n, hn, settled⟩ := st.completes_to_heading
  refine ⟨n, hn, settled.trans ?_⟩
  cases st.heading with
  | quiet => rfl
  | clock e q => rfl

end Sys2Proof.Machine

/-! ## Changeovers at the pin (R73, R78, R80 to R82) -/

namespace Sys2Proof.Machine

/-! ### One clock -/

namespace Wave

variable {w : Wave} {t u k : Nat}

theorem since_add (w : Wave) (t k : Nat) : w.since (t + k) = (w.since t + k) % w.period := by
  unfold Wave.since
  rw [Nat.add_right_comm, Nat.mod_add_mod]

/-- Until it falls again a clock has fallen ever longer ago. -/
theorem since_add_of_lt (h : w.since t + k < w.period) : w.since (t + k) = w.since t + k := by
  rw [w.since_add, Nat.mod_eq_of_lt h]

theorem since_of_fall (hf : w.since t = 0) (hu : t ≤ u) (hk : u < t + w.period) : w.since u = u - t := by
  have later : w.since (t + (u - t)) = w.since t + (u - t) := since_add_of_lt (by omega)
  rwa [Nat.add_sub_cancel' hu, hf, Nat.zero_add] at later

/-- A clock falls where a whole number of its periods has passed since the moment that its record names. -/
theorem since_eq_zero_iff (h : 0 < w.half) : w.since t = 0 ↔ t ≡ w.fall [MOD w.period] := by
  have hlt : w.fall % w.period < w.period := Nat.mod_lt _ (by unfold Wave.period; omega)
  have full : w.fall + (w.period - w.fall % w.period) ≡ 0 [MOD w.period] :=
    calc w.fall + (w.period - w.fall % w.period)
        ≡ w.fall % w.period + (w.period - w.fall % w.period) [MOD w.period] := (Nat.mod_modEq _ _).symm.add_right _
      _ = w.period := by omega
      _ ≡ 0 [MOD w.period] := by simp [Nat.ModEq]
  have since : w.since t = 0 ↔ t + (w.period - w.fall % w.period) ≡ 0 [MOD w.period] := by
    simp [Wave.since, Nat.ModEq]
  rw [since]
  exact ⟨fun ht => (ht.trans full.symm).add_right_cancel' _, fun ht => (ht.add_right _).trans full⟩

/-- The falling edges of a clock, read off its levels. -/
theorem falls_at_iff (h : 0 < w.half) : w.high (u - 1) = true ∧ w.high u = false ↔ 0 < u ∧ w.since u = 0 := by
  cases u with
  | zero => simp
  | succ v => simpa using w.falls_iff h v

/-! ### The next falling edge -/

theorem lt_fallAfter (h : 0 < w.half) (t : Nat) : t < w.fallAfter t := by
  have := w.since_lt h t
  unfold Wave.fallAfter
  omega

theorem fallAfter_le (w : Wave) (t : Nat) : w.fallAfter t ≤ t + w.period := by
  unfold Wave.fallAfter
  omega

theorem fallFrom_le (w : Wave) (t : Nat) : w.fallFrom t ≤ t + w.period := by
  unfold Wave.fallFrom
  split
  · omega
  · exact w.fallAfter_le t

theorem no_fall_before_fallAfter (ht : t < u) (hu : u < w.fallAfter t) : w.since u ≠ 0 := by
  unfold Wave.fallAfter at hu
  have later : w.since (t + (u - t)) = w.since t + (u - t) := since_add_of_lt (by omega)
  rw [Nat.add_sub_cancel' ht.le] at later
  omega

theorem no_fall_before_fallFrom (ht : t ≤ u) (hu : u < w.fallFrom t) : w.since u ≠ 0 := by
  unfold Wave.fallFrom at hu
  split at hu
  · omega
  · rcases ht.eq_or_lt with rfl | ht
    · assumption
    · exact no_fall_before_fallAfter ht hu

/-! ### The halves of a period -/

theorem low_after_fall (hf : w.since t = 0) (hu : t ≤ u) (hk : u < t + w.half) : w.high u = false := by
  have := since_of_fall hf hu (by unfold Wave.period; omega)
  simp only [Wave.high, decide_eq_false_iff_not]
  omega

theorem high_after_low (hf : w.since t = 0) (hu : t + w.half ≤ u) (hk : u < t + w.half + w.half) :
    w.high u = true := by
  have := since_of_fall hf (by omega) (u := u) (by unfold Wave.period; omega)
  simp only [Wave.high, decide_eq_true_eq]
  omega

/-- A slower divided clock falls only where a faster one does, its divider being a multiple (R82). -/
theorem divided_falls_of_dvd {q r : Nat} (h : 0 < w.half) (hq : 0 < q) (hr : 0 < r) (hd : q ∣ r)
    (hf : (w.divided r).since u = 0) : (w.divided q).since u = 0 := by
  have periods : (w.divided q).period ∣ (w.divided r).period := by
    rw [Wave.divided_period, Wave.divided_period]
    exact Nat.mul_dvd_mul_left _ hd
  rw [since_eq_zero_iff (Nat.mul_pos h hr)] at hf
  rw [since_eq_zero_iff (Nat.mul_pos h hq)]
  exact hf.of_dvd periods

end Wave

/-! ### The phases of a changeover (R80) -/

section phases

variable {source target : Option Wave} {a b : Wave} {t u : Nat}

theorem holdingEnds_le (a b : Wave) (t : Nat) :
    holdingEnds (some a) (some b) t ≤ t + 2 * max a.period b.period := by
  have leaving := a.fallAfter_le t
  have holding := b.fallFrom_le (a.fallAfter t)
  simp only [holdingEnds, leavingEnds]
  omega

/-- The target clock falls at the changeover-done. -/
theorem since_holdingEnds (hb : 0 < b.half) (source : Option Wave) (t : Nat) :
    b.since (holdingEnds source (some b) t) = 0 :=
  b.since_fallFrom hb _

/-- The pin while leaving. -/
theorem pinDuring_leaving (h : u < leavingEnds source t) : pinDuring source target t u = source.any fun w => w.high u :=
  if_pos h

/-- The pin while holding. -/
theorem pinDuring_holding (h : leavingEnds source t ≤ u) (hu : u < holdingEnds source target t) :
    pinDuring source target t u = false := by
  rw [pinDuring, if_neg (by omega), if_pos hu]

theorem pinDuring_toward_quiet (h : leavingEnds source t ≤ u) : pinDuring source none t u = false :=
  pinDuring_done h

/-- The pin stays low over the changeover-done until the target clock rises. -/
theorem pinDuring_low_until_rise (hb : 0 < b.half) (h : leavingEnds source t ≤ u) (hu : u < firstRise source b t) :
    pinDuring source (some b) t u = false := by
  rcases Nat.lt_or_ge u (holdingEnds source (some b) t) with early | done
  · exact pinDuring_holding h early
  · rw [pinDuring_done done]
    exact Wave.low_after_fall (since_holdingEnds hb source t) done hu

/-- The first high phase after a changeover is whole. -/
theorem pinDuring_first_high (hb : 0 < b.half) (h : firstRise source b t ≤ u) (hu : u < firstRise source b t + b.half) :
    pinDuring source (some b) t u = true := by
  have done : holdingEnds source (some b) t ≤ u := (Nat.le_add_right _ _).trans h
  rw [pinDuring_done done]
  exact Wave.high_after_low (since_holdingEnds hb source t) h hu

/-- The low phase before it is as long as one of the target clock. -/
theorem half_le_firstRise_sub (source : Option Wave) (b : Wave) (t : Nat) :
    b.half ≤ firstRise source b t - leavingEnds source t := by
  have := leavingEnds_le_holdingEnds source (some b) t
  unfold firstRise
  omega

end phases

/-! ### The pin of a record -/

/-- A completion at the changeover-done is not seen at the pin: the record completed shows the target clock, the further
changeover that may begin there by its leaving (R78). -/
theorem OutState.pinAt_complete {vco : VcoClocks} {t u : Nat} {source target : Target} {waiting : Option Target}
    (done : holdingEnds (source.wave vco) (target.wave vco) t ≤ u)
    (next : waiting ≠ none → u < leavingEnds (target.wave vco) (holdingEnds (source.wave vco) (target.wave vco) t)) :
    (OutState.changing source target waiting).complete.pinAt vco (holdingEnds (source.wave vco) (target.wave vco) t) u =
      (OutState.changing source target waiting).pinAt vco t u := by
  rw [OutState.pinAt_changing, pinDuring_done done]
  cases waiting with
  | none => exact OutState.pinAt_ofTarget _ _ _ _
  | some w => exact pinDuring_leaving (next (by simp))

theorem OutState.pinAt_done {vco : VcoClocks} {t u : Nat} {source target : Target} {waiting : Option Target}
    (done : holdingEnds (source.wave vco) (target.wave vco) t ≤ u) {e : EngineId} {q : Nat} (ht : target = .clock e q) :
    (OutState.changing source target waiting).pinAt vco t u = ((vco e).divided q).high u := by
  rw [OutState.pinAt_changing, pinDuring_done done, ht]
  rfl

/-- Settles O48: the phases of R80 clock by clock, the pin of a record by them, and the dividers of one engine by their
common moment (log entry 29). -/
theorem changeoverHasNoRunt : Obligations.ChangeoverHasNoRunt := by
  intro a b t ha hb
  have leaving : t < leavingEnds (some a) t := Wave.lt_fallAfter ha t
  have holding := leavingEnds_le_holdingEnds (some a) (some b) t
  obtain ⟨sourceHigh, sourceLow⟩ := (Wave.falls_at_iff (u := leavingEnds (some a) t) ha).2
    ⟨by omega, a.since_fallAfter ha t⟩
  obtain ⟨targetHigh, targetLow⟩ := (Wave.falls_at_iff (u := holdingEnds (some a) (some b) t) hb).2
    ⟨by omega, since_holdingEnds hb (some a) t⟩
  refine ⟨a.fallAfter_le t, leaving, holding, holdingEnds_le a b t, a.fallAfter_le t, b.fallFrom_le t,
    fun target u hu => pinDuring_leaving hu, sourceHigh, sourceLow, fun u ht hu falls => ?_,
    fun u hu => pinDuring_toward_quiet hu, targetHigh, targetLow, fun u => pinDuring_low_until_rise hb,
    half_le_firstRise_sub (some a) b t, fun u hu => pinDuring_done hu, fun u => pinDuring_first_high hb,
    ⟨b.le_fallFrom t, ?_, fun ht => ?_, fun u ht hu falls => ?_, fun u hu ht => pinDuring_low_until_rise hb ht hu,
      fun u hu => pinDuring_done hu, fun u => pinDuring_first_high hb⟩,
    fun vco s o u hvco => ⟨fun hs => ?_, fun e q hs => ?_, fun source target waiting hs => ?_, rfl,
      fun e q hq => ⟨rfl, (vco e).divided_period q, fun r hr hd high low => ?_⟩⟩⟩
  · exact Wave.no_fall_before_fallAfter ht hu ((Wave.falls_at_iff ha).1 falls).2
  · exact Wave.low_after_fall (since_holdingEnds hb none t) le_rfl (by omega)
  · exact ((Wave.falls_at_iff hb).2 ⟨ht.trans_le (b.le_fallFrom t), since_holdingEnds hb none t⟩).1
  · exact Wave.no_fall_before_fallFrom ht hu ((Wave.falls_at_iff hb).1 falls).2
  · rw [State.pinAt, hs, OutState.pinAt_quiet]
  · rw [State.pinAt, hs, OutState.pinAt_running]
  · rw [State.pinAt, hs]
    exact ⟨rfl, rfl, fun done next => ⟨(OutState.pinAt_complete done next).symm, fun e q => OutState.pinAt_done done⟩⟩
  · obtain ⟨late, falls⟩ := (Wave.falls_at_iff (Nat.mul_pos (hvco e) hr)).1 ⟨high, low⟩
    exact (Wave.falls_at_iff (Nat.mul_pos (hvco e) hq)).2 ⟨late, Wave.divided_falls_of_dvd (hvco e) hq hr hd falls⟩

end Sys2Proof.Machine

/-! ## Work on a slot and the notice of it (R159)

A command that rewrites a lease tells the lease's home port in its response, or raises one notice there. -/

namespace Sys2Proof.Machine

/-- From `s` to `t` the lease of slot `i` may have been worked on, but no notice has been raised. -/
structure Unannounced (i : SlotId) (s t : State) : Prop where
  work : LeaseWork s t
  oneSlot : OneSlot i s t
  port : ∀ q, t.port q = s.port q
  touched : t.touched = s.touched

/-- From `s` to `t` slot `i` has become live with lease `k`. Where `told` its home port's notices stay, since the response
reports the change; elsewhere the event has raised one notice there (R159, R160). -/
structure Reports (told : Bool) (i : SlotId) (k : Lease) (s t : State) : Prop where
  work : LeaseWork s t
  oneSlot : OneSlot i s t
  lease : t.lease? i = some k
  silent : told = true → ∀ q, (t.port q).notices[i] = (s.port q).notices[i]
  raised : told = false → s.Raised t i k k.reason false
  marked : told = false → i ∈ t.touched

section reports

variable {s t u : State} {i : SlotId} {k k' : Lease} {told : Bool}

namespace Unannounced

theorem refl (i : SlotId) (s : State) : Unannounced i s s := ⟨.refl s, .refl i s, fun _ => rfl, rfl⟩

theorem setLease (l : Lease) (h : Unannounced i s t) : Unannounced i s (t.setLease i l) :=
  ⟨h.work.setLease i l, h.oneSlot.setLease l, by simpa using h.port, h.touched⟩

theorem setEngine (e : EngineId) (x : EngineRec) (h : Unannounced i s t) : Unannounced i s (t.setEngine e x) :=
  ⟨h.work.setEngine e x, h.oneSlot.setEngine e x, by simpa using h.port, h.touched⟩

theorem commit (r : AllocRequest) (e : EngineId) (h : Unannounced i s t) : Unannounced i s (t.commit r e) :=
  h.setEngine e _

theorem dropUser (e : Option EngineId) (h : Unannounced i s t) : Unannounced i s (t.dropUser e) :=
  ⟨h.work.dropUser e, h.oneSlot.dropUser e, by simpa using h.port, by simpa using h.touched⟩

theorem giveEach (want : OutState → Entry → Option Target) (es : List Entry) (h : Unannounced i s t) :
    Unannounced i s (t.giveEach want es) :=
  ⟨h.work.giveEach want es, h.oneSlot.giveEach want es, by simpa using h.port, by simpa using h.touched⟩

theorem finishMigration (l : Lease) (m : Migration) (h : Unannounced i s t) :
    Unannounced i s (t.finishMigration i l m) :=
  ⟨h.work.finishMigration i l m, h.oneSlot.finishMigration l m, by simpa using h.port, by simpa using h.touched⟩

/-- The first report of an event. -/
theorem tell (h : Unannounced i s t) (hk : t.lease? i = some k) (ht : i ∉ s.touched) (told : Bool) :
    Reports told i k s (t.tell told i) := by
  refine ⟨h.work.tell told i, h.oneSlot.tell told, by simpa using hk, ?_, ?_, ?_⟩
  · rintro rfl q
    rw [State.tell, if_pos rfl, h.port]
  · rintro rfl
    exact (State.raise_raised hk (h.touched ▸ ht) false).of_left (fun q => by rw [h.port]) h.oneSlot.gen
  · rintro rfl
    rw [State.tell, if_neg Bool.false_ne_true, State.raise_touched _ _ _ hk]
    exact List.mem_cons_self

end Unannounced

namespace Reports

/-- A later report of the same event: one change, with the later reason (R160). -/
theorem again (h : Reports told i k s t) (hu : Unannounced i t u) (hk : u.lease? i = some k') (home : k'.home = k.home) :
    Reports told i k' s (u.tell told i) := by
  refine ⟨h.work.trans (hu.work.tell told i), h.oneSlot.trans (hu.oneSlot.tell told), by simpa using hk, ?_, ?_, ?_⟩
  · rintro rfl q
    rw [State.tell, if_pos rfl, hu.port, h.silent rfl]
  · rintro rfl
    have marked : i ∈ u.touched := hu.touched ▸ h.marked rfl
    have raised := ((h.raised rfl).to_right fun q => by rw [hu.port]).again hk home marked false
    unfold State.Raised at raised ⊢
    rwa [home]
  · rintro rfl
    rw [State.tell, if_neg Bool.false_ne_true, State.raise_touched _ _ _ hk]
    exact List.mem_cons_self

theorem slot (h : Reports told i k s t) : t.slot i = ⟨(s.slot i).gen, .live k⟩ := by
  rw [← h.oneSlot.gen, ← State.standing_of_lease h.lease]

/-- Who is told: nobody but the home port, and not by a notice where the command came from there. -/
theorem kept {p : Port} (h : Reports (p = k.home) i k s t) {q : Port} {j : SlotId}
    (hq : k.home = p ∨ q ≠ k.home ∨ j ≠ i) : (t.port q).notices[j] = (s.port q).notices[j] := by
  by_cases hj : j = i
  · subst hj
    by_cases hp : p = k.home
    · exact h.silent (decide_eq_true hp) q
    · have hq : q = k.home.other := by
        have hq : q ≠ k.home := by simpa [Ne.symm hp] using hq
        revert hq
        cases q <;> cases k.home <;> simp [Port.other]
      rw [hq]
      exact (h.raised (decide_eq_false hp)).2
  · exact h.oneSlot.notices q j hj

theorem notice {p : Port} (h : Reports (p = k.home) i k s t) (hp : k.home ≠ p) : (t.port k.home).notices[i] =
    some (raisedNotice (s.port k.home).notices[i] false (s.slot i).gen k.reason false) :=
  (h.raised (decide_eq_false hp.symm)).1

end Reports

/-! ### A migration that may settle in its own command (R95) -/

variable {m : Migration}

@[simp] theorem State.tell_isLocked (s : State) (told : Bool) (i : SlotId) (e : EngineId) :
    (s.tell told i).isLocked e = s.isLocked e := by
  simp only [State.isLocked, State.tell_engine]

@[simp] theorem State.tell_engineLeft (s : State) (told : Bool) (i : SlotId) (m : Migration) (x : EngineRec) :
    (s.tell told i).engineLeft m x = s.engineLeft m x := by
  have work := (LeaseWork.refl s).tell told i
  simp only [State.engineLeft, work.params, work.selection]

theorem State.tell_atGoal (s : State) (told : Bool) (i : SlotId) (l : Lease) (m : Migration) :
    (s.tell told i).AtGoal l m ↔ s.AtGoal l m := by
  simp only [State.AtGoal, State.tell_output, State.tell_engine]

theorem State.tell_settle_of_not_atGoal (hk : t.lease? i = some k) (hm : k.migration = some m) (hg : ¬t.AtGoal k m)
    (told : Bool) : (t.tell told i).settle told i = t.tell told i :=
  State.settle_of_not_atGoal (by simpa using hk) hm (mt (t.tell_atGoal told i k m).1 hg) told

theorem State.tell_settle_of_atGoal (hk : t.lease? i = some k) (hs : k.state = .migrating) (hm : k.migration = some m)
    (hg : t.AtGoal k m) (told : Bool) :
    (t.tell told i).settle told i = ((t.tell told i).finishMigration i k m).tell told i :=
  State.settle_of_atGoal (by simpa using hk) hs hm ((t.tell_atGoal told i k m).2 hg) told

/-- Lease `k` after the check of its migration `m`, `locked` telling whether the engine that then serves it is LOCKED
(R95). -/
def Lease.checked (k : Lease) (m : Migration) (settled locked : Bool) : Lease :=
  if settled then k.migrated m locked else k

@[simp] theorem Lease.checked_home (k : Lease) (m : Migration) (settled locked : Bool) :
    (k.checked m settled locked).home = k.home := by
  unfold Lease.checked
  split <;> rfl

/-- Without a target a lease is served by its own engine, its migration settled or not. -/
theorem Lease.checked_own (hm : k.migration = some m) (ht : m.target = none) (hmode : m.mode ≠ .overlap)
    (settled locked : Bool) : (k.checked m settled locked).migrationTarget = none ∧
      (k.checked m settled locked).engine = k.engine := by
  unfold Lease.checked
  split
  · simp [Lease.migrated, Lease.migrationTarget, hmode]
  · simp [Lease.migrationTarget, hm, ht]

/-- The report of a change and the check of the migration that it began; `g` serves the lease once it has settled. -/
theorem Unannounced.checks {g : EngineId} (h : Unannounced i s t) (hk : t.lease? i = some k) (ht : i ∉ s.touched)
    (hs : k.state = .migrating) (hm : k.migration = some m)
    (served : (if m.mode = .overlap then m.target else k.engine) = some g)
    (hd : m.mode = .overlap → m.target ≠ k.engine) (told : Bool) :
    Reports told i (k.checked m (t.settled k m) (t.isLocked g)) s ((t.tell told i).settle told i) := by
  unfold Lease.checked
  split
  · rename_i hg
    rw [State.tell_settle_of_atGoal hk hs hm ((t.settled_iff_atGoal k m).1 hg)]
    refine (h.tell hk ht told).again ((Unannounced.refl i _).finishMigration k m) ?_ rfl
    rw [State.lease?, (t.tell told i).finishMigration_slot i served hd, State.tell_isLocked]
    rfl
  · rename_i hg
    rw [State.tell_settle_of_not_atGoal hk hm (mt (t.settled_iff_atGoal k m).2 hg)]
    exact h.tell hk ht told

theorem State.tell_settle_engine (hk : t.lease? i = some k) (hs : k.state = .migrating) (hm : k.migration = some m)
    (hg : t.AtGoal k m) (told : Bool) (f : EngineId) : ((t.tell told i).settle told i).engine f =
      if k.engine = some f then t.engineLeft m (t.engine f) else t.engine f := by
  rw [State.tell_settle_of_atGoal hk hs hm hg, State.tell_engine, State.finishMigration_engine, State.tell_engine,
    State.tell_engineLeft]

end reports

end Sys2Proof.Machine

/-! ## RETUNE: its checks, its cases and its reply (R89 to R91) -/

namespace Sys2Proof.Machine

section retune

variable {s t : State} {p : Port} {c : HeldCommand} {a : RetuneArgs} {i : SlotId} {l k : Lease} {r : RetuneRequest}
  {e : EngineId} {told : Bool} {st : Status}

/-! ### What the checks have established -/

namespace State.RetuneChecked

theorem lease (h : s.RetuneChecked p c a i l r) : s.lease? i = some l := (State.reach_eq_some_iff.1 h.handle).2.2

theorem entries (h : s.RetuneChecked p c a i l r) : EntriesOk r.entries := by
  rw [h.request]
  exact readRetune_entries h.body

theorem listed (h : s.RetuneChecked p c a i l r) : outputsOf r.entries = outputsOf l.entries := by
  rw [h.request]
  exact h.outputs

theorem carried (h : s.RetuneChecked p c a i l r) : r.carried = a.cls := by rw [h.request]

theorem cls (h : s.RetuneChecked p c a i l r) : r.carried.getD l.cls = r.cls := by rw [h.request]

/-- The run of a RETUNE that passes its checks is its case (R91), judged in the state that the run sees. -/
theorem run (h : s.RetuneChecked p c a i l r) : runRetune p c (s.seen p) = (s.seen p).retuneCase (p = l.home) i l r := by
  have classes := h.classes
  obtain rfl := h.request
  rw [runRetune_owned h.body (by rw [s.seen_reach]; exact h.handle) h.owner,
    (LeaseState.retunable_iff l.state).2 h.state, ensure_true, ok_bind, sameOutputs_eq_ok_iff (u := ()).2 h.outputs,
    ok_bind, State.seen_params, rangeChecks_ok classes h.range, ok_bind]

theorem refused (h : s.RetuneChecked p c a i l r)
    (hd : (s.seen p).retuneCase (p = l.home) i l r = .error (denied st)) :
    exec .retune s = .next (s.answered p c st [0xFF#8]) :=
  congrArg _ (takeCode_refused h.takes h.code (h.run.trans hd))

end State.RetuneChecked

/-! ### The reply -/

/-- What a RETUNE reports of a lease: state, migration mode, engine (R89, R182). -/
def Lease.retuneReport (k : Lease) : List Byte := [k.state.code, k.modeByte, engineByte k.reportedEngine]

theorem retuneReply_eq (hk : t.lease? i = some k) (st : Status) :
    retuneReply st i t = ⟨t, st, k.retuneReport, false⟩ := by
  rw [retuneReply, hk]
  rfl

theorem Lease.retuneReport_settled (h : k.migration = none) :
    k.retuneReport = [k.state.code, 0#8, engineByte k.engine] := by
  simp [Lease.retuneReport, Lease.modeByte, Lease.reportedEngine, Lease.migrationTarget, h]

/-- A migration without a target reports the lease's own engine. -/
theorem Lease.retuneReport_own (h : k.migrationTarget = none) (he : k.engine = some e) :
    k.retuneReport = [k.state.code, k.modeByte, byte e.1] := by
  simp [Lease.retuneReport, Lease.reportedEngine, h, he, engineByte]

/-- A RETUNE is answered with `st` and `body` and ends in `t`, its lease `l` having become `k`. -/
structure State.Retuned (s : State) (p : Port) (c : HeldCommand) (i : SlotId) (l : Lease) (st : Status)
    (body : List Byte) (k : Lease) (t : State) : Prop where
  executed : exec .retune s = .next t
  work : LeaseWork (s.answered p c st body) t
  deviceNotices : t.deviceNotices = s.deviceNotices
  touched : t.touched = []
  slot : t.slot i = ⟨(s.slot i).gen, .live k⟩
  others : ∀ j, j ≠ i → t.slot j = s.slot j
  kept : ∀ q (j : SlotId), l.home = p ∨ q ≠ l.home ∨ j ≠ i → (t.port q).notices[j] = (s.port q).notices[j]
  notice : l.home ≠ p → (t.port l.home).notices[i] =
    some (raisedNotice (s.port l.home).notices[i] false (s.slot i).gen k.reason false)

theorem State.RetuneChecked.retuned (h : s.RetuneChecked p c a i l r)
    (hr : (s.seen p).retuneCase (p = l.home) i l r = .ok (retuneReply st i t))
    (ht : Reports (p = l.home) i k (s.seen p) t) (home : k.home = l.home) {body : List Byte}
    (hb : k.retuneReport = body) : s.Retuned p c i l st body k (t.answered p c st body) := by
  have run := h.run.trans hr
  rw [retuneReply_eq ht.lease, hb] at run
  rw [← home] at ht
  refine ⟨congrArg _ (takeCode_answered h.takes h.code run rfl ht.work.lastServed), ht.work.taken c st _, ?_, rfl, ?_,
    fun j hj => ?_, fun q j => ?_, ?_⟩
  · rw [State.answered_deviceNotices, ht.oneSlot.deviceNotices, State.seen_deviceNotices]
  · rw [State.answered_slot, ht.slot, State.seen_slot]
  · rw [State.answered_slot, ht.oneSlot.slots j hj, State.seen_slot]
  · rw [← home, State.answered_notices, ← s.seen_notices p]
    exact ht.kept
  · rw [← home, State.answered_notices, ← s.seen_notices p, ← s.seen_slot p]
    exact ht.notice

@[simp] theorem State.seen_isLocked (s : State) (p : Port) (e : EngineId) : (s.seen p).isLocked e = s.isLocked e := by
  simp only [State.isLocked, State.seen_engine]

theorem State.seen_unmarked (s : State) (p : Port) (i : SlotId) : i ∉ (s.seen p).touched := by simp

/-! ### The cases (R91) -/

theorem retuneCase_same (hs : l.servedUnder r = true) (hu : l.unchangedBy r = true) :
    s.retuneCase told i l r = .ok (retuneReply .samePlan i s) := by
  simp [State.retuneCase, hs, hu]

theorem retuneCase_inPlace (hs : l.servedUnder r = true) (hu : l.unchangedBy r = false)
    (hl : l.state = .pending ∨ l.state = .ready) :
    s.retuneCase told i l r = .ok (retuneReply .ok i (s.retuneInPlace told i l r)) := by
  simp [State.retuneCase, hs, hu, hl]

/-- Off its engine a lease that does not run asks for another (R93). -/
theorem retuneCase_off (hs : l.servedUnder r = false) (hl : l.state = .pending ∨ l.state = .ready) :
    s.retuneCase told i l r = (do
      let e ← granted (s.ask (r.alloc l))
      return retuneReply .ok i (s.rebind told i l r e)) := by
  simp [State.retuneCase, hs, hl]

theorem LeaseState.not_waiting_of_running {x : LeaseState} (h : x = .active ∨ x = .disturbed) :
    ¬(x = .pending ∨ x = .ready) := by
  rcases h with rfl | rfl <;> simp

theorem retuneCase_local (hs : l.servedUnder r = true) (hu : l.unchangedBy r = false)
    (hl : l.state = .active ∨ l.state = .disturbed) (he : l.engine = some e) :
    s.retuneCase told i l r = .ok (retuneReply .ok i (s.retuneLocal told i l r e)) := by
  simp [State.retuneCase, hs, hu, LeaseState.not_waiting_of_running hl, he]

theorem retuneCase_moveOff (hs : l.servedUnder r = false) (hl : l.state = .active ∨ l.state = .disturbed)
    (he : l.engine = some e) : s.retuneCase told i l r = s.moveOff told i l r e := by
  simp [State.retuneCase, hs, LeaseState.not_waiting_of_running hl, he]

end retune

end Sys2Proof.Machine

/-! ## RETUNE of a lease that does not run: SAME_PLAN, in place, rebound (R91 to R93) -/

namespace Sys2Proof.Machine

@[simp] theorem State.answered_outputs (t : State) (p : Port) (c : HeldCommand) (st : Status) (body : List Byte) :
    (t.answered p c st body).outputs = t.outputs := by cases p <;> rfl

@[simp] theorem State.tell_engines (s : State) (told : Bool) (i : SlotId) : (s.tell told i).engines = s.engines := by
  unfold State.tell
  split <;> simp

@[simp] theorem State.tell_outputs (s : State) (told : Bool) (i : SlotId) : (s.tell told i).outputs = s.outputs := by
  unfold State.tell
  split <;> simp

/-- Settles O24: SAME_PLAN replies in the state that the run sees; in place the lease is written, and one report made. -/
theorem retuneInPlace : Obligations.RetuneInPlace := by
  intro s p c a i l r h hs hm
  refine ⟨fun hu => ?_, fun hu hl => ?_⟩
  · have run := h.run.trans (retuneCase_same hs hu)
    rw [retuneReply_eq ((s.seen_lease p i).trans h.lease), Lease.retuneReport_settled hm] at run
    exact congrArg _ ((takeCode_answered h.takes h.code run rfl (s.seen_lastServed p)).trans (s.seen_answered p c _ _))
  · have written := ((Unannounced.refl i (s.seen p)).setLease (l.rewritten r)).tell (State.lease_setLease_same _ _ _)
      (s.seen_unmarked p i) (p = l.home)
    have out := h.retuned (retuneCase_inPlace hs hu hl) written rfl (Lease.retuneReport_settled hm)
    refine ⟨_, out.executed, out.work, out.deviceNotices, ?_, ?_, out.touched, out.slot, out.others, out.kept,
      out.notice⟩
    · simp [State.retuneInPlace]
    · simp [State.retuneInPlace]

section rebind

variable {s : State} {i : SlotId} {l : Lease} {r : RetuneRequest} {e old : EngineId} {told : Bool}

/-- The request committed to engine `e`, and the lease's user dropped from the engine it leaves (R93). -/
def State.exchanged (s : State) (l : Lease) (r : RetuneRequest) (e : EngineId) : State :=
  (s.commit (r.alloc l) e).dropUser l.engine

/-- The lease rebound to engine `e`, in the state it enters there (R93). -/
def Lease.rebound (l : Lease) (r : RetuneRequest) (e : EngineId) (st : LeaseState) : Lease :=
  { l.rewritten r with state := st, plan := r.plan, engine := some e }

/-- The state that a rebound lease enters (R30, R93). -/
def State.reboundState (s : State) (l : Lease) (r : RetuneRequest) (e : EngineId) : LeaseState :=
  startState ((s.exchanged l r e).isLocked e) l.flags.heldStart

/-- A rebind up to its report. -/
def State.reboundTo (s : State) (i : SlotId) (l : Lease) (r : RetuneRequest) (e : EngineId) : State :=
  let t := (s.exchanged l r e).setLease i (l.rebound r e (s.reboundState l r e))
  if s.reboundState l r e = .starting then t.giveEach (wantClock e) r.entries else t

theorem State.rebind_eq (told : Bool) : s.rebind told i l r e = (s.reboundTo i l r e).tell told i := by
  rw [State.rebind, State.setLease_enter _ _ (e := e) rfl]
  simp only [State.reboundTo, State.reboundState, startState_eq_starting]
  rfl

theorem State.reboundTo_unannounced (s : State) (i : SlotId) (l : Lease) (r : RetuneRequest) (e : EngineId) :
    Unannounced i s (s.reboundTo i l r e) := by
  have written := (((Unannounced.refl i s).commit (r.alloc l) e).dropUser l.engine).setLease
    (l.rebound r e (s.reboundState l r e))
  unfold State.reboundTo
  dsimp only
  split
  · exact written.giveEach _ _
  · exact written

theorem State.reboundTo_lease (s : State) (i : SlotId) (l : Lease) (r : RetuneRequest) (e : EngineId) :
    (s.reboundTo i l r e).lease? i = some (l.rebound r e (s.reboundState l r e)) := by
  unfold State.reboundTo
  dsimp only
  split <;> simp

theorem State.reboundTo_engine (s : State) (i : SlotId) (l : Lease) (r : RetuneRequest) (e f : EngineId) :
    (s.reboundTo i l r e).engine f = (s.exchanged l r e).engine f := by
  unfold State.reboundTo
  dsimp only
  split <;> simp

/-- A STARTING lease has its outputs given their targets on the new engine (R31, R93). -/
theorem State.reboundTo_output (hn : (outputsOf r.entries).Nodup) {x : Entry} (hx : x ∈ r.entries) :
    (s.reboundTo i l r e).output x.output =
      if s.reboundState l r e = .starting then (s.output x.output).given (.clock e x.divider)
      else s.output x.output := by
  unfold State.reboundTo
  dsimp only
  split
  · rw [State.giveEach_wantClock_output _ e hn hx, State.output_setLease, State.exchanged, State.dropUser_output,
      State.commit_output]
  · rw [State.output_setLease, State.exchanged, State.dropUser_output, State.commit_output]

theorem State.reboundTo_output_not_mem {o : OutputId} (ho : o ∉ outputsOf r.entries) :
    (s.reboundTo i l r e).output o = s.output o := by
  unfold State.reboundTo
  dsimp only
  split
  · rw [State.giveEach_output_not_mem _ _ _ ho, State.output_setLease, State.exchanged, State.dropUser_output,
      State.commit_output]
  · rw [State.output_setLease, State.exchanged, State.dropUser_output, State.commit_output]

theorem State.exchanged_engine (he : l.engine = some old) (hne : e ≠ old) (f : EngineId) :
    (s.exchanged l r e).engine f =
      if f = e then (s.engine e).commit (r.alloc l) s.selection.isSome s.params.acqLimit
      else if f = old then (s.engine old).dropUser s.params.linger else s.engine f := by
  simp only [State.exchanged, State.dropUser_engine, State.commit_engine, he, Option.some.injEq]
  by_cases hf : f = e
  · subst hf
    simp [Ne.symm hne]
  · by_cases ho : f = old
    · subst ho
      simp [hf]
      rfl
    · simp [hf, ho, Ne.symm ho]

end rebind

/-- Settles O25: the allocation refuses, or the engine it finds is exchanged for the old one, the lease entered on it. -/
theorem retuneRebinds : Obligations.RetuneRebinds := by
  intro s p c a i l r old h hs hl hm he
  have alloc : r.alloc l = ⟨r.plan, r.classes, l.flags.exclusive, r.pin, some old⟩ := by rw [RetuneRequest.alloc, he]
  refine ⟨fun st ha => h.refused ?_, fun e ha => ?_⟩
  · rw [retuneCase_off hs hl, State.seen_ask, alloc, ha]
    rfl
  have hne : e ≠ old := fun heo => (State.ask_serves ha).2.1 (heo ▸ rfl)
  have run : (s.seen p).retuneCase (p = l.home) i l r =
      .ok (retuneReply .ok i ((s.seen p).rebind (p = l.home) i l r e)) := by
    rw [retuneCase_off hs hl, State.seen_ask, alloc, ha]
    rfl
  rw [State.rebind_eq] at run
  have out := h.retuned run (((s.seen p).reboundTo_unannounced i l r e).tell ((s.seen p).reboundTo_lease i l r e)
    (s.seen_unmarked p i) (p = l.home)) rfl (Lease.retuneReport_settled hm)
  have engine (f : EngineId) := ((s.seen p).reboundTo_engine i l r e f).trans (State.exchanged_engine he hne f)
  simp only [State.seen_engine, State.seen_selection, State.seen_params, alloc] at engine
  have nodup := h.entries.nodup
  refine ⟨_, (s.seen p).reboundState l r e, ?_, out.executed, out.work, out.deviceNotices, out.touched, out.slot,
    out.others, hne, ?_, ?_, fun f hfe hfo => ?_, fun x hx => ?_, fun o ho => ?_, out.kept, out.notice⟩
  · rw [State.answered_isLocked, State.tell_isLocked, State.isLocked, State.reboundTo_engine]
    rfl
  · rw [State.answered_engine, State.tell_engine, engine, if_pos rfl]
  · rw [State.answered_engine, State.tell_engine, engine, if_neg hne.symm, if_pos rfl]
  · rw [State.answered_engine, State.tell_engine, engine, if_neg hfe, if_neg hfo]
  · rw [State.answered_output, State.tell_output, State.reboundTo_output nodup hx, State.seen_output]
  · rw [State.answered_output, State.tell_output, State.reboundTo_output_not_mem ho, State.seen_output]

end Sys2Proof.Machine

/-! ## RETUNE of a running lease on its own engine: a LOCAL migration (R96, R97) -/

namespace Sys2Proof.Machine

/-- The lease that begins a migration (R96, R98, R104). -/
def Lease.migrating (l : Lease) (m : Migration) : Lease := { l with state := .migrating, migration := some m }

theorem State.giveEach_wantNewDivider_output (s : State) (e : EngineId) {listed es : List Entry}
    (hn : (outputsOf es).Nodup) {x : Entry} (hx : x ∈ es) :
    (s.giveEach (wantNewDivider e listed) es).output x.output =
      if x ∉ listed ∧ (s.output x.output).state.heading ≠ .quiet then (s.output x.output).given (.clock e x.divider)
      else s.output x.output := by
  rw [s.giveEach_output _ _ hn hx]
  by_cases hm : x ∈ listed
  · simp [giveRec, wantNewDivider, hm]
  · by_cases hq : (s.output x.output).state.heading = .quiet <;> simp [giveRec, wantNewDivider, hm, hq]

section redivided

variable {s : State} {i : SlotId} {l : Lease} {r : RetuneRequest} {e : EngineId}

/-- A LOCAL migration up to its report. -/
def State.redivided (s : State) (i : SlotId) (l : Lease) (r : RetuneRequest) (e : EngineId) : State :=
  (s.beginMigration i l (r.migration .loc none)).giveEach (wantNewDivider e l.entries) r.entries

theorem State.retuneLocal_output (told : Bool) (o : OutputId) :
    (s.retuneLocal told i l r e).output o = (s.redivided i l r e).output o := by
  rw [State.retuneLocal, State.settle_output, State.tell_output]
  rfl

theorem State.redivided_unannounced (s : State) (i : SlotId) (l : Lease) (r : RetuneRequest) (e : EngineId) :
    Unannounced i s (s.redivided i l r e) :=
  ((Unannounced.refl i s).setLease _).giveEach _ _

theorem State.redivided_lease (s : State) (i : SlotId) (l : Lease) (r : RetuneRequest) (e : EngineId) :
    (s.redivided i l r e).lease? i = some (l.migrating (r.migration .loc none)) := by
  rw [State.redivided, State.giveEach_lease]
  exact State.lease_setLease_same _ _ _

@[simp] theorem State.redivided_engines (s : State) (i : SlotId) (l : Lease) (r : RetuneRequest) (e : EngineId) :
    (s.redivided i l r e).engines = s.engines :=
  State.giveEach_engines _ _ _

theorem State.redivided_output (hn : (outputsOf r.entries).Nodup) {x : Entry} (hx : x ∈ r.entries) :
    (s.redivided i l r e).output x.output =
      if x ∉ l.entries ∧ (s.output x.output).state.heading ≠ .quiet then
        (s.output x.output).given (.clock e x.divider)
      else s.output x.output :=
  State.giveEach_wantNewDivider_output _ e hn hx

theorem State.redivided_output_not_mem {o : OutputId} (ho : o ∉ outputsOf r.entries) :
    (s.redivided i l r e).output o = s.output o :=
  State.giveEach_output_not_mem _ _ _ ho

theorem State.isLocked_congr {t : State} (h : t.engines = s.engines) : t.isLocked e = s.isLocked e := by
  unfold State.isLocked State.engine
  rw [h]

/-- When a LOCAL migration settles at once (R97). -/
theorem State.redivided_settled_iff (he : l.engine = some e) :
    (s.redivided i l r e).settled (l.migrating (r.migration .loc none)) (r.migration .loc none) = true ↔
      ∀ x ∈ r.entries, ((s.redivided i l r e).output x.output).state = .running e x.divider ∨
        (((s.redivided i l r e).output x.output).state = .quiet ∧ s.isLocked e = false) := by
  rw [State.settled_iff_atGoal, ← State.isLocked_congr (s.redivided_engines i l r e)]
  simp [State.AtGoal, RetuneRequest.migration, Lease.migrating, he, State.isLocked]

/-- The end of a LOCAL migration writes no engine (R97). -/
theorem State.finishMigration_engines_local (t : State) (i : SlotId) (l : Lease) {m : Migration} (hm : m.mode = .loc) :
    (t.finishMigration i l m).engines = t.engines := by
  simp [State.finishMigration, hm]

theorem State.retuneLocal_engines (told : Bool) : (s.retuneLocal told i l r e).engines = s.engines := by
  have lease := s.redivided_lease i l r e
  have whole : s.retuneLocal told i l r e = ((s.redivided i l r e).tell told i).settle told i := rfl
  by_cases hg : (s.redivided i l r e).AtGoal (l.migrating (r.migration .loc none)) (r.migration .loc none)
  · rw [whole, State.tell_settle_of_atGoal lease rfl rfl hg, State.tell_engines,
      State.finishMigration_engines_local _ _ _ rfl, State.tell_engines, State.redivided_engines]
  · rw [whole, State.tell_settle_of_not_atGoal lease rfl hg, State.tell_engines, State.redivided_engines]

/-- The lease of a LOCAL migration after its report: still MIGRATING, or settled (R96, R97). -/
def State.redividedLease (s : State) (i : SlotId) (l : Lease) (r : RetuneRequest) (e : EngineId) : Lease :=
  (l.migrating (r.migration .loc none)).checked (r.migration .loc none)
    ((s.redivided i l r e).settled (l.migrating (r.migration .loc none)) (r.migration .loc none)) (s.isLocked e)

theorem State.retuneLocal_reports (he : l.engine = some e) (ht : i ∉ s.touched) (told : Bool) :
    Reports told i (s.redividedLease i l r e) s (s.retuneLocal told i l r e) := by
  have reports := (s.redivided_unannounced i l r e).checks (s.redivided_lease i l r e) ht rfl rfl he
    (by simp [RetuneRequest.migration]) told
  rwa [State.isLocked_congr (s.redivided_engines i l r e)] at reports

theorem State.redividedLease_report (he : l.engine = some e) : (s.redividedLease i l r e).retuneReport =
    [(s.redividedLease i l r e).state.code, (s.redividedLease i l r e).modeByte, byte e.1] := by
  obtain ⟨target, engine⟩ := Lease.checked_own (k := l.migrating (r.migration .loc none)) (m := r.migration .loc none)
    rfl rfl (by simp [RetuneRequest.migration]) _ _
  exact Lease.retuneReport_own target (engine.trans he)

/-- Where its goal is reached at once the lease is settled (R97). -/
theorem State.redividedLease_settled (he : l.engine = some e) (hall : ∀ x ∈ r.entries,
      ((s.redivided i l r e).output x.output).state = .running e x.divider ∨
        (((s.redivided i l r e).output x.output).state = .quiet ∧ s.isLocked e = false)) :
    s.redividedLease i l r e = (l.migrating (r.migration .loc none)).migrated (r.migration .loc none) (s.isLocked e) :=
  if_pos ((State.redivided_settled_iff he).2 hall)

theorem State.redividedLease_migrating (he : l.engine = some e) {x : Entry} (hx : x ∈ r.entries)
    (hne : ((s.redivided i l r e).output x.output).state ≠ .running e x.divider)
    (hq : ((s.redivided i l r e).output x.output).state = .quiet → s.isLocked e = true) :
    s.redividedLease i l r e = l.migrating (r.migration .loc none) := by
  refine if_neg fun hset => ?_
  obtain ⟨quiet, unlocked⟩ := ((State.redivided_settled_iff he).1 hset x hx).resolve_left hne
  rw [hq quiet] at unlocked
  cases unlocked

end redivided

/-- Settles O26: the targets are given, the change is reported, and the migration settles in its own command exactly
where its goal is reached. -/
theorem retuneLocal : Obligations.RetuneLocal := by
  intro s p c a i l r e h hs hu hl he
  have nodup := h.entries.nodup
  have out := h.retuned (retuneCase_local hs hu hl he) (State.retuneLocal_reports he (s.seen_unmarked p i) (p = l.home))
    (Lease.checked_home ..) (State.redividedLease_report he)
  refine ⟨_, _, out.executed, out.slot, out.work, out.deviceNotices, out.touched, ?_, out.others, fun x hx => ?_,
    fun o ho => ?_, fun hall => ?_, fun ⟨x, hx, hne, hq⟩ => ?_, out.kept, out.notice⟩
  · rw [State.answered_engines, State.retuneLocal_engines, State.seen_engines]
  · rw [State.answered_output, State.retuneLocal_output, State.redivided_output nodup hx, State.seen_output]
  · rw [State.answered_output, State.retuneLocal_output, State.redivided_output_not_mem ho, State.seen_output]
  · simp only [State.answered_output, State.retuneLocal_output, ← s.seen_isLocked p] at hall
    rw [State.redividedLease_settled he hall, State.seen_isLocked, Lease.migrated_loc rfl, Lease.adopt, ← h.cls]
    rfl
  · simp only [State.answered_output, State.retuneLocal_output, ← s.seen_isLocked p] at hne hq
    rw [State.redividedLease_migrating he hx hne hq, ← h.carried]
    rfl

end Sys2Proof.Machine

/-! ## RETUNE of a running lease to a second engine: an OVERLAP migration (R98, R99) -/

namespace Sys2Proof.Machine

/-- A target given leaves no output RUNNING that did not run so before (R76, R77). -/
theorem OutState.running_of_give {st : OutState} {g : Target} {e : EngineId} {q : Nat} (h : st.give g = .running e q) :
    st = .running e q := by
  cases st with
  | quiet => by_cases hg : g = .quiet <;> simp [OutState.give, hg] at h
  | running f d => by_cases hg : g = .clock f d <;> simp_all [OutState.give]
  | changing source target waiting => simp [OutState.give] at h

section overlapped

variable {s : State} {i : SlotId} {l : Lease} {r : RetuneRequest} {e g : EngineId} {told : Bool}

theorem moveOff_overlap (hp : r.pin ≠ some e) (ha : s.ask (r.alloc l) = .ok g) :
    s.moveOff told i l r e = .ok (retuneReply .ok i (s.retuneOverlap told i l r g)) := by
  rw [State.moveOff, if_neg hp, ha]

theorem moveOff_refused {st : Status} (hp : r.pin ≠ some e) (ha : s.ask (r.alloc l) = .error st) (hst : st ≠ .noEngine) :
    s.moveOff told i l r e = .error (denied st) := by
  rw [State.moveOff, if_neg hp, ha]
  cases st with
  | noEngine => exact absurd rfl hst
  | _ => rfl

/-- An OVERLAP migration to engine `g` up to its report. -/
def State.overlapped (s : State) (i : SlotId) (l : Lease) (r : RetuneRequest) (g : EngineId) : State :=
  let t := (s.commit (r.alloc l) g).beginMigration i l (r.migration .overlap (some g))
  if t.isLocked g then t.giveEach (wantClock g) r.entries else t

theorem State.overlapped_unannounced (s : State) (i : SlotId) (l : Lease) (r : RetuneRequest) (g : EngineId) :
    Unannounced i s (s.overlapped i l r g) := by
  have begun := ((Unannounced.refl i s).commit (r.alloc l) g).setLease (l.migrating (r.migration .overlap (some g)))
  unfold State.overlapped
  dsimp only
  split
  · exact begun.giveEach _ _
  · exact begun

theorem State.overlapped_lease (s : State) (i : SlotId) (l : Lease) (r : RetuneRequest) (g : EngineId) :
    (s.overlapped i l r g).lease? i = some (l.migrating (r.migration .overlap (some g))) := by
  unfold State.overlapped
  dsimp only
  split
  · rw [State.giveEach_lease]
    exact State.lease_setLease_same _ _ _
  · exact State.lease_setLease_same _ _ _

theorem State.overlapped_engine (s : State) (i : SlotId) (l : Lease) (r : RetuneRequest) (g f : EngineId) :
    (s.overlapped i l r g).engine f =
      if f = g then (s.engine g).commit (r.alloc l) s.selection.isSome s.params.acqLimit else s.engine f := by
  rw [← State.commit_engine]
  unfold State.overlapped
  dsimp only
  split
  · rw [State.giveEach_engine]
    rfl
  · rfl

/-- The target's lock is that of the engine committed. -/
theorem State.overlapped_isLocked (s : State) (i : SlotId) (l : Lease) (r : RetuneRequest) (g : EngineId) :
    (s.overlapped i l r g).isLocked g = (s.commit (r.alloc l) g).isLocked g := by
  simp only [State.isLocked, State.overlapped_engine, State.commit_engine]

/-- The outputs are given their targets at once where the engine found is LOCKED (R98). -/
theorem State.overlapped_output (hn : (outputsOf r.entries).Nodup) {x : Entry} (hx : x ∈ r.entries) :
    (s.overlapped i l r g).output x.output =
      if (s.overlapped i l r g).isLocked g then (s.output x.output).given (.clock g x.divider)
      else s.output x.output := by
  rw [State.overlapped_isLocked]
  unfold State.overlapped
  dsimp only
  split
  · rw [if_pos ‹_›, State.giveEach_wantClock_output _ g hn hx]
    rfl
  · rw [if_neg ‹_›]
    rfl

theorem State.overlapped_output_not_mem {o : OutputId} (ho : o ∉ outputsOf r.entries) :
    (s.overlapped i l r g).output o = s.output o := by
  unfold State.overlapped
  dsimp only
  split
  · rw [State.giveEach_output_not_mem _ _ _ ho]
    rfl
  · rfl

/-- No output runs from the target yet, so the migration does not settle in its own command. -/
theorem State.overlapped_not_atGoal (hes : EntriesOk r.entries)
    (away : ∀ x ∈ r.entries, (s.output x.output).state ≠ .running g x.divider) :
    ¬(s.overlapped i l r g).AtGoal (l.migrating (r.migration .overlap (some g))) (r.migration .overlap (some g)) := by
  rintro ⟨g', target, hall⟩
  obtain rfl : g = g' := Option.some.inj target
  obtain ⟨x, hx⟩ := List.exists_mem_of_length_pos hes.length.1
  have runs := hall x hx
  rw [State.overlapped_output hes.nodup hx] at runs
  split at runs
  · exact away x hx (OutState.running_of_give runs)
  · exact away x hx runs

theorem State.retuneOverlap_eq (hes : EntriesOk r.entries)
    (away : ∀ x ∈ r.entries, (s.output x.output).state ≠ .running g x.divider) (told : Bool) :
    s.retuneOverlap told i l r g = (s.overlapped i l r g).tell told i :=
  State.tell_settle_of_not_atGoal (s.overlapped_lease i l r g) rfl (State.overlapped_not_atGoal hes away) told

/-- The outputs of a running lease run from no engine but its own (R75). -/
theorem State.Sound.runs_from_own (sound : s.Sound) (hl : s.lease? i = some l)
    (hs : l.state = .active ∨ l.state = .disturbed) (he : l.engine ≠ some g) {o : OutputId}
    (ho : o ∈ outputsOf l.entries) (q : Nat) : (s.output o).state ≠ .running g q := by
  intro runs
  have counts := (s.soundBut_none_iff.2 sound).tied_countOn hl ho (e := g) (by simp [runs, OutState.tiedTo])
  rw [(sound.books.leases i l hl).plain_countOn (.of_active_or_disturbed hs), if_neg he] at counts
  exact absurd counts (lt_irrefl _)

end overlapped

/-- Settles O27: an answer refuses, or the engine found is committed and the migration begins; the outputs, which run
from the old engine alone, keep it from settling at once. -/
theorem retuneOverlap : Obligations.RetuneOverlap := by
  intro s p c a i l r e sound h hs hl he hp
  have alloc : r.alloc l = ⟨r.plan, r.classes, l.flags.exclusive, r.pin, some e⟩ := by rw [RetuneRequest.alloc, he]
  refine ⟨fun st ha hst => h.refused ?_, fun g ha => ?_⟩
  · rw [retuneCase_moveOff hs hl he]
    exact moveOff_refused hp (by rw [State.seen_ask, alloc, ha]) hst
  have hne : g ≠ e := fun hge => (State.ask_serves ha).2.1 (hge ▸ rfl)
  have away : ∀ x ∈ r.entries, ((s.seen p).output x.output).state ≠ .running g x.divider := fun x hx => by
    rw [State.seen_output]
    exact sound.runs_from_own h.lease hl (fun own => hne (Option.some.inj (own.symm.trans he)))
      (h.listed ▸ List.mem_map_of_mem hx) _
  have run := (retuneCase_moveOff (s := s.seen p) (told := decide (p = l.home)) (i := i) hs hl he).trans
    (moveOff_overlap hp (by rw [State.seen_ask, alloc, ha]))
  rw [State.retuneOverlap_eq h.entries away] at run
  have out := h.retuned run (((s.seen p).overlapped_unannounced i l r g).tell ((s.seen p).overlapped_lease i l r g)
    (s.seen_unmarked p i) (p = l.home)) rfl rfl
  have engine (f : EngineId) := (s.seen p).overlapped_engine i l r g f
  simp only [State.seen_engine, State.seen_selection, State.seen_params, alloc] at engine
  refine ⟨_, out.executed, out.work, out.deviceNotices, out.touched, hne, ?_, out.others, ?_, fun f hf => ?_,
    fun x hx => ?_, fun o ho => ?_, out.kept, out.notice⟩
  · rw [out.slot, ← h.carried]
    rfl
  · rw [State.answered_engine, State.tell_engine, engine, if_pos rfl]
  · rw [State.answered_engine, State.tell_engine, engine, if_neg hf]
  · rw [State.answered_output, State.answered_isLocked, State.tell_output, State.tell_isLocked,
      State.overlapped_output h.entries.nodup hx, State.seen_output]
  · rw [State.answered_output, State.tell_output, State.overlapped_output_not_mem ho, State.seen_output]

end Sys2Proof.Machine

/-! ## RETUNE of a running lease that reprograms its own engine: a GAP migration (R64, R104, R105) -/

namespace Sys2Proof.Machine

section quieted

variable {s : State} {i : SlotId} {l : Lease} {r : RetuneRequest} {e f : EngineId} {told : Bool}

theorem moveOff_gap (h : r.pin = some e ∨ s.ask (r.alloc l) = .error .noEngine) : s.moveOff told i l r e =
    s.gapOrRefuse told i l r e (if r.pin = some e then .engineBusy else .noEngine) := by
  unfold State.moveOff
  by_cases hp : r.pin = some e
  · rw [if_pos hp, if_pos hp]
  · rw [if_neg hp, if_neg hp, h.resolve_left hp]

theorem State.gapAllowed_iff : s.gapAllowed l r e = true ↔ l.flags.allowGap = true ∧ (s.engine e).users = 1 ∧
    classOf e ∈ r.classes ∧ (r.pin = none ∨ r.pin = some e) := by
  simp [State.gapAllowed, and_assoc]

theorem gapOrRefuse_accepted {st : Status} (h : s.gapAllowed l r e = true) :
    s.gapOrRefuse told i l r e st = .ok (retuneReply .okGap i (s.retuneGap told i l r e)) := by
  rw [State.gapOrRefuse, h, ensure_true, ok_bind]
  rfl

theorem gapOrRefuse_refused {st : Status} (h : ¬s.gapAllowed l r e = true) :
    s.gapOrRefuse told i l r e st = .error (denied st) := by
  rw [State.gapOrRefuse, Bool.eq_false_of_not_eq_true h, ensure_false, error_bind]

/-- A GAP migration on engine `e` up to its report. -/
def State.quieted (s : State) (i : SlotId) (l : Lease) (r : RetuneRequest) (e : EngineId) : State :=
  ((s.reserve e).beginMigration i l (r.migration .gap none)).giveEach wantQuiet l.entries

theorem State.quieted_unannounced (s : State) (i : SlotId) (l : Lease) (r : RetuneRequest) (e : EngineId) :
    Unannounced i s (s.quieted i l r e) :=
  (((Unannounced.refl i s).setEngine e _).setLease _).giveEach _ _

theorem State.quieted_lease (s : State) (i : SlotId) (l : Lease) (r : RetuneRequest) (e : EngineId) :
    (s.quieted i l r e).lease? i = some (l.migrating (r.migration .gap none)) := by
  rw [State.quieted, State.giveEach_lease]
  exact State.lease_setLease_same _ _ _

/-- The engine is reprogram reserved (R64). -/
theorem State.quieted_engine (s : State) (i : SlotId) (l : Lease) (r : RetuneRequest) (e f : EngineId) :
    (s.quieted i l r e).engine f = if f = e then { s.engine e with reserved := true } else s.engine f := by
  rw [State.quieted, State.giveEach_engine]
  exact State.engine_setEngine _ _ _ _

theorem State.quieted_output (hn : (outputsOf l.entries).Nodup) {x : Entry} (hx : x ∈ l.entries) :
    (s.quieted i l r e).output x.output = (s.output x.output).given .quiet :=
  State.giveEach_output _ _ _ hn hx

theorem State.quieted_output_not_mem {o : OutputId} (ho : o ∉ outputsOf l.entries) :
    (s.quieted i l r e).output o = s.output o :=
  State.giveEach_output_not_mem _ _ _ ho

theorem State.retuneGap_output (told : Bool) (o : OutputId) :
    (s.retuneGap told i l r e).output o = (s.quieted i l r e).output o := by
  rw [State.retuneGap, State.settle_output, State.tell_output]
  rfl

/-- A GAP migration settles at once exactly where every output is QUIET already (R105). -/
theorem State.quieted_atGoal_iff (hn : (outputsOf l.entries).Nodup) :
    (s.quieted i l r e).AtGoal (l.migrating (r.migration .gap none)) (r.migration .gap none) ↔
      ∀ x ∈ l.entries, (s.output x.output).state = .quiet := by
  refine forall₂_congr fun x hx => ?_
  rw [State.quieted_output hn hx]
  exact OutState.give_quiet_eq_quiet _

/-- The lease of a GAP migration after its report: still MIGRATING, or settled (R104, R105). -/
def State.quietedLease (s : State) (i : SlotId) (l : Lease) (r : RetuneRequest) (e : EngineId) : Lease :=
  (l.migrating (r.migration .gap none)).checked (r.migration .gap none)
    ((s.quieted i l r e).settled (l.migrating (r.migration .gap none)) (r.migration .gap none))
    ((s.quieted i l r e).isLocked e)

theorem State.retuneGap_reports (he : l.engine = some e) (ht : i ∉ s.touched) (told : Bool) :
    Reports told i (s.quietedLease i l r e) s (s.retuneGap told i l r e) :=
  (s.quieted_unannounced i l r e).checks (s.quieted_lease i l r e) ht rfl rfl he (by simp [RetuneRequest.migration]) told

theorem State.quietedLease_report (he : l.engine = some e) : (s.quietedLease i l r e).retuneReport =
    [(s.quietedLease i l r e).state.code, (s.quietedLease i l r e).modeByte, byte e.1] := by
  obtain ⟨target, engine⟩ := Lease.checked_own (k := l.migrating (r.migration .gap none)) (m := r.migration .gap none)
    rfl rfl (by simp [RetuneRequest.migration]) _ _
  exact Lease.retuneReport_own target (engine.trans he)

section settled

variable (hn : (outputsOf l.entries).Nodup) (hq : ∀ x ∈ l.entries, (s.output x.output).state = .quiet)
include hn hq

theorem State.quietedLease_settled : s.quietedLease i l r e =
    (l.migrating (r.migration .gap none)).migrated (r.migration .gap none) ((s.quieted i l r e).isLocked e) :=
  if_pos ((State.settled_iff_atGoal _ _ _).2 ((State.quieted_atGoal_iff hn).2 hq))

/-- The engine is reprogrammed, which clears the reservation (R65, R105). -/
theorem State.retuneGap_engine_settled (he : l.engine = some e) (told : Bool) : (s.retuneGap told i l r e).engine e =
    (s.engine e).program s.selection.isSome s.params.acqLimit r.plan := by
  have work := (s.quieted_unannounced i l r e).work
  refine (State.tell_settle_engine (s.quieted_lease i l r e) rfl rfl ((State.quieted_atGoal_iff hn).2 hq) told e).trans
    ((if_pos he).trans ?_)
  rw [State.engineLeft, work.selection, work.params, State.quieted_engine, if_pos rfl]
  rfl

end settled

section loud

variable (hn : (outputsOf l.entries).Nodup) {x : Entry} (hx : x ∈ l.entries)
  (loud : (s.output x.output).state ≠ .quiet)
include hn hx loud

theorem State.quieted_not_atGoal :
    ¬(s.quieted i l r e).AtGoal (l.migrating (r.migration .gap none)) (r.migration .gap none) :=
  fun hg => loud ((State.quieted_atGoal_iff hn).1 hg x hx)

theorem State.quietedLease_migrating : s.quietedLease i l r e = l.migrating (r.migration .gap none) :=
  if_neg (mt (State.settled_iff_atGoal _ _ _).1 (State.quieted_not_atGoal hn hx loud))

theorem State.retuneGap_engine_reserved (told : Bool) :
    (s.retuneGap told i l r e).engine e = { s.engine e with reserved := true } := by
  have whole := State.tell_settle_of_not_atGoal (s.quieted_lease i l r e) rfl (State.quieted_not_atGoal hn hx loud) told
  refine (congrArg (State.engine · e) whole).trans ?_
  rw [State.tell_engine, State.quieted_engine, if_pos rfl]

end loud

/-- The engines that do not serve the lease stay. -/
theorem State.retuneGap_engine_other (he : l.engine = some e) (hf : f ≠ e) (told : Bool) :
    (s.retuneGap told i l r e).engine f = s.engine f := by
  have other : (s.quieted i l r e).engine f = s.engine f := by rw [State.quieted_engine, if_neg hf]
  by_cases hg : (s.quieted i l r e).AtGoal (l.migrating (r.migration .gap none)) (r.migration .gap none)
  · refine (State.tell_settle_engine (s.quieted_lease i l r e) rfl rfl hg told f).trans ((if_neg fun h => ?_).trans other)
    exact hf (Option.some.inj (h.symm.trans he))
  · refine (congrArg (State.engine · f) (State.tell_settle_of_not_atGoal (s.quieted_lease i l r e) rfl hg told)).trans ?_
    rw [State.tell_engine, other]

end quieted

/-- Settles O28: the GAP test refuses, or the engine is reserved and every output given QUIET; the migration settles in
its own command exactly where all were QUIET. -/
theorem retuneGap : Obligations.RetuneGap := by
  intro s p c a i l r e h hs hl he hpin
  have alloc : r.alloc l = ⟨r.plan, r.classes, l.flags.exclusive, r.pin, some e⟩ := by rw [RetuneRequest.alloc, he]
  have run := (retuneCase_moveOff (s := s.seen p) (told := decide (p = l.home)) (i := i) hs hl he).trans
    (moveOff_gap (hpin.imp_right fun ha => by rw [State.seen_ask, alloc, ha]))
  have allowed := State.gapAllowed_iff (s := s.seen p) (l := l) (r := r) (e := e)
  rw [State.seen_engine] at allowed
  refine ⟨fun hno => h.refused (run.trans (gapOrRefuse_refused (mt allowed.1 hno))), fun hgap husers hcls hpin hes => ?_⟩
  have out := h.retuned (run.trans (gapOrRefuse_accepted (allowed.2 ⟨hgap, husers, hcls, hpin⟩)))
    (State.retuneGap_reports he (s.seen_unmarked p i) (p = l.home)) (Lease.checked_home ..)
    (State.quietedLease_report he)
  have nodup := hes.nodup
  refine ⟨_, _, out.executed, out.slot, out.work, out.deviceNotices, out.touched, out.others, fun f hf => ?_,
    fun x hx => ?_, fun o ho => ?_, fun hq => ⟨?_, ?_⟩, fun ⟨x, hx, loud⟩ => ⟨?_, ?_⟩, out.kept, out.notice⟩
  · rw [State.answered_engine, State.retuneGap_engine_other he hf, State.seen_engine]
  · rw [State.answered_output, State.retuneGap_output, State.quieted_output nodup hx, State.seen_output]
  · rw [State.answered_output, State.retuneGap_output, State.quieted_output_not_mem ho, State.seen_output]
  · rw [State.quietedLease_settled nodup (by simpa using hq), Lease.migrated_gap rfl, Lease.adopt, ← h.cls]
    rfl
  · rw [State.answered_engine, State.retuneGap_engine_settled nodup (by simpa using hq) he, State.seen_engine,
      State.seen_selection, State.seen_params]
  · rw [State.quietedLease_migrating nodup hx (by simpa using loud), ← h.carried]
    rfl
  · rw [State.answered_engine, State.retuneGap_engine_reserved nodup hx (by simpa using loud), State.seen_engine]

end Sys2Proof.Machine

/-! ## A report in the state that its command is answered in (R159) -/

namespace Sys2Proof.Machine

/-- `t` is the answered state of a command taken from port `p` that has made slot `i` live with lease `k` and reported
it: where `told` by its response alone, elsewhere by one notice at the lease's home port (R159, R160). -/
structure State.Reported (s : State) (p : Port) (c : HeldCommand) (st : Status) (body : List Byte) (told : Bool)
    (i : SlotId) (k : Lease) (t : State) : Prop where
  work : LeaseWork (s.answered p c st body) t
  deviceNotices : t.deviceNotices = s.deviceNotices
  touched : t.touched = []
  slot : t.slot i = ⟨(s.slot i).gen, .live k⟩
  others : ∀ j, j ≠ i → t.slot j = s.slot j
  kept : ∀ q (j : SlotId), told = true ∨ q ≠ k.home ∨ j ≠ i → (t.port q).notices[j] = (s.port q).notices[j]
  notice : told = false → (t.port k.home).notices[i] =
    some (raisedNotice (s.port k.home).notices[i] false (s.slot i).gen k.reason false)

section reported

variable {s t : State} {p : Port} {c : HeldCommand} {i : SlotId} {k : Lease} {told : Bool} {st : Status}

/-- Whether the home port is told in the response or by a notice, some port is one from which a command has it so. -/
theorem Port.exists_decide_eq (home : Port) (told : Bool) : ∃ p, told = decide (p = home) := by
  cases told with
  | false => exact ⟨home.other, by simp [port_other_ne]⟩
  | true => exact ⟨home, by simp⟩

theorem Reports.answered (h : Reports told i k (s.seen p) t) (c : HeldCommand) (st : Status) (body : List Byte) :
    s.Reported p c st body told i k (t.answered p c st body) where
  work := h.work.taken c st body
  deviceNotices := by rw [State.answered_deviceNotices, h.oneSlot.deviceNotices, State.seen_deviceNotices]
  touched := rfl
  slot := by rw [State.answered_slot, h.slot, State.seen_slot]
  others j hj := by rw [State.answered_slot, h.oneSlot.slots j hj, State.seen_slot]
  kept q j hq := by
    obtain ⟨origin, rfl⟩ := Port.exists_decide_eq k.home told
    rw [State.answered_notices, ← s.seen_notices p]
    exact h.kept (hq.imp_left fun home => (of_decide_eq_true home).symm)
  notice untold := by
    rw [State.answered_notices, ← s.seen_notices p, ← s.seen_slot p]
    exact (h.raised untold).1

/-- Targets given after the report. -/
theorem Reports.giveEach (h : Reports told i k s t) (want : OutState → Entry → Option Target) (es : List Entry) :
    Reports told i k s (t.giveEach want es) where
  work := h.work.giveEach want es
  oneSlot := h.oneSlot.giveEach want es
  lease := by rw [State.giveEach_lease, h.lease]
  silent heard q := by rw [State.giveEach_port, h.silent heard]
  raised untold := (h.raised untold).to_right fun q => by rw [State.giveEach_port]
  marked untold := by rw [State.giveEach_touched]; exact h.marked untold

/-- A command whose run replies without a save, keeping the port served. -/
theorem exec_rowOf_answered {r : Reply} (h : s.Takes p c) (hr : runOf c p c (s.seen p) = .ok r) (hs : r.save = false)
    (hl : r.state.lastServed = p) : exec (rowOf c) s = .next (r.state.answered p c r.status r.body) := by
  obtain ⟨mine, hm, hx⟩ := serves_rowOf c
  rw [hx, event_take_ok h hm hr, hs, State.place_answered _ _ _ _ _ hl]

theorem State.stateCode_of_lease (h : t.lease? i = some k) : t.stateCode i = k.state.code := by rw [State.stateCode, h]

theorem State.engineByteOf_of_lease (h : t.lease? i = some k) : t.engineByteOf i = engineByte k.engine := by
  rw [State.engineByteOf, h]
  rfl

end reported

end Sys2Proof.Machine

/-! ## RELEASE and REVOKE: their run (R110) -/

namespace Sys2Proof.Machine

/-- `c`, taken from port `p` by the row `row`, asks with right to end lease `l` for reason `r`: a RELEASE by one that
owns the lease, which tells the home port where it came from there, or a REVOKE by the supervisor, which never does
(R110, R159). -/
def HeldCommand.Ends (c : HeldCommand) (p : Port) (l : Lease) (row : Instr) (r : Reason) (told : Bool) : Prop :=
  (c.code = codeRelease ∧ l.ownedBy c.client = true ∧ row = .release ∧ r = .released ∧ told = decide (l.home = p)) ∨
    (c.code = codeRevoke ∧ c.client = 0 ∧ row = .revoke ∧ r = .revoked ∧ told = false)

section ends

variable {s : State} {p : Port} {c : HeldCommand} {h : Handle} {i : SlotId} {l : Lease} {row : Instr} {r : Reason}
  {told : Bool}

namespace HeldCommand.Ends

theorem row_eq (e : c.Ends p l row r told) : row = rowOf c := by
  rcases e with ⟨hc, -, rfl, -, -⟩ | ⟨hc, -, rfl, -, -⟩
  · rw [rowOf, hc]; rfl
  · rw [rowOf, hc]; rfl

/-- Past the handle and the right both commands do the same (R110, R111). -/
theorem run (e : c.Ends p l row r told) (hb : readHandle c.body = some h) (hr : s.reach h = some (i, l)) :
    runOf c p c s = (do
      ensure (decide (l.state ≠ .closing)) (denied .wrongState)
      return endReply h i (s.endLease told r i l)) := by
  rcases e with ⟨hc, ho, -, rfl, rfl⟩ | ⟨hc, hcl, -, rfl, rfl⟩
  · rw [runOf_release hc, runRelease, bodyOf_ok hb, ok_bind, State.owned_ok hr ho, ok_bind,
      decide_eq_decide.2 (eq_comm (a := l.home))]
  · rw [runOf_revoke hc, runRevoke, supervisorOnly_ok hcl, ok_bind, bodyOf_ok hb, ok_bind, hr, need_some, ok_bind]

theorem refused (e : c.Ends p l row r told) (ht : s.Takes p c) (hb : readHandle c.body = some h)
    (hr : s.reach h = some (i, l)) (hs : l.state = .closing) :
    exec row s = .next (s.answered p c .wrongState [0xFF#8]) := by
  rw [e.row_eq]
  refine exec_rowOf_refused (d := denied .wrongState) ht ((e.run hb (by rw [s.seen_reach, hr])).trans ?_)
  rw [decide_eq_false (not_not_intro hs), ensure_false, error_bind]

/-- A lease that is not CLOSING is ended, and its state and its slot's standing are reported (R110). -/
theorem accepted (e : c.Ends p l row r told) (ht : s.Takes p c) (hb : readHandle c.body = some h)
    (hr : s.reach h = some (i, l)) (hs : l.state ≠ .closing) {code standing : Byte}
    (hcode : ((s.seen p).endLease told r i l).stateCode i = code)
    (hstanding : (((s.seen p).endLease told r i l).slot i).standing.code = standing) : exec row s =
      .next (((s.seen p).endLease told r i l).answered p c .ok [h.slot, h.gen, code, standing]) := by
  subst hcode hstanding
  have run : runOf c p c (s.seen p) = .ok (endReply h i ((s.seen p).endLease told r i l)) := by
    rw [e.run hb (by rw [s.seen_reach, hr]), decide_eq_true hs, ensure_true, ok_bind]
    rfl
  rw [e.row_eq]
  exact exec_rowOf_answered ht run rfl
    (((LeaseWork.refl (s.seen p)).endLease told r i l).lastServed.trans (s.seen_lastServed p))

end HeldCommand.Ends

end ends

/-! ## A lease with an output running or changing is put into CLOSING (R113) -/

section closing

variable {s : State} {i : SlotId} {l : Lease} {r : Reason}

/-- A lease as it enters CLOSING (R113). -/
def Lease.closed (l : Lease) (r : Reason) : Lease :=
  { l with state := .closing, reason := r, armed := false, migration := none, closingTarget := l.migrationTarget }

theorem State.endLease_loud (h : ∃ x ∈ l.entries, (s.output x.output).state ≠ .quiet) (told : Bool) :
    s.endLease told r i l = ((s.setLease i (l.closed r)).tell told i).giveEach wantQuiet l.entries :=
  if_neg fun all => by
    obtain ⟨x, hx, loud⟩ := h
    exact loud (State.outputsAll_isQuiet_iff.1 all x hx)

theorem State.closed_reports (ht : i ∉ s.touched) (l : Lease) (r : Reason) (told : Bool) : Reports told i (l.closed r) s
    (((s.setLease i (l.closed r)).tell told i).giveEach wantQuiet l.entries) :=
  (((Unannounced.refl i s).setLease (l.closed r)).tell (State.lease_setLease_same _ _ _) ht told).giveEach _ _

end closing

/-- Settles O30: the state check refuses; past it the lease is written, one report made, and every output given QUIET. -/
theorem runningLeaseCloses : Obligations.RunningLeaseCloses := by
  intro s p c h i l takes body reach row r told ends
  have ends : c.Ends p l row r told := ends
  refine ⟨ends.refused takes body reach, fun live loud entries => ?_⟩
  have whole := State.endLease_loud (s := s.seen p) (i := i) (r := r) (by simpa using loud) told
  have reports := whole ▸ State.closed_reports (s.seen_unmarked p i) l r told
  have out := reports.answered c .ok [h.slot, h.gen, 0x07#8, 0x00#8]
  refine ⟨_, ends.accepted takes body reach live (State.stateCode_of_lease reports.lease) ?_, out.work,
    out.deviceNotices, out.touched, ?_, out.slot, out.others, fun x hx => ?_, fun o ho => ?_, out.kept, out.notice⟩
  · rw [reports.slot]
    rfl
  · rw [State.answered_engines, whole, State.giveEach_engines, State.tell_engines, State.setLease_engines,
      State.seen_engines]
  · rw [State.answered_output, whole, State.giveEach_output _ _ _ entries.nodup hx, State.tell_output,
      State.output_setLease, State.seen_output]
    rfl
  · rw [State.answered_output, whole, State.giveEach_output_not_mem _ _ _ ho, State.tell_output,
      State.output_setLease, State.seen_output]

end Sys2Proof.Machine

/-! ## A lease whose outputs are all QUIET is freed at once (R2, R112, R161) -/

namespace Sys2Proof.Machine

/-! ### A slot that is freed -/

section freeing

variable (s : State) (i : SlotId) (l : Lease)

theorem State.freeTold_slot (j : SlotId) : (s.freeTold i l).slot j =
    if j = i then ⟨(s.slot i).gen + 1, .free⟩ else s.slot j := by
  simp [State.freeTold, State.discardNotice, State.slot_setSlot]

/-- The entry of a slot that becomes FREE is discarded, at the home port alone (R161). -/
theorem State.freeTold_notices (q : Port) (j : SlotId) : ((s.freeTold i l).port q).notices[j] =
    if q = l.home ∧ j = i then none else (s.port q).notices[j] := by
  simp only [State.freeTold, State.discardNotice, State.port_setSlot, State.port_setPort]
  by_cases hq : q = l.home
  · subst hq
    by_cases hj : j = i
    · subst hj
      simp
    · simp [hj, Fin.val_ne_of_ne (Ne.symm hj)]
  · simp [hq]

@[simp] theorem State.freeTold_deviceNotices : (s.freeTold i l).deviceNotices = s.deviceNotices := by
  simp [State.freeTold, State.discardNotice]

variable {s i l}

/-- The entry of a slot that becomes RETIRED is raised and closed, at the home port alone (R161). -/
theorem State.retire_notices (h : s.lease? i = some l) (q : Port) (j : SlotId) :
    ((s.retire i l).port q).notices[j] =
      if q = l.home ∧ j = i then
        some (raisedNotice (s.port q).notices[i] (s.touched.contains i) (s.slot i).gen l.reason true)
      else (s.port q).notices[j] := by
  by_cases hj : j = i
  · subst hj
    simp [State.retire, State.raise_notices _ _ _ h]
  · rw [((OneSlot.refl i s).retire l).notices q j hj, if_neg fun both => hj both.2]

end freeing

/-! ### What becomes of the lease's slot, outputs and engines -/

section freed

variable {s : State} {i : SlotId} {l : Lease} {r : Reason} (hq : ∀ x ∈ l.entries, (s.output x.output).state = .quiet)
include hq

theorem State.endLease_told :
    s.endLease true r i l = ((s.setLease i { l with reason := r }).giveUp l).freeTold i l :=
  if_pos (State.outputsAll_isQuiet_iff.2 hq)

theorem State.endLease_untold : s.endLease false r i l =
    ((s.setLease i { l with reason := r }).giveUp l).retire i { l with reason := r } :=
  if_pos (State.outputsAll_isQuiet_iff.2 hq)

theorem State.endLease_slot (told : Bool) (j : SlotId) : (s.endLease told r i l).slot j =
    if j = i then (if told then ⟨(s.slot i).gen + 1, .free⟩ else ⟨(s.slot i).gen, .retired l.home⟩)
    else s.slot j := by
  cases told with
  | true => rw [State.endLease_told hq, State.freeTold_slot]; by_cases hj : j = i <;> simp [hj, State.slot_setLease]
  | false => rw [State.endLease_untold hq, State.retire_slot]; by_cases hj : j = i <;> simp [hj, State.slot_setLease]

theorem State.endLease_output (told : Bool) (o : OutputId) : (s.endLease told r i l).output o =
    if o ∈ outputsOf l.entries then { s.output o with holder := none } else s.output o := by
  cases told with
  | true => rw [State.endLease_told hq, State.freeTold_output, State.giveUp_output, State.output_setLease]
  | false => rw [State.endLease_untold hq, State.retire_output, State.giveUp_output, State.output_setLease]

theorem State.endLease_engine (told : Bool) (f : EngineId) : (s.endLease told r i l).engine f =
    (EngineRec.dropUser s.params.linger)^[l.countOn f] (s.engine f) := by
  cases told with
  | true => rw [State.endLease_told hq, State.freeTold_engine, State.giveUp_engine]; rfl
  | false => rw [State.endLease_untold hq, State.retire_engine, State.giveUp_engine]; rfl

theorem State.endLease_notices (ht : s.touched = []) (told : Bool) (q : Port) (j : SlotId) :
    ((s.endLease told r i l).port q).notices[j] =
      if q = l.home ∧ j = i then
        (if told then none else some (raisedNotice (s.port q).notices[i] false (s.slot i).gen r true))
      else (s.port q).notices[j] := by
  cases told with
  | true => rw [State.endLease_told hq, State.freeTold_notices]; simp
  | false =>
    have lease : ((s.setLease i { l with reason := r }).giveUp l).lease? i = some { l with reason := r } := by
      rw [State.giveUp_lease, State.lease_setLease_same]
    rw [State.endLease_untold hq, State.retire_notices lease]
    simp [ht, State.slot_setLease]

theorem State.endLease_deviceNotices (told : Bool) : (s.endLease told r i l).deviceNotices = s.deviceNotices := by
  have gaveUp := ((OneSlot.refl i s).setLease { l with reason := r }).giveUp l
  cases told with
  | true => rw [State.endLease_told hq, State.freeTold_deviceNotices, gaveUp.deviceNotices]
  | false => rw [State.endLease_untold hq, (gaveUp.retire _).deviceNotices]

theorem State.endLease_stateCode (told : Bool) : (s.endLease told r i l).stateCode i = closedCode := by
  have freed : (s.endLease told r i l).lease? i = none := by
    rw [State.lease?, State.endLease_slot hq, if_pos rfl]
    cases told <;> rfl
  rw [State.stateCode, freed]

end freed

/-- Settles O29: the state check passes, and the lease is given up, its slot freed as the home port is told or not. -/
theorem quietLeaseFreed : Obligations.QuietLeaseFreed := by
  intro s p c h i l takes body reach live hq row r told ends
  have ends : c.Ends p l row r told := ends
  have hq : ∀ x ∈ l.entries, ((s.seen p).output x.output).state = .quiet := by simpa using hq
  have work := (LeaseWork.refl (s.seen p)).endLease told r i l
  have slot := State.endLease_slot (r := r) (i := i) hq told
  have output := State.endLease_output (r := r) (i := i) hq told
  have engine := State.endLease_engine (r := r) (i := i) hq told
  have notices := State.endLease_notices (r := r) (i := i) hq (s.seen_touched p) told
  simp only [State.seen_slot, State.seen_output, State.seen_engine, State.seen_params, State.seen_notices]
    at slot output engine notices
  refine ⟨_, ends.accepted takes body reach live (State.endLease_stateCode hq told) ?_, work.taken c .ok _,
    ?_, rfl, fun j hj => ?_, fun x hx => ?_, fun o ho => ?_, fun e he => ?_, fun e he => ?_, ?_, ?_, fun q j hj => ?_⟩
  · rw [slot, if_pos rfl]
    cases told <;> rfl
  · rw [State.answered_deviceNotices, State.endLease_deviceNotices hq, State.seen_deviceNotices]
  · rw [State.answered_slot, slot, if_neg hj]
  · have listed : x.output ∈ outputsOf l.entries := List.mem_map_of_mem hx
    rw [State.answered_output, output, if_pos listed, ← hq x hx, State.seen_output]
  · rw [State.answered_output, output, if_neg ho]
  · rw [State.answered_engine, engine, he]
    rfl
  · rw [State.answered_engine, engine, he]
    rfl
  · rintro rfl
    simp [slot, notices]
  · rintro rfl
    simp [slot, notices]
  · rw [State.answered_notices, notices, if_neg fun both => hj.elim (· both.1) (· both.2)]

end Sys2Proof.Machine

/-! ## A lease entered on an engine (R30, R93, R122) -/

namespace Sys2Proof.Machine

section enter

variable {s t : State} {i : SlotId} {k : Lease} {e : EngineId}

theorem Unannounced.enter (h : Unannounced i s t) : Unannounced i s (t.enter i) := by
  unfold State.enter
  repeat' split
  all_goals first | exact h | exact h.setLease _ | exact (h.setLease _).giveEach _ _

theorem State.enter_engine (s : State) (i : SlotId) (f : EngineId) : (s.enter i).engine f = s.engine f := by
  unfold State.enter
  repeat' split
  all_goals simp

variable (he : k.engine = some e)
include he

theorem State.setLease_enter_lease : ((s.setLease i k).enter i).lease? i =
    some { k with state := startState (s.isLocked e) k.flags.heldStart } := by
  rw [State.setLease_enter _ _ he]
  dsimp only
  split <;> simp

/-- A STARTING lease has its outputs given their targets (R31). -/
theorem State.setLease_enter_output (hn : (outputsOf k.entries).Nodup) {x : Entry} (hx : x ∈ k.entries) :
    ((s.setLease i k).enter i).output x.output =
      if startState (s.isLocked e) k.flags.heldStart = .starting then (s.output x.output).given (.clock e x.divider)
      else s.output x.output := by
  rw [State.setLease_enter _ _ he]
  simp only [startState_eq_starting]
  split
  · rw [State.giveEach_wantClock_output _ e hn hx, State.output_setLease]
  · rw [State.output_setLease]

theorem State.setLease_enter_output_not_mem {o : OutputId} (ho : o ∉ outputsOf k.entries) :
    ((s.setLease i k).enter i).output o = s.output o := by
  rw [State.setLease_enter _ _ he]
  dsimp only
  split
  · rw [State.giveEach_output_not_mem _ _ _ ho, State.output_setLease]
  · rw [State.output_setLease]

end enter

end Sys2Proof.Machine

/-! ## RETRY (R121, R122) -/

namespace Sys2Proof.Machine

section retry

variable {s : State} {p : Port} {c : HeldCommand} {a : RetryArgs} {i : SlotId} {l : Lease} {plan : Plan}
  {cls : LeaseClass} {es : List Entry} {e : EngineId}

/-! ### The run, check by check -/

/-- The request of a RETRY under the plan and class in force (R121, step 9). -/
def RetryArgs.request (a : RetryArgs) (l : Lease) (plan : Plan) (classes : List EngineClass) : AllocRequest :=
  ⟨plan, classes, l.flags.exclusive, a.pin, none⟩

/-- A RETRY by one that may act on lease `l` of slot `i`, with the plan, class and divider list in force (R121, steps 1
to 4). -/
structure State.RetryOwned (s : State) (c : HeldCommand) (a : RetryArgs) (i : SlotId) (l : Lease) (plan : Plan)
    (cls : LeaseClass) (es : List Entry) : Prop where
  body : readRetry c.body = some a
  handle : s.reach a.handle = some (i, l)
  owner : l.ownedBy c.client = true
  planInForce : plan = (a.plan.map Plan.reduce).getD l.plan
  classInForce : cls = a.cls.getD l.cls
  listInForce : es = a.entries.getD l.entries

/-- The lease's state judges a RETRY first (R121, from step 5). -/
theorem runRetry_owned (h : s.RetryOwned c a i l plan cls es) : runRetry p c s = (do
    ensure (decide (l.state = .failed)) (denied .wrongState)
    sameOutputs es l.entries
    let cs ← rangeChecks s.params.nominal cls plan es
    let e ← granted (s.ask (a.request l plan cs))
    let t := s.retryAccepted (p = l.home) i l (a.request l plan cs) cls a.pin es e
    return replyOk t [t.stateCode i, t.engineByteOf i]) := by
  obtain ⟨body, handle, owner, rfl, rfl, rfl⟩ := h
  rw [runRetry, bodyOf_ok body, ok_bind, State.owned_ok handle owner, ok_bind]
  rfl

theorem runRetry_wrongState (h : s.RetryOwned c a i l plan cls es) (hs : l.state ≠ .failed) :
    runRetry p c s = .error (denied .wrongState) := by
  rw [runRetry_owned h, decide_eq_false hs, ensure_false, error_bind]

theorem runRetry_badArgument {k : Nat} (h : s.RetryOwned c a i l plan cls es) (hs : l.state = .failed)
    (hk : mismatch 0 es l.entries = some k) : runRetry p c s = .error (deniedAt .badArgument k) := by
  rw [runRetry_owned h, decide_eq_true hs, ensure_true, ok_bind, sameOutputs_error hk, error_bind]

/-- The range checks judge a RETRY of a FAILED lease that names its outputs (R121, from step 7). -/
theorem runRetry_listed (h : s.RetryOwned c a i l plan cls es) (hs : l.state = .failed)
    (hes : outputsOf es = outputsOf l.entries) : runRetry p c s = (do
    let cs ← rangeChecks s.params.nominal cls plan es
    let e ← granted (s.ask (a.request l plan cs))
    let t := s.retryAccepted (p = l.home) i l (a.request l plan cs) cls a.pin es e
    return replyOk t [t.stateCode i, t.engineByteOf i]) := by
  rw [runRetry_owned h, decide_eq_true hs, ensure_true, ok_bind, sameOutputs_eq_ok_iff (u := ()).2 hes, ok_bind]

theorem runRetry_planRange (h : s.RetryOwned c a i l plan cls es) (hs : l.state = .failed)
    (hes : outputsOf es = outputsOf l.entries) (hcs : eligible s.params.nominal cls plan = []) :
    runRetry p c s = .error (denied .planRange) := by
  rw [runRetry_listed h hs hes, rangeChecks_planRange hcs, error_bind]

theorem runRetry_outputRange {k : Nat} {x : Entry} (h : s.RetryOwned c a i l plan cls es) (hs : l.state = .failed)
    (hes : outputsOf es = outputsOf l.entries) (hcs : eligible s.params.nominal cls plan ≠ []) (hx : es[k]? = some x)
    (hf : plan.outputInRange s.params.nominal x.divider = false)
    (hbefore : ∀ (j : Nat) y, j < k → es[j]? = some y → plan.outputInRange s.params.nominal y.divider = true) :
    runRetry p c s = .error (deniedAt .outputRange k) := by
  rw [runRetry_listed h hs hes, rangeChecks_outputRange hcs hx hf hbefore, error_bind]

/-- A RETRY has passed every check but the allocation's (R121, steps 1 to 8). -/
structure State.RetryInRange (s : State) (c : HeldCommand) (a : RetryArgs) (i : SlotId) (l : Lease) (plan : Plan)
    (cls : LeaseClass) (es : List Entry) : Prop extends s.RetryOwned c a i l plan cls es where
  state : l.state = .failed
  outputs : outputsOf es = outputsOf l.entries
  classes : eligible s.params.nominal cls plan ≠ []
  range : ∀ x ∈ es, plan.outputInRange s.params.nominal x.divider = true

/-- The run of a taken RETRY judges the state before the taking. -/
theorem State.RetryOwned.seen (h : s.RetryOwned c a i l plan cls es) : (s.seen p).RetryOwned c a i l plan cls es :=
  { h with handle := by rw [s.seen_reach, h.handle] }

theorem State.RetryInRange.seen (h : s.RetryInRange c a i l plan cls es) :
    (s.seen p).RetryInRange c a i l plan cls es :=
  ⟨h.toRetryOwned.seen, h.state, h.outputs, by simpa using h.classes, by simpa using h.range⟩

/-! ### The acceptance, record by record (R122) -/

variable {q : AllocRequest} {pin : Option EngineId} {told : Bool} {st : Status}

/-- The state that a lease retried on engine `e` enters: by the engine as the request leaves it (R122). -/
def State.retryState (s : State) (l : Lease) (q : AllocRequest) (e : EngineId) : LeaseState :=
  startState ((s.commit q e).isLocked e) l.flags.heldStart

/-- A lease brought back on engine `e`, in the state it enters there (R122). -/
def Lease.revived (l : Lease) (plan : Plan) (cls : LeaseClass) (pin : Option EngineId) (es : List Entry) (e : EngineId)
    (st : LeaseState) : Lease :=
  { l.retriedOn plan cls pin es e with state := st }

theorem State.retryAccepted_lease : (s.retryAccepted told i l q cls pin es e).lease? i =
    some (l.revived q.plan cls pin es e (s.retryState l q e)) := by
  rw [State.retryAccepted, State.tell_lease]
  exact State.setLease_enter_lease rfl

theorem State.retryAccepted_reports (ht : i ∉ s.touched) (l : Lease) (q : AllocRequest) (cls : LeaseClass)
    (pin : Option EngineId) (es : List Entry) (e : EngineId) (told : Bool) :
    Reports told i (l.revived q.plan cls pin es e (s.retryState l q e)) s
      (s.retryAccepted told i l q cls pin es e) :=
  (((Unannounced.refl i s).commit q e).setLease _).enter.tell (State.setLease_enter_lease rfl) ht told

theorem State.retryAccepted_engine (f : EngineId) : (s.retryAccepted told i l q cls pin es e).engine f =
    if f = e then (s.engine e).commit q s.selection.isSome s.params.acqLimit else s.engine f := by
  rw [State.retryAccepted, State.tell_engine, State.enter_engine, State.engine_setLease, State.commit_engine]

theorem State.retryAccepted_isLocked :
    (s.retryAccepted told i l q cls pin es e).isLocked e = (s.commit q e).isLocked e := by
  simp only [State.isLocked, State.retryAccepted_engine, State.commit_engine]

theorem State.retryAccepted_output (hn : (outputsOf es).Nodup) {x : Entry} (hx : x ∈ es) :
    (s.retryAccepted told i l q cls pin es e).output x.output =
      if s.retryState l q e = .starting then (s.output x.output).given (.clock e x.divider)
      else s.output x.output := by
  rw [State.retryAccepted, State.tell_output]
  exact State.setLease_enter_output rfl hn hx

theorem State.retryAccepted_output_not_mem {o : OutputId} (ho : o ∉ outputsOf es) :
    (s.retryAccepted told i l q cls pin es e).output o = s.output o := by
  rw [State.retryAccepted, State.tell_output]
  exact State.setLease_enter_output_not_mem rfl ho

/-! ### The answer of the allocation (R121, step 9) -/

theorem runRetry_notGranted (h : s.RetryInRange c a i l plan cls es)
    (hq : a.request l plan (eligible s.params.nominal cls plan) = q) (ha : s.ask q = .error st) :
    runRetry p c s = .error (denied st) := by
  rw [runRetry_listed h.toRetryOwned h.state h.outputs, rangeChecks_ok h.classes h.range, ok_bind, hq, ha]
  rfl

theorem runRetry_granted (h : s.RetryInRange c a i l plan cls es)
    (hq : a.request l plan (eligible s.params.nominal cls plan) = q) (ha : s.ask q = .ok e) : runRetry p c s =
      .ok ⟨s.retryAccepted (p = l.home) i l q cls a.pin es e, .ok, [(s.retryState l q e).code, byte e.1], false⟩ := by
  rw [runRetry_listed h.toRetryOwned h.state h.outputs, rangeChecks_ok h.classes h.range, ok_bind, hq, ha]
  simp only [granted, ok_bind, State.stateCode_of_lease State.retryAccepted_lease,
    State.engineByteOf_of_lease State.retryAccepted_lease]
  rfl

end retry

/-- Settles O31: each check refuses in its turn; past them the engine found is committed and the lease entered on it. -/
theorem retryRevivesLease : Obligations.RetryRevivesLease := by
  intro s p c a i l plan cls es q takes hc hb hr ho hplan hcls hes hq
  have owned : s.RetryOwned c a i l plan cls es := ⟨hb, hr, ho, hplan, hcls, hes⟩
  have refused {d : Denial} (hd : runRetry p c (s.seen p) = .error d) :
      exec .retry s = .next (s.answered p c d.status d.body) :=
    congrArg _ (takeCode_refused takes hc hd)
  have classes : eligible s.params.nominal cls plan = q.classes := by rw [hq]
  refine ⟨fun hs => refused (runRetry_wrongState owned.seen hs), fun hs => ⟨fun k hk => ?_, fun listed =>
    ⟨fun empty => ?_, fun found k x hx hf hbefore => ?_⟩⟩, fun hs listed entries found range => ?_⟩
  · exact refused (runRetry_badArgument owned.seen hs hk)
  · exact refused (runRetry_planRange owned.seen hs listed (by rw [State.seen_params, classes, empty]))
  · exact refused (runRetry_outputRange owned.seen hs listed (by rwa [State.seen_params, classes]) hx
      (by rwa [State.seen_params]) (by rwa [State.seen_params]))
  have inRange : (s.seen p).RetryInRange c a i l plan cls es :=
    State.RetryInRange.seen ⟨owned, hs, listed, by rwa [classes], range⟩
  have requested : a.request l plan (eligible (s.seen p).params.nominal cls plan) = q := by
    rw [State.seen_params, hq]
    rfl
  rw [← s.seen_ask p]
  refine ⟨fun st ha => refused (runRetry_notGranted inRange requested ha), fun e ha => ?_⟩
  have reports := State.retryAccepted_reports (s.seen_unmarked p i) l q cls a.pin es e (p = l.home)
  have executed := takeCode_answered takes hc (runRetry_granted inRange requested ha) rfl reports.work.lastServed
  have out := reports.answered c .ok [((s.seen p).retryState l q e).code, byte e.1]
  have nodup : (outputsOf es).Nodup := listed ▸ entries.nodup
  refine ⟨_, (s.seen p).retryState l q e, ?_, congrArg Host.Outcome.next executed, out.work,
    out.deviceNotices, out.touched, ?_, out.others, ?_, fun f hf => ?_, fun x hx => ?_, fun o ho => ?_,
    fun q j hj => out.kept q j (hj.imp_left fun home => decide_eq_true home.symm),
    fun home => out.notice (decide_eq_false (Ne.symm home))⟩
  · rw [State.answered_isLocked, State.retryAccepted_isLocked]
    rfl
  · rw [out.slot, hq]
    rfl
  · rw [State.answered_engine, State.retryAccepted_engine, if_pos rfl, State.seen_engine, State.seen_selection,
      State.seen_params]
  · rw [State.answered_engine, State.retryAccepted_engine, if_neg hf, State.seen_engine]
  · rw [State.answered_output, State.retryAccepted_output nodup hx, State.seen_output]
  · rw [State.answered_output, State.retryAccepted_output_not_mem ho, State.seen_output]

end Sys2Proof.Machine

/-! ## The resets at the pins (R125, R154, R157) -/

namespace Sys2Proof.Machine

section pins

variable {s : State}

theorem State.coldReset_eq (s : State) : s.coldReset = { State.reset with
    rstnLow := s.rstnLow, supselPort := s.supselPort, supervisor := s.supervisor,
    portA := { PortState.initial with csLow := s.portA.csLow },
    portB := { PortState.initial with csLow := s.portB.csLow },
    touched := s.touched, freeCount := s.freeCount, pending := s.pending } := rfl

theorem State.pinReset_of_high (h : s.rstnLow = false) : s.pinReset = { s.coldReset with rstnLow := true } := by
  simp [State.pinReset, h]

theorem State.pinRelease_of_low (v : Level) (h : s.rstnLow = true) :
    s.pinRelease v = { s.sampleSupsel v with rstnLow := false } := if_pos h

theorem State.oscillatorStable_of_high (h : s.rstnLow = false) : s.oscillatorStable = { s with ready := true } := by
  simp [State.oscillatorStable, h]

end pins

/-- Settles O32: each pin event writes what its rule names, and its marks are empty before and after. -/
theorem pinsReset : Obligations.PinsReset := by
  intro s v ht
  refine ⟨congrArg Host.Outcome.next ?_, fun h => congrArg Host.Outcome.next ?_,
    fun h => congrArg Host.Outcome.next ?_, fun h => congrArg Host.Outcome.next ?_, rfl, rfl⟩
  · rw [event_of_unmarked ht, s.coldReset_eq]
    rfl
  · rw [event_of_unmarked ht, State.pinReset_of_high h, s.coldReset_eq]
    rfl
  · rw [event_of_unmarked ht, State.pinRelease_of_low v h, ← ht]
    rfl
  · rw [event_of_unmarked ht, State.oscillatorStable_of_high h, ← ht]

end Sys2Proof.Machine

/-! ## What a step does to the reference monitor

A step is taken apart once into what it may do to the inputs, the selection and the readiness: nothing, a reset, one
millisecond, a new record of one input, or a new configuration (R125, R126, R134, R169). -/

namespace Sys2Proof.Machine

/-! ### The monitor -/

/-- The inputs and the selection of `t` are those of `s`, and a READY part stays READY. -/
structure SameMonitor (s t : State) : Prop where
  ready : s.ready = true → t.ready = true
  refA : t.refA = s.refA
  refB : t.refB = s.refB
  selection : t.selection = s.selection

namespace SameMonitor

variable {s t u : State}

theorem refl (s : State) : SameMonitor s s := ⟨id, rfl, rfl, rfl⟩

theorem trans (h : SameMonitor s t) (k : SameMonitor t u) : SameMonitor s u :=
  ⟨k.ready ∘ h.ready, k.refA.trans h.refA, k.refB.trans h.refB, k.selection.trans h.selection⟩

theorem of_work (h : LeaseWork s t) : SameMonitor s t := ⟨h.ready.trans, h.refA, h.refB, h.selection⟩

theorem input (h : SameMonitor s t) (r : RefInput) : t.input r = s.input r := by
  cases r with
  | refA => exact h.refA
  | refB => exact h.refB

theorem setPort (p : Port) (x : PortState) (h : SameMonitor s t) : SameMonitor s (t.setPort p x) :=
  h.trans ⟨by simp, by simp, by simp, by simp⟩

theorem unmarked (xs : List SlotId) (h : SameMonitor s t) : SameMonitor s { t with touched := xs } :=
  h.trans ⟨id, rfl, rfl, rfl⟩

theorem deviceNotices (d : DeviceNotices) (h : SameMonitor s t) : SameMonitor s { t with deviceNotices := d } :=
  h.trans ⟨id, rfl, rfl, rfl⟩

/-- A loop that frees some of the RETIRED slots. -/
theorem freeSome (ok : State → SlotId → Bool) (h : SameMonitor s t) :
    SameMonitor s (forEach allSlots (fun i u => if ok u i then u.freeRetired i else u) t) := by
  refine forEach_keeps (P := SameMonitor s) _ (fun i u hu => ?_) allSlots h
  split
  · unfold State.freeRetired
    split
    · exact hu.trans (.of_work ((LeaseWork.refl u).setSlot i _))
    · exact hu
    · exact hu
  · exact hu

/-! ### Frames, notices and clients -/

section ports

variable (p : Port)

theorem portResync (h : SameMonitor s t) : SameMonitor s (t.portResync p) := by
  unfold State.portResync
  refine freeSome (fun u i => u.isRetiredAt p i) ?_
  dsimp only
  split
  · exact (h.setPort p _).deviceNotices _
  · exact h.setPort p _

theorem judge (f : Frame) (kind : Byte) (rest : List Byte) (h : SameMonitor s t) :
    SameMonitor s (t.judge p f kind rest) := by
  have error (x : FrameError) : SameMonitor s (t.setFrameError p x) := h.setPort p _
  have resync : SameMonitor s (t.judgeResync p rest) := by
    unfold State.judgeResync
    split
    · exact error _
    · split
      · exact h.portResync p
      · exact error _
  unfold State.judge
  split
  · exact error _
  split
  · exact error _
  split
  · exact h.setPort p _
  split
  · exact h.setPort p _
  split
  · exact resync
  · exact error _

theorem endFrame (x : ShiftedIn) (h : SameMonitor s t) : SameMonitor s (t.endFrame p x) := by
  unfold State.endFrame
  split
  · split
    · exact (h.setPort p _).judge p _ _ _
    · exact h.setPort p _
  · exact h

theorem chipSelectFall (h : SameMonitor s t) : SameMonitor s (t.chipSelectFall p) := by
  unfold State.chipSelectFall
  split
  · exact h
  · exact h.setPort p _

theorem clearNotices (h : SameMonitor s t) : SameMonitor s (t.clearNotices p) := by
  have freed := h.freeSome fun _ i => t.noticeClosed p i
  unfold State.clearNotices
  dsimp only
  split
  · exact (freed.setPort p _).deviceNotices _
  · exact freed.setPort p _

theorem setMask (m : Option Byte) (h : SameMonitor s t) : SameMonitor s (t.setMask p m) := by
  cases m with
  | none => exact h
  | some m => exact h.setPort p _

theorem setClients (a : ClientArgs) (h : SameMonitor s t) : SameMonitor s (t.setClients a) :=
  forEach_keeps (P := SameMonitor s) State.setQuota (fun _ _ hu => hu.trans ⟨id, rfl, rfl, rfl⟩) a.quotas
    ((h.setMask .A a.maskA).setMask .B a.maskB)

theorem afterFind (o : OutputId) (h : SameMonitor s t) : SameMonitor s (t.afterFind o) := by
  unfold State.afterFind
  split
  · exact h.trans ⟨id, rfl, rfl, rfl⟩
  · exact h

end ports

theorem pinRelease (v : Level) (s : State) : SameMonitor s (s.pinRelease v) := by
  unfold State.pinRelease
  split
  · exact ⟨id, rfl, rfl, rfl⟩
  · exact refl s

theorem oscillatorStable (s : State) : SameMonitor s s.oscillatorStable := by
  unfold State.oscillatorStable
  split
  · exact refl s
  · exact ⟨fun _ => rfl, rfl, rfl, rfl⟩

end SameMonitor

/-! ### The lease commands -/

theorem LeaseWork.retuneCase {s : State} {told : Bool} {i : SlotId} {l : Lease} {q : RetuneRequest} {r : Reply}
    (hr : s.retuneCase told i l q = .ok r) : LeaseWork s r.state := by
  have start := LeaseWork.refl s
  have gap (e : EngineId) (st : Status) (hg : s.gapOrRefuse told i l q e st = .ok r) : LeaseWork s r.state :=
    of_bind hg fun _ k => by
      rw [← Except.ok.inj k, retuneReply_state]
      exact start.retuneGap told i l q e
  unfold State.retuneCase at hr
  split at hr
  · rw [← Except.ok.inj hr, retuneReply_state]
    exact start
  split at hr
  · split at hr
    · rw [← Except.ok.inj hr, retuneReply_state]
      exact start.retuneInPlace told i l q
    · exact of_bind hr fun e k => by
        rw [← Except.ok.inj k, retuneReply_state]
        exact start.rebind told i l q e
  split at hr
  · cases hr
  rename_i e _
  split at hr
  · rw [← Except.ok.inj hr, retuneReply_state]
    exact start.retuneLocal told i l q e
  unfold State.moveOff at hr
  split at hr
  · exact gap e _ hr
  split at hr
  · rename_i g _
    rw [← Except.ok.inj hr, retuneReply_state]
    exact start.retuneOverlap told i l q g
  · exact gap e _ hr
  · cases hr

section runs

variable {p : Port} {c : HeldCommand} {s : State} {r : Reply}

theorem runOpen_work (h : runOpen p c s = .ok r) : LeaseWork s r.state := by
  obtain ⟨a, cs, i, e, -, hk⟩ := runOpen_ok h
  exact hk ▸ (LeaseWork.refl s).openAccepted p c.client a cs i e

theorem runStart_work (h : runStart p c s = .ok r) : LeaseWork s r.state := by
  obtain ⟨is, -, hk⟩ := runStart_ok h
  exact hk ▸ forEach_keeps (P := LeaseWork s) (State.startOne p) (fun i _ hu => hu.startOne p i) is (.refl s)

theorem runRetune_work (h : runRetune p c s = .ok r) : LeaseWork s r.state := by
  obtain ⟨told, i, l, q, -, -, hk⟩ := runRetune_ok h
  exact .retuneCase hk

theorem runRelease_work (h : runRelease p c s = .ok r) : LeaseWork s r.state := by
  obtain ⟨told, i, l, -, -, hk⟩ := runRelease_ok h
  exact hk ▸ (LeaseWork.refl s).endLease told _ i l

theorem runRevoke_work (h : runRevoke p c s = .ok r) : LeaseWork s r.state := by
  obtain ⟨i, l, -, -, hk⟩ := runRevoke_ok h
  exact hk ▸ (LeaseWork.refl s).endLease false _ i l

theorem runRetry_work (h : runRetry p c s = .ok r) : LeaseWork s r.state := by
  obtain ⟨told, i, l, q, cls, pin, es, e, -, hk⟩ := runRetry_ok h
  exact hk ▸ ((((LeaseWork.refl s).commit q e).setLease i _).enter i).tell told i

theorem runEngineClear_work (h : runEngineClear p c s = .ok r) : LeaseWork s r.state := by
  obtain ⟨e, -, hk⟩ := runEngineClear_ok h
  exact hk ▸ (LeaseWork.refl s).setEngine e _

end runs

/-! ### What a step may do -/

/-- What an event makes of the record of an input (R127, R128, R129, R132). -/
inductive InputRec.Next (p : Params) (x : InputRec) : InputRec → Prop
  | arrived : x.Next p (x.arrive p.qualPeriod)
  | lost : x.Next p x.lose
  | measured (edges : Nat) (watched : x.state ≠ .absent) : x.Next p (x.measure p edges)
  | passed (trial : x.state = .qualifying) : x.Next p x.pass

/-- What a step that is no power-on or pin reset makes of the monitor: it leaves it, a device reset clears it, a tick
advances its timers, an event writes one input, or a CONFIGURE is accepted. -/
inductive MonitorMove (s t : State) : Prop
  | kept (h : SameMonitor s t)
  | cleared (ready : s.ready = true → t.ready = true) (inputs : ∀ r, t.input r = InputRec.initial)
      (selection : t.selection = none)
  | ticked (ready : s.ready = true → t.ready = true) (inputs : ∀ r, t.input r = (s.input r).tick)
      (selection : t.selection = s.selection)
  | updated (u : State) (r : RefInput) (x : InputRec) (before : SameMonitor s u) (next : (u.input r).Next u.params x)
      (after : SameMonitor (u.updateInput r x) t)
  | configured (u : State) (ws : List ParamWrite) (before : SameMonitor s u) (after : SameMonitor (u.configure ws) t)

namespace MonitorMove

variable {s t u v : State}

theorem work (h : LeaseWork s t) : MonitorMove s t := .kept (.of_work h)

theorem within (h : SameMonitor s u) (m : MonitorMove u v) (k : SameMonitor v t) : MonitorMove s t := by
  cases m with
  | kept m => exact .kept (h.trans (m.trans k))
  | cleared ready inputs selection =>
    exact .cleared (k.ready ∘ ready ∘ h.ready) (fun r => (k.input r).trans (inputs r)) (k.selection.trans selection)
  | ticked ready inputs selection =>
    exact .ticked (k.ready ∘ ready ∘ h.ready) (fun r => (k.input r).trans ((inputs r).trans (by rw [h.input])))
      (k.selection.trans (selection.trans h.selection))
  | updated w r x before next after => exact .updated w r x (h.trans before) next (after.trans k)
  | configured w ws before after => exact .configured w ws (h.trans before) (after.trans k)

theorem event {f : State → State} (hf : ∀ u, MonitorMove u (f u)) (s : State) : MonitorMove s (Machine.event f s) :=
  (hf _).within ((SameMonitor.refl s).unmarked []) ((SameMonitor.refl _).unmarked [])

/-- A taking does what the accepted run of its command does: a refusal leaves the monitor. -/
theorem taking {mine : HeldCommand → Bool} {run : Port → HeldCommand → State → Except Denial Reply}
    (hr : ∀ p c u r, run p c u = .ok r → MonitorMove u r.state) (s : State) :
    MonitorMove s (Machine.event (State.take mine run) s) := by
  refine .event (fun s => ?_) s
  unfold State.take
  split
  · exact .kept (.refl s)
  rename_i p c _
  split
  swap
  · exact .kept (.refl s)
  have taken : SameMonitor s (s.afterTaking p) := ((SameMonitor.refl s).setPort p _).trans ⟨id, rfl, rfl, rfl⟩
  unfold State.respond
  split
  · split
    · rename_i r hrun
      exact (hr p c _ r hrun).within taken ((SameMonitor.refl _).setPort p _)
    · exact .kept (taken.setPort p _)
  · exact .kept (taken.setPort p _)

theorem leaseReset (s : State) : MonitorMove s s.leaseReset := by
  rw [s.leaseReset_eq]
  exact .kept ⟨id, rfl, rfl, rfl⟩

theorem deviceReset (p : Port) (s : State) : MonitorMove s (s.deviceReset p) := by
  unfold State.deviceReset
  have h := s.leaseReset_eq
  generalize s.leaseReset = t at h ⊢
  refine .cleared (fun hr => ?_) (fun r => ?_) ?_
  · rw [State.setPort_ready, h]
    exact hr
  · rw [State.input_setPort]
    cases r <;> rfl
  · rw [State.setPort_selection]

theorem tick (s : State) : MonitorMove s s.tick := by
  unfold State.tick
  split
  · have work : LeaseWork s (forEach allEngines
        (fun e u => u.setEngine e ((u.engine e).tick s.params.holdoverLimit)) s) :=
      forEach_keeps (P := LeaseWork s) _ (fun e _ hu => hu.setEngine e _) allEngines (.refl s)
    refine .ticked work.ready.trans (fun r => ?_) work.selection
    cases r with
    | refA => exact congrArg InputRec.tick work.refA
    | refB => exact congrArg InputRec.tick work.refB
  · exact .kept (.refl s)

/-! ### The events of the monitor -/

section inputs

variable (r : RefInput) (s : State)

theorem activityStart : MonitorMove s (s.activityStart r) := by
  unfold State.activityStart
  split
  · exact .updated s r _ (.refl s) .arrived (.refl _)
  · exact .kept (.refl s)

theorem activityLoss : MonitorMove s (s.activityLoss r) := by
  unfold State.activityLoss
  split
  · exact .updated s r _ (.refl s) .lost (.refl _)
  · exact .kept (.refl s)

theorem measurement (n : Nat) : MonitorMove s (s.measurement r n) := by
  unfold State.measurement
  split
  · rename_i h
    obtain ⟨-, watched⟩ : s.ready = true ∧ (s.input r).state ≠ .absent := by simpa using h
    exact .updated s r _ (.refl s) (.measured n watched) (.refl _)
  · exact .kept (.refl s)

theorem qualificationExpiry : MonitorMove s (s.qualificationExpiry r) := by
  unfold State.qualificationExpiry
  split
  · rename_i h
    obtain ⟨-, trial⟩ : s.ready = true ∧ (s.input r).state = .qualifying := by simpa using h
    exact .updated s r _ (.refl s) (.passed trial) (.refl _)
  · exact .kept (.refl s)

end inputs

end MonitorMove

/-! ### Dormancy -/

section dormant

variable {s t : State}

theorem State.Dormant.congr (h : s.Dormant) (exchanges : ∀ p, (t.port p).exchange = (s.port p).exchange)
    (monitor : SameMonitor s t) (slots : t.slots = s.slots) (engines : t.engines = s.engines)
    (outputs : t.outputs = s.outputs) : t.Dormant where
  exchanges p := (exchanges p).trans (h.exchanges p)
  inputs r := (monitor.input r).trans (h.inputs r)
  selection := monitor.selection.trans h.selection
  slots i := by rw [State.slot, slots]; exact h.slots i
  engines e := by rw [State.engine, engines]; exact h.engines e
  outputs o := by rw [State.output, outputs]; exact h.outputs o

theorem State.Dormant.setPort (h : s.Dormant) {p : Port} {x : PortState} (hx : x.exchange = (s.port p).exchange) :
    (s.setPort p x).Dormant := by
  refine h.congr (fun q => ?_) ((SameMonitor.refl s).setPort p x) (by simp) (by simp) (by simp)
  rw [State.port_setPort]
  split
  · rename_i hq; rw [hq, hx]
  · rfl

theorem State.Dormant.unmarked (h : s.Dormant) (xs : List SlotId) : ({ s with touched := xs } : State).Dormant :=
  h.congr (fun p => by rw [State.port_touched]) ((SameMonitor.refl s).unmarked xs) rfl rfl rfl

theorem State.coldReset_dormant (s : State) : s.coldReset.Dormant where
  exchanges p := by cases p <;> rfl
  inputs := fun r => by cases r <;> rfl
  selection := rfl
  slots := State.reset_slot
  engines := State.reset_engine
  outputs := State.reset_output

theorem State.coldReset_sampleSupsel_dormant (v : Level) (s : State) : (s.coldReset.sampleSupsel v).Dormant :=
  s.coldReset_dormant.congr (fun p => by cases p <;> rfl) ⟨id, rfl, rfl, rfl⟩ rfl rfl rfl

theorem event_pinReset_dormant (h : s.rstnLow = false) : (event State.pinReset s).Dormant := by
  have low : ({ s with touched := [] } : State).rstnLow = false := h
  rw [event, State.pinReset_of_high low]
  exact (State.coldReset_dormant _).congr (fun p => by cases p <;> rfl) ⟨id, rfl, rfl, rfl⟩ rfl rfl rfl

end dormant

/-- Every command resets the part, or makes one of the moves of the monitor. -/
theorem exec_monitor (i : Instr) (s : State) : ∃ t, exec i s = .next t ∧ (t.Dormant ∨ MonitorMove s t) := by
  have work {f : State → State} (hf : ∀ u, LeaseWork u (f u)) : MonitorMove s (event f s) :=
    .event (fun u => .work (hf u)) s
  have same {f : State → State} (hf : ∀ u, SameMonitor u (f u)) : MonitorMove s (event f s) :=
    .event (fun u => .kept (hf u)) s
  have frame (p : Port) (x : ShiftedIn) : MonitorMove s (event (State.endFrame p x) s) :=
    same fun u => (SameMonitor.refl u).endFrame p x
  have reads (u : State) : MonitorMove u u := .kept (.refl u)
  have softReset (mine : HeldCommand → Bool) : MonitorMove s (event (State.take mine runSoftReset) s) :=
    .taking (fun p c u r hr => by
      rcases runSoftReset_ok hr with h | h <;> rw [h]
      · exact .deviceReset p u
      · exact .leaseReset u) s
  cases i with
  | powerOnReset v => exact ⟨_, rfl, .inl ((State.coldReset_sampleSupsel_dormant v _).unmarked [])⟩
  | pinResetAssert =>
    cases h : s.rstnLow with
    | false => exact ⟨_, rfl, .inl (event_pinReset_dormant h)⟩
    | true =>
      have low : State.pinReset { s with touched := [] } = { s with touched := [] } := if_pos h
      refine ⟨_, rfl, .inr ?_⟩
      rw [event, low]
      exact .kept ((SameMonitor.refl s).unmarked [])
  | pinResetRelease v => exact ⟨_, rfl, .inr (same (SameMonitor.pinRelease v))⟩
  | oscillatorStable => exact ⟨_, rfl, .inr (same SameMonitor.oscillatorStable)⟩
  | nop p rest => exact ⟨_, rfl, .inr (frame p _)⟩
  | commandFrame p rest => exact ⟨_, rfl, .inr (frame p _)⟩
  | fetch p rest => exact ⟨_, rfl, .inr (frame p _)⟩
  | resync p rest => exact ⟨_, rfl, .inr (frame p _)⟩
  | unknownFrameKind p bytes => exact ⟨_, rfl, .inr (frame p _)⟩
  | chipSelectFall p => exact ⟨_, rfl, .inr (same fun u => (SameMonitor.refl u).chipSelectFall p)⟩
  | openLease => exact ⟨_, rfl, .inr (.taking (fun _ _ _ _ hr => .work (runOpen_work hr)) s)⟩
  | start => exact ⟨_, rfl, .inr (.taking (fun _ _ _ _ hr => .work (runStart_work hr)) s)⟩
  | retune => exact ⟨_, rfl, .inr (.taking (fun _ _ _ _ hr => .work (runRetune_work hr)) s)⟩
  | release => exact ⟨_, rfl, .inr (.taking (fun _ _ _ _ hr => .work (runRelease_work hr)) s)⟩
  | revoke => exact ⟨_, rfl, .inr (.taking (fun _ _ _ _ hr => .work (runRevoke_work hr)) s)⟩
  | retry => exact ⟨_, rfl, .inr (.taking (fun _ _ _ _ hr => .work (runRetry_work hr)) s)⟩
  | queryLease => exact ⟨_, rfl, .inr (.taking (fun _ _ u _ hr => of_bind hr fun _ k => of_bind k fun _ k => by
      cases k; exact reads u) s)⟩
  | lookupTag => exact ⟨_, rfl, .inr (.taking (fun _ _ u _ hr => of_bind hr fun _ k => by
      split at k <;> cases k <;> exact reads u) s)⟩
  | listClient => exact ⟨_, rfl, .inr (.taking (fun _ _ u _ hr => of_bind hr fun _ k => of_bind k fun _ k => by
      cases k; exact reads u) s)⟩
  | findOutput => exact ⟨_, rfl, .inr (.taking (fun _ _ u _ hr => of_bind hr fun o k => by
      cases k; exact .kept ((SameMonitor.refl u).afterFind o)) s)⟩
  | queryEngine => exact ⟨_, rfl, .inr (.taking (fun _ _ u _ hr => of_bind hr fun _ k => by
      cases k; exact reads u) s)⟩
  | queryReference => exact ⟨_, rfl, .inr (.taking (fun _ _ u _ hr => of_bind hr fun _ k => by
      cases k; exact reads u) s)⟩
  | notices => exact ⟨_, rfl, .inr (.taking (fun p _ u _ hr => of_bind hr fun _ k => by
      rw [← Except.ok.inj k]; exact .kept ((SameMonitor.refl u).clearNotices p)) s)⟩
  | setIrq => exact ⟨_, rfl, .inr (.taking (fun p _ u _ hr => of_bind hr fun _ k => by
      cases k; exact .kept ((SameMonitor.refl u).setPort p _)) s)⟩
  | readConfig => exact ⟨_, rfl, .inr (.taking (fun _ _ u _ hr => of_bind hr fun _ k => by
      cases k; exact reads u) s)⟩
  | configure =>
    refine ⟨_, rfl, .inr (.taking (fun p c u r hr => ?_) s)⟩
    obtain ⟨ws, hk⟩ := runConfigure_ok hr
    exact hk ▸ .configured u ws (.refl u) (.refl _)
  | setClients => exact ⟨_, rfl, .inr (.taking (fun _ _ u _ hr => of_bind hr fun _ k => of_bind k fun a k => by
      cases k; exact .kept ((SameMonitor.refl u).setClients a)) s)⟩
  | handover => exact ⟨_, rfl, .inr (.taking (fun _ _ _ _ hr => of_bind hr fun _ k => of_bind k fun _ k => by
      cases k; exact .kept ⟨id, rfl, rfl, rfl⟩) s)⟩
  | softResetLeases => exact ⟨_, rfl, .inr (softReset _)⟩
  | softResetDevice => exact ⟨_, rfl, .inr (softReset _)⟩
  | engineClear => exact ⟨_, rfl, .inr (.taking (fun _ _ _ _ hr => .work (runEngineClear_work hr)) s)⟩
  | unknownCommandCode => exact ⟨_, rfl, .inr (.taking (fun _ _ _ _ hr => by cases hr) s)⟩
  | lockAchieved e => exact ⟨_, rfl, .inr (work fun u => (LeaseWork.refl u).lockAchieved e)⟩
  | lockLost e => exact ⟨_, rfl, .inr (work fun u => (LeaseWork.refl u).lockLost e)⟩
  | acquisitionTimerExpiry e => exact ⟨_, rfl, .inr (work fun u => (LeaseWork.refl u).acquisitionExpiry e)⟩
  | holdoverTimerLimit e => exact ⟨_, rfl, .inr (work fun u => (LeaseWork.refl u).holdoverLimitReached e)⟩
  | lingerTimerExpiry e => exact ⟨_, rfl, .inr (work fun u => (LeaseWork.refl u).lingerExpiry e)⟩
  | changeoverDone o => exact ⟨_, rfl, .inr (work fun u => (LeaseWork.refl u).changeoverDone o)⟩
  | activityStart r => exact ⟨_, rfl, .inr (.event (.activityStart r) s)⟩
  | activityLoss r => exact ⟨_, rfl, .inr (.event (.activityLoss r) s)⟩
  | measurement r n => exact ⟨_, rfl, .inr (.event (.measurement r · n) s)⟩
  | qualificationTimerExpiry r => exact ⟨_, rfl, .inr (.event (.qualificationExpiry r) s)⟩

/-- Every step resets the part, or makes one of the moves of the monitor. -/
theorem step_monitor {s t : State} (h : step s = .next t) : t.Dormant ∨ MonitorMove s t := by
  unfold step at h
  split at h
  · cases h
    exact .inr (.tick s)
  · rename_i c rest _
    have before : SameMonitor s { s with pending := rest } := ⟨id, rfl, rfl, rfl⟩
    obtain ⟨u, hu, hk⟩ := exec_monitor c { s with pending := rest }
    rw [hu] at h
    cases h
    exact hk.imp_right fun m => .within before m (.refl _)

end Sys2Proof.Machine

/-! ## The invariants of the reference monitor (R125, R126, R134) -/

namespace Sys2Proof.Machine

/-! ### The re-evaluation of the selection -/

/-- A re-evaluation writes the selection that the table gives, and what a change of it does to leases and engines
(R135). -/
theorem State.reevaluate_work (s : State) : LeaseWork { s with selection := s.chosen } s.reevaluate := by
  unfold State.reevaluate
  dsimp only
  split
  · rename_i h
    rw [h]
    exact .refl s
  · exact (LeaseWork.refl _).announceSelection.deviceNotices _

theorem State.reevaluate_input (s : State) (r : RefInput) : s.reevaluate.input r = s.input r := by
  cases r with
  | refA => exact s.reevaluate_work.refA
  | refB => exact s.reevaluate_work.refB

theorem State.raiseRefInput_sameMonitor (r : RefInput) (s : State) : SameMonitor s (s.raiseRefInput r) := by
  cases r <;> exact ⟨id, rfl, rfl, rfl⟩

theorem State.updateInput_input (r k : RefInput) (x : InputRec) (s : State) :
    (s.updateInput r x).input k = if k = r then x else s.input k := by
  unfold State.updateInput
  split
  · exact s.input_setInput r k x
  · rw [State.reevaluate_input, (State.raiseRefInput_sameMonitor r _).input, s.input_setInput r k x]

theorem State.updateInput_ready (r : RefInput) (x : InputRec) (s : State) (h : s.ready = true) :
    (s.updateInput r x).ready = true := by
  unfold State.updateInput
  split
  · exact (s.setInput_ready r x).trans h
  · exact (State.reevaluate_work _).ready.trans
      ((State.raiseRefInput_sameMonitor r _).ready ((s.setInput_ready r x).trans h))

/-! ### An accepted CONFIGURE -/

theorem State.checkHoldovers_work (s : State) : LeaseWork s s.checkHoldovers := by
  refine forEach_keeps (P := LeaseWork s) _ (fun e u hu => ?_) allEngines (.refl s)
  split
  · exact hu.declareFault e _
  · exact hu

/-- What the writes, the two reactions to them and the comparison of the holdover limit keep, a CONFIGURE keeps (R169).
-/
theorem State.configure_keeps {P : State → Prop} (written : ∀ u p, P u → P { u with params := p })
    (retried : ∀ u, P u → P u.nominalChanged) (reevaluated : ∀ u, P u → P u.reevaluate)
    (worked : ∀ u v, LeaseWork u v → P u → P v) (ws : List ParamWrite) {s : State} (h : P s) :
    P (s.configure ws) := by
  have start := written s (ws.foldl Params.write s.params) h
  unfold State.configure
  generalize ({ s with params := ws.foldl Params.write s.params } : State) = t at start ⊢
  have nominal : P (if t.params.nominal = s.params.nominal then t else t.nominalChanged) := by
    split
    · exact start
    · exact retried t start
  dsimp only
  generalize (if t.params.nominal = s.params.nominal then t else t.nominalChanged) = u at nominal ⊢
  have mode : P (if t.params.mode = s.params.mode && t.params.priority = s.params.priority then u
      else u.reevaluate) := by
    split
    · exact nominal
    · exact reevaluated u nominal
  split
  · exact worked _ _ (State.checkHoldovers_work _) mode
  · exact mode

theorem State.retrialInput_ready (r : RefInput) {s : State} (h : s.ready = true) : (s.retrialInput r).ready = true := by
  have written := (s.setInput_ready r ((s.input r).retrial s.params.qualPeriod)).trans h
  unfold State.retrialInput
  dsimp only
  split
  · exact written
  · exact (State.raiseRefInput_sameMonitor r _).ready written

theorem State.retrialInput_input (r k : RefInput) (s : State) :
    (s.retrialInput r).input k = if k = r then (s.input r).retrial s.params.qualPeriod else s.input k := by
  unfold State.retrialInput
  dsimp only
  split
  · exact s.input_setInput r k _
  · rw [(State.raiseRefInput_sameMonitor r _).input, s.input_setInput r k _]

theorem State.nominalChanged_ready (s : State) (h : s.ready = true) : s.nominalChanged.ready = true :=
  (State.reevaluate_work _).ready.trans (State.retrialInput_ready .refB (State.retrialInput_ready .refA h))

theorem State.configure_ready (ws : List ParamWrite) {s : State} (h : s.ready = true) : (s.configure ws).ready = true :=
  State.configure_keeps (P := fun u => u.ready = true) (fun _ _ => id)
    (fun u hu => u.nominalChanged_ready hu) (fun u => u.reevaluate_work.ready.trans) (fun _ _ w => w.ready.trans) ws h

/-! ### READY -/

/-- Only a power-on or a pin reset takes READY from the part (R125). -/
theorem MonitorMove.ready {s t : State} (m : MonitorMove s t) (h : s.ready = true) : t.ready = true := by
  cases m with
  | kept m => exact m.ready h
  | cleared ready _ _ => exact ready h
  | ticked ready _ _ => exact ready h
  | updated u r x before _ after => exact after.ready (u.updateInput_ready r x (before.ready h))
  | configured u ws before after => exact after.ready (State.configure_ready ws (before.ready h))

/-! ### The records of the inputs (R126) -/

namespace InputRec

variable {x : InputRec}

theorem Sound.tick (h : x.Sound) : x.tick.Sound where
  interval := by
    refine Iff.trans (Eq.to_iff (congrArg (· = true) ?_)) h.interval
    simp only [InputRec.tick, MeasurementInterval.tick]
    split <;> rfl
  qualification := by
    refine Iff.trans (Eq.to_iff (congrArg (· = true) ?_)) h.qualification
    simp only [InputRec.tick, QualificationTimer.tick]
    repeat' split
    all_goals rfl
  strikes := h.strikes

/-- An input in QUALIFYING with its interval running. -/
theorem qualify_sound (period : Nat) (h : x.interval.running = true) : (x.qualify period).Sound where
  interval := by simp [qualify, h]
  qualification := by simp [qualify, QualificationTimer.start]
  strikes := by simp [qualify]

theorem judge_sound (good : Bool) (period : Nat) (h : x.Sound) : (x.judge good period).Sound := by
  obtain ⟨interval, qualification, strikes⟩ := h
  unfold judge
  split
  · exact ⟨interval, qualification, strikes⟩
  · rename_i hs
    split
    · exact ⟨interval, qualification, strikes⟩
    · exact ⟨by simpa [hs] using interval, by simp [QualificationTimer.stop], fun hk => by
        rw [hs] at strikes
        exact absurd (strikes hk) (by decide)⟩
  · rename_i hs
    split
    · exact ⟨interval, qualification, fun _ => hs⟩
    · split
      · exact ⟨interval, qualification, fun _ => hs⟩
      · exact ⟨by simpa [hs] using interval, by simpa [hs] using qualification, by simp⟩
  · rename_i hs
    split
    · exact qualify_sound period (interval.2 (by simp [hs]))
    · exact ⟨interval, qualification, strikes⟩

theorem retrial_sound (period : Nat) (h : x.Sound) : (x.retrial period).Sound := by
  unfold retrial
  split
  · exact h
  all_goals exact qualify_sound period rfl

/-- Every event of an input leaves its record sound (R127 to R132). -/
theorem Sound.next {p : Params} {y : InputRec} (h : x.Sound) (n : x.Next p y) : y.Sound := by
  cases n with
  | arrived => exact qualify_sound p.qualPeriod rfl
  | lost => exact ⟨by simp [lose], by simp [lose, QualificationTimer.stop], by simp [lose]⟩
  | measured edges watched => exact judge_sound _ _ ⟨by simpa using watched, h.qualification, h.strikes⟩
  | passed trial =>
    have running := h.interval.2 (by simp [trial])
    exact ⟨by simpa [pass] using running, by simp [pass, QualificationTimer.stop], by simp [pass]⟩

end InputRec

theorem State.InputsSound.of_input {s t : State} (h : s.InputsSound) (k : ∀ r, t.input r = s.input r) :
    t.InputsSound := fun r => k r ▸ h r

theorem State.InputsSound.retrialInput (r : RefInput) {s : State} (h : s.InputsSound) :
    (s.retrialInput r).InputsSound := fun k => by
  rw [s.retrialInput_input r k]
  split
  · exact InputRec.retrial_sound _ (h r)
  · exact h k

theorem State.InputsSound.reevaluate {s : State} (h : s.InputsSound) : s.reevaluate.InputsSound :=
  h.of_input s.reevaluate_input

theorem State.InputsSound.configure (ws : List ParamWrite) {s : State} (h : s.InputsSound) :
    (s.configure ws).InputsSound :=
  State.configure_keeps (P := State.InputsSound) (fun u p hu => hu.of_input fun r => by cases r <;> rfl)
    (fun _ hu => ((hu.retrialInput .refA).retrialInput .refB).reevaluate) (fun _ hu => hu.reevaluate)
    (fun _ _ w hu => hu.of_input (SameMonitor.of_work w).input) ws h

theorem State.InputsSound.move {s t : State} (h : s.InputsSound) (m : MonitorMove s t) : t.InputsSound := by
  cases m with
  | kept m => exact h.of_input m.input
  | cleared _ inputs _ => exact fun r => inputs r ▸ InputRec.initial_sound
  | ticked _ inputs _ => exact fun r => inputs r ▸ (h r).tick
  | updated u r x before next after =>
    have before := h.of_input before.input
    refine fun k => ?_
    rw [after.input, u.updateInput_input]
    split
    · exact (before r).next next
    · exact before k
  | configured u ws before after => exact ((h.of_input before.input).configure ws).of_input after.input

/-- Settles O51: each move of the monitor writes sound records of the inputs. -/
theorem stepKeepsInputsSound : Obligations.StepKeepsInputsSound := by
  intro s t h hst
  rcases step_monitor hst with d | m
  · exact fun r => d.inputs r ▸ InputRec.initial_sound
  · exact h.move m

/-! ### The selection (R134) -/

theorem State.SelectionValid.of_same {s t : State} (h : s.SelectionValid) (selection : t.selection = s.selection)
    (states : ∀ r, (t.input r).state = (s.input r).state) : t.SelectionValid := fun r hr => by
  rw [selection] at hr
  exact (states r).trans (h r hr)

theorem State.SelectionValid.monitor {s t : State} (h : s.SelectionValid) (k : SameMonitor s t) : t.SelectionValid :=
  h.of_same k.selection fun r => by rw [k.input]

theorem State.selectionValid_of_none {s : State} (h : s.selection = none) : s.SelectionValid := fun r hr => by
  rw [h] at hr
  cases hr

/-- Whatever was selected before, a re-evaluation selects a VALID input or NONE (R134, R135). -/
theorem State.reevaluate_selectionValid (s : State) : s.reevaluate.SelectionValid := fun r hr => by
  rw [s.reevaluate_work.selection] at hr
  rw [s.reevaluate_input]
  exact State.chosen_valid hr

/-- A record of an input that keeps its state keeps the selection; any other is followed by a re-evaluation (R133). -/
theorem State.SelectionValid.updateInput (r : RefInput) (x : InputRec) {s : State} (h : s.SelectionValid) :
    (s.updateInput r x).SelectionValid := by
  unfold State.updateInput
  split
  · rename_i hx
    refine h.of_same (by simp) fun k => ?_
    rw [State.input_setInput]
    split
    · rename_i hk; rw [hk, hx]
    · rfl
  · exact State.reevaluate_selectionValid _

theorem State.SelectionValid.configure (ws : List ParamWrite) {s : State} (h : s.SelectionValid) :
    (s.configure ws).SelectionValid :=
  State.configure_keeps (P := State.SelectionValid) (fun u p hu => hu.of_same rfl fun r => by cases r <;> rfl)
    (fun _ _ => State.reevaluate_selectionValid _) (fun u _ => u.reevaluate_selectionValid)
    (fun _ _ w hu => hu.monitor (.of_work w)) ws h

theorem State.SelectionValid.move {s t : State} (h : s.SelectionValid) (m : MonitorMove s t) : t.SelectionValid := by
  cases m with
  | kept m => exact h.monitor m
  | cleared _ _ selection => exact State.selectionValid_of_none selection
  | ticked _ inputs selection => exact h.of_same selection fun r => by rw [inputs r]; rfl
  | updated u r x before _ after => exact ((h.monitor before).updateInput r x).monitor after
  | configured u ws before after => exact ((h.monitor before).configure ws).monitor after

/-- Settles O50: an input that the selection names changes its state only with a re-evaluation after it, and a
re-evaluation selects a VALID input or NONE. -/
theorem stepKeepsSelectionValid : Obligations.StepKeepsSelectionValid := by
  intro s t h hst
  rcases step_monitor hst with d | m
  · exact State.selectionValid_of_none d.selection
  · exact h.move m

/-! ### A part that is NOT_READY (R125) -/

section notReady

variable {s : State}

theorem State.tick_notReady (h : s.ready = false) : s.tick = s := by simp [State.tick, h]

theorem State.take_notReady (h : s.ready = false) (mine : HeldCommand → Bool)
    (run : Port → HeldCommand → State → Except Denial Reply) : State.take mine run s = s := by
  simp [State.take, State.nextTaken, State.arbitrate, h]

/-! The monitor is idle until the part is READY (R125). -/

theorem State.activityStart_notReady (h : s.ready = false) (r : RefInput) : s.activityStart r = s := by
  simp [State.activityStart, h]

theorem State.activityLoss_notReady (h : s.ready = false) (r : RefInput) : s.activityLoss r = s := by
  simp [State.activityLoss, h]

theorem State.measurement_notReady (h : s.ready = false) (r : RefInput) (n : Nat) : s.measurement r n = s := by
  simp [State.measurement, h]

theorem State.qualificationExpiry_notReady (h : s.ready = false) (r : RefInput) : s.qualificationExpiry r = s := by
  simp [State.qualificationExpiry, h]

/-- A NOT_READY part judges a frame by its frame-error code alone (R145). -/
theorem State.judge_notReady (h : s.ready = false) (p : Port) (f : Frame) (kind : Byte) (rest : List Byte) :
    ∃ x, s.judge p f kind rest = s.setFrameError p x := by
  unfold State.judge
  split
  · exact ⟨_, rfl⟩
  · exact ⟨.notReady, by simp [h]⟩

namespace State.Dormant

variable (d : s.Dormant)

include d

theorem endFrame (h : s.ready = false) (p : Port) (x : ShiftedIn) : (s.endFrame p x).Dormant := by
  unfold State.endFrame
  split
  · split
    · rename_i f kind rest _ _
      have ended : (s.setPort p { s.port p with csLow := false, frame := none, sdo := f.shifted kind rest }).Dormant :=
        d.setPort rfl
      obtain ⟨y, hy⟩ := State.judge_notReady ((s.setPort_ready p _).trans h) p f kind rest
      rw [hy]
      exact ended.setPort rfl
    · exact d.setPort rfl
  · exact d

theorem chipSelectFall (p : Port) : (s.chipSelectFall p).Dormant := by
  unfold State.chipSelectFall
  split
  · exact d
  · exact d.setPort rfl

theorem pinReset : s.pinReset.Dormant := by
  unfold State.pinReset
  split
  · exact d
  · exact s.coldReset_dormant.congr (fun p => by cases p <;> rfl) ⟨id, rfl, rfl, rfl⟩ rfl rfl rfl

theorem pinRelease (v : Level) : (s.pinRelease v).Dormant := by
  unfold State.pinRelease
  split
  · exact d.congr (fun p => by cases p <;> rfl) ⟨id, rfl, rfl, rfl⟩ rfl rfl rfl
  · exact d

/-- OSCILLATOR_STABLE alone ends the dormancy, and makes the part READY. -/
theorem oscillatorStable : s.oscillatorStable.DormantUntilReady := by
  unfold State.oscillatorStable
  split
  · exact fun _ => d
  · exact fun h => by cases h

/-- No engine in OFF and no QUIET output hears an event of its own (R45, R48, R51, R53, R78; log entry 2). -/
theorem lockAchieved (e : EngineId) : s.lockAchieved e = s := by
  simp [State.lockAchieved, EngineRec.mayLock, d.engines, EngineRec.initial]

theorem lockLost (e : EngineId) : s.lockLost e = s := by
  simp [State.lockLost, d.engines, EngineRec.initial]

theorem acquisitionExpiry (e : EngineId) : s.acquisitionExpiry e = s := by
  simp [State.acquisitionExpiry, EngineRec.expiryFault, d.engines, EngineRec.initial]

theorem holdoverLimitReached (e : EngineId) : s.holdoverLimitReached e = s := by
  simp [State.holdoverLimitReached, EngineRec.atHoldoverLimit, d.engines, EngineRec.initial]

theorem lingerExpiry (e : EngineId) : s.lingerExpiry e = s := by
  simp [State.lingerExpiry, d.engines, EngineRec.initial]

theorem changeoverDone (o : OutputId) : s.changeoverDone o = s := by
  simp [State.changeoverDone, d.outputs, OutputRec.initial, OutState.isChanging]

end State.Dormant

end notReady

/-- A dormant part that is NOT_READY stays dormant, unless it becomes READY. -/
theorem State.Dormant.exec {s : State} (d : s.Dormant) (h : s.ready = false) (i : Instr) :
    ∃ t, Machine.exec i s = .next t ∧ t.DormantUntilReady := by
  have woken (f : State → State)
      (hf : ∀ u : State, u.ready = false → u.Dormant → (f u).DormantUntilReady) : (event f s).DormantUntilReady :=
    fun hr => State.Dormant.unmarked (hf { s with touched := [] } h (d.unmarked []) hr) []
  have asleep (f : State → State) (hf : ∀ u : State, u.ready = false → u.Dormant → (f u).Dormant) :
      (event f s).DormantUntilReady := woken f fun u hu du _ => hf u hu du
  have idle (f : State → State) (hf : ∀ u : State, u.ready = false → u.Dormant → f u = u) :
      (event f s).DormantUntilReady := asleep f fun u hu du => (hf u hu du).symm ▸ du
  have taking (mine : HeldCommand → Bool) (run : Port → HeldCommand → State → Except Denial Reply) :
      (event (State.take mine run) s).DormantUntilReady := idle _ fun _ hu _ => State.take_notReady hu mine run
  have frame (p : Port) (x : ShiftedIn) : (event (State.endFrame p x) s).DormantUntilReady :=
    asleep _ fun _ hu du => du.endFrame hu p x
  cases i with
  | powerOnReset v => exact ⟨_, rfl, asleep _ fun u _ _ => u.coldReset_sampleSupsel_dormant v⟩
  | pinResetAssert => exact ⟨_, rfl, asleep _ fun _ _ du => du.pinReset⟩
  | pinResetRelease v => exact ⟨_, rfl, asleep _ fun _ _ du => du.pinRelease v⟩
  | oscillatorStable => exact ⟨_, rfl, woken _ fun _ _ du => du.oscillatorStable⟩
  | nop p rest => exact ⟨_, rfl, frame p _⟩
  | commandFrame p rest => exact ⟨_, rfl, frame p _⟩
  | fetch p rest => exact ⟨_, rfl, frame p _⟩
  | resync p rest => exact ⟨_, rfl, frame p _⟩
  | unknownFrameKind p bytes => exact ⟨_, rfl, frame p _⟩
  | chipSelectFall p => exact ⟨_, rfl, asleep _ fun _ _ du => du.chipSelectFall p⟩
  | lockAchieved e => exact ⟨_, rfl, idle _ fun _ _ du => du.lockAchieved e⟩
  | lockLost e => exact ⟨_, rfl, idle _ fun _ _ du => du.lockLost e⟩
  | acquisitionTimerExpiry e => exact ⟨_, rfl, idle _ fun _ _ du => du.acquisitionExpiry e⟩
  | holdoverTimerLimit e => exact ⟨_, rfl, idle _ fun _ _ du => du.holdoverLimitReached e⟩
  | lingerTimerExpiry e => exact ⟨_, rfl, idle _ fun _ _ du => du.lingerExpiry e⟩
  | changeoverDone o => exact ⟨_, rfl, idle _ fun _ _ du => du.changeoverDone o⟩
  | activityStart r => exact ⟨_, rfl, idle _ fun _ hu _ => State.activityStart_notReady hu r⟩
  | activityLoss r => exact ⟨_, rfl, idle _ fun _ hu _ => State.activityLoss_notReady hu r⟩
  | measurement r n => exact ⟨_, rfl, idle _ fun _ hu _ => State.measurement_notReady hu r n⟩
  | qualificationTimerExpiry r => exact ⟨_, rfl, idle _ fun _ hu _ => State.qualificationExpiry_notReady hu r⟩
  | _ => exact ⟨_, rfl, taking _ _⟩

/-- Settles O60: a READY part becomes NOT_READY by a reset alone, which makes it dormant; one that is NOT_READY hears
nothing but frames, resets and its oscillator. -/
theorem stepKeepsDormantUntilReady : Obligations.StepKeepsDormantUntilReady := by
  intro s t h hst
  cases hr : s.ready with
  | true =>
    rcases step_monitor hst with d | m
    · exact fun _ => d
    · exact fun hn => by rw [m.ready hr] at hn; cases hn
  | false =>
    have d := h hr
    unfold step at hst
    split at hst
    · cases hst
      rwa [State.tick_notReady hr]
    · rename_i c rest _
      have waiting : ({ s with pending := rest } : State).Dormant :=
        d.congr (fun p => by cases p <;> rfl) ⟨id, rfl, rfl, rfl⟩ rfl rfl rfl
      obtain ⟨u, hu, hk⟩ := waiting.exec hr c
      rw [hu] at hst
      cases hst
      exact hk

end Sys2Proof.Machine

/-! ## HOLDOVER announced to a lease (R38, R97, R100, R105)

What the announcements that follow a change of selection make of one slot, in a part in which no engine is LOCKED any
more. An engine's announcement reaches each slot once; a lease that names two of the engines hears twice. -/

namespace Sys2Proof.Machine

/-! ### What one announcement does -/

/-- The lease names engine `e`, as its engine or as the target of its migration. -/
def Lease.Names (l : Lease) (e : EngineId) : Prop := l.engine = some e ∨ l.migrationTarget = some e

/-- The states in which the HOLDOVER of its engine takes a lease to PENDING or DISTURBED (R38). -/
def LeaseState.Served (st : LeaseState) : Prop := st = .ready ∨ st = .starting ∨ st = .active ∨ st = .disturbed

/-- The lease as the HOLDOVER of its engine leaves it (R38). -/
def Lease.heldOver (l : Lease) : Lease :=
  { l with state := if l.state = .ready then .pending else .disturbed, reason := .holdover }

theorem Lease.heldOver_again {l : Lease} (h : l.heldOver.state.Served) : l.heldOver.heldOver = l.heldOver := by
  by_cases hs : l.state = .ready
  · simp [LeaseState.Served, Lease.heldOver, hs] at h
  · simp [Lease.heldOver, hs]

theorem Lease.heldOver_not_migrating (l : Lease) : l.heldOver.state ≠ .migrating := by
  unfold Lease.heldOver
  dsimp only
  split <;> simp

section announce

variable {u : State} {i : SlotId} {l : Lease} {m : Migration} {e : EngineId}

theorem Lease.names_iff : (l.runsFrom e || l.migratesTo e) = true ↔ l.Names e := by
  simp [Lease.runsFrom, l.migratesTo_iff, Lease.Names]

theorem onHoldover_served (hl : u.lease? i = some l) (hn : l.Names e) (hs : l.state.Served) :
    onHoldover e i u = u.background i l l.heldOver.state .holdover := by
  rcases hs with hs | hs | hs | hs <;> simp [onHoldover, hl, Lease.names_iff.2 hn, hs, Lease.heldOver]

theorem onHoldover_migrating (hl : u.lease? i = some l) (hn : l.Names e) (hs : l.state = .migrating)
    (hm : l.migration = some m) : onHoldover e i u = (u.background i l .migrating .holdover).settle false i := by
  simp [onHoldover, hl, Lease.names_iff.2 hn, hs, hm]

/-- A lease that does not hear the HOLDOVER of engine `e`. -/
def Lease.DeafTo (l : Lease) (e : EngineId) : Prop :=
  l.Names e → ¬l.state.Served ∧ ∀ m, l.state = .migrating → l.migration ≠ some m

theorem onHoldover_deaf (h : ∀ l, u.lease? i = some l → l.DeafTo e) : onHoldover e i u = u := by
  unfold onHoldover
  split
  · rfl
  rename_i l hl
  split
  swap
  · rfl
  rename_i hn
  obtain ⟨unserved, still⟩ := h l hl (Lease.names_iff.1 hn)
  split
  case h_5 hs =>
    split
    · rename_i m hm
      exact absurd hm (still m hs)
    · rfl
  all_goals first
    | rfl
    | rename_i hs
      exact absurd hs fun hs => unserved (by simp [LeaseState.Served, hs])

/-- What an announcement of HOLDOVER can do: nothing, R38, or the report to a migration and the check whether it has
settled. -/
theorem onHoldover_cases (e : EngineId) (i : SlotId) (u : State) :
    (onHoldover e i u = u ∧ ∀ l, u.lease? i = some l → l.DeafTo e) ∨
    (∃ l, u.lease? i = some l ∧ l.Names e ∧ l.state.Served ∧
      onHoldover e i u = u.background i l l.heldOver.state .holdover) ∨
    ∃ l m, u.lease? i = some l ∧ l.Names e ∧ l.state = .migrating ∧ l.migration = some m ∧
      onHoldover e i u = (u.background i l .migrating .holdover).settle false i := by
  by_cases deaf : ∀ l, u.lease? i = some l → l.DeafTo e
  · exact .inl ⟨onHoldover_deaf deaf, deaf⟩
  · push Not at deaf
    obtain ⟨l, hl, hears⟩ := deaf
    unfold Lease.DeafTo at hears
    push Not at hears
    obtain ⟨hn, hears⟩ := hears
    by_cases hs : l.state.Served
    · exact .inr (.inl ⟨l, hl, hn, hs, onHoldover_served hl hn hs⟩)
    · obtain ⟨m, hst, hm⟩ := hears hs
      exact .inr (.inr ⟨l, m, hl, hn, hst, hm, onHoldover_migrating hl hn hst hm⟩)

/-- A lease still under migration after an announcement was so before it, but for its reason. -/
theorem onHoldover_migrating_from {k : Lease} {m : Migration} (hk : (onHoldover e i u).lease? i = some k)
    (hs : k.state = .migrating) (hm : k.migration = some m) :
    ∃ l, u.lease? i = some l ∧ k = { l with reason := k.reason } := by
  rcases onHoldover_cases e i u with ⟨same, -⟩ | ⟨l, -, -, -, hw⟩ | ⟨l, m', hl, -, hst, hm', hw⟩
  · rw [same] at hk
    exact ⟨k, hk, rfl⟩
  · rw [hw, State.background_lease] at hk
    cases hk
    exact absurd hs l.heldOver_not_migrating
  · have lease : (u.background i l .migrating .holdover).lease? i =
        some { l with state := .migrating, reason := .holdover } := State.background_lease ..
    rw [hw] at hk
    by_cases hg : (u.background i l .migrating .holdover).AtGoal { l with state := .migrating, reason := .holdover } m'
    · obtain ⟨st, armed, hf⟩ := (u.background i l .migrating .holdover).finishMigration_lease i
        { l with state := .migrating, reason := .holdover } m'
      rw [State.settle_of_atGoal lease rfl hm' hg, State.tell_lease, hf] at hk
      cases hk
      cases hm
    · rw [State.settle_of_not_atGoal lease hm' hg, lease] at hk
      cases hk
      exact ⟨l, hl, by rw [← hst]⟩

/-- An announcement touches an engine only as it ends an OVERLAP or GAP migration off it. -/
theorem onHoldover_engine_cases (u : State) (e : EngineId) (i : SlotId) (f : EngineId) :
    (onHoldover e i u).engine f = u.engine f ∨ ∃ l m, u.lease? i = some l ∧ l.state = .migrating ∧
      l.migration = some m ∧ l.engine = some f ∧ m.mode ≠ .loc ∧
      (u.background i l .migrating .holdover).AtGoal l m := by
  rcases onHoldover_cases e i u with ⟨same, -⟩ | ⟨l, -, -, -, hw⟩ | ⟨l, m, hl, -, hst, hm, hw⟩
  · exact .inl (by rw [same])
  · exact .inl (by rw [hw, State.background_engine])
  · rw [hw]
    refine (State.settle_engine_cases _ false i f).imp (fun h => h.trans (by simp)) ?_
    rintro ⟨k, m', hk, -, hm', he, hmode, hg⟩
    rw [State.background_lease] at hk
    cases hk
    exact ⟨l, m', hl, hst, hm', he, hmode, hg⟩

/-- An announcement leaves every other slot, and all outputs. -/
theorem onHoldover_left (u : State) (e : EngineId) {i j : SlotId} (hj : j ≠ i) : SlotLeft j u (onHoldover e i u) where
  slot := ((OneSlot.refl i u).onHoldover e).slots j hj
  notices p := ((OneSlot.refl i u).onHoldover e).notices p j hj
  touched := ((OneSlot.refl i u).onHoldover e).touched j hj
  output o _ := onHoldover_output e i u o

end announce

/-! ### The board while HOLDOVER is announced -/

/-- With no engine LOCKED, whether a migration is at its goal is a matter of the outputs. -/
theorem State.atGoal_of_noneLocked {s t : State} (hs : s.NoneLocked) (ht : t.NoneLocked)
    (out : ∀ o, t.output o = s.output o) (l : Lease) (m : Migration) : t.AtGoal l m ↔ s.AtGoal l m := by
  have locked (e : EngineId) : (t.engine e).state ≠ .locked ↔ (s.engine e).state ≠ .locked :=
    iff_of_true (ht e) (hs e)
  unfold State.AtGoal
  cases m.mode <;> simp only [out, locked]

/-- What announcements of HOLDOVER leave of `r`, in which no engine is LOCKED: the outputs, what a lease still under
migration was, and each engine off which no migration settles. -/
structure HoldoverWork (r u : State) : Prop where
  noneLocked : u.NoneLocked
  output : ∀ o, u.output o = r.output o
  migrating : ∀ i k m, u.lease? i = some k → k.state = .migrating → k.migration = some m →
    ∃ l, r.lease? i = some l ∧ k = { l with reason := k.reason }
  engine : ∀ f, r.NoneSettledOff r f → u.engine f = r.engine f
  deviceNotices : u.deviceNotices = r.deviceNotices

namespace HoldoverWork

variable {r u : State} {e f : EngineId} {i : SlotId}

theorem refl (h : r.NoneLocked) : HoldoverWork r r :=
  ⟨h, fun _ => rfl, fun _ k _ hk _ _ => ⟨k, hk, rfl⟩, fun _ _ => rfl, rfl⟩

theorem atGoal (h : HoldoverWork r u) (hr : r.NoneLocked) (l : Lease) (m : Migration) : u.AtGoal l m ↔ r.AtGoal l m :=
  State.atGoal_of_noneLocked hr h.noneLocked h.output l m

theorem onHoldover (h : HoldoverWork r u) (hr : r.NoneLocked) (e : EngineId) (i : SlotId) :
    HoldoverWork r (Machine.onHoldover e i u) where
  noneLocked := h.noneLocked.onHoldover e i
  output o := (onHoldover_output e i u o).trans (h.output o)
  migrating j k m hk hs hm := by
    by_cases hj : j = i
    · subst hj
      obtain ⟨l, hl, hkl⟩ := onHoldover_migrating_from hk hs hm
      obtain ⟨l', hl', hll⟩ := h.migrating j l m hl (by rw [hkl] at hs; exact hs) (by rw [hkl] at hm; exact hm)
      exact ⟨l', hl', by rw [hkl, hll]⟩
    · rw [((OneSlot.refl i u).onHoldover e).lease hj] at hk
      exact h.migrating j k m hk hs hm
  engine f hf := by
    rw [← h.engine f hf]
    refine (onHoldover_engine_cases u e i f).resolve_right fun ⟨l, m, hl, hs, hm, he, hmode, hg⟩ => ?_
    obtain ⟨l', hl', hll⟩ := h.migrating i l m hl hs hm
    rw [hll] at hs hm he
    refine (hf i l' m hl' hs hm he).elim hmode fun hno => hno ?_
    have goal := (State.atGoal_of_noneLocked (s := r) (t := u.background i l .migrating .holdover) hr
      (fun f => by rw [State.background_engine]; exact h.noneLocked f)
      (fun o => (State.background_output ..).trans (h.output o)) l m).1 hg
    rw [hll] at goal
    exact goal
  deviceNotices := ((OneSlot.refl i u).onHoldover e).deviceNotices.trans h.deviceNotices

end HoldoverWork

/-! ### One slot -/

/-- Slot `i`, which held lease `l` in `r`, holds lease `k` in `u`, and the notice that one raise with reason `q` makes
of its entry. -/
structure SlotTold (r u : State) (i : SlotId) (l k : Lease) (q : Reason) : Prop where
  slot : u.slot i = ⟨(r.slot i).gen, .live k⟩
  raised : r.Raised u i l q false
  touched : i ∈ u.touched

namespace SlotTold

variable {r u v : State} {i : SlotId} {l k : Lease} {q p : Reason} {st : LeaseState} {m : Migration}

theorem lease (h : SlotTold r u i l k q) : u.lease? i = some k := State.lease_of_standing (by rw [h.slot])

theorem left (h : SlotTold r u i l k q) (w : SlotLeft i u v) : SlotTold r v i l k q :=
  ⟨w.slot.trans h.slot, h.raised.to_right w.notices, w.touched.2 h.touched⟩

/-- The first change of the event for the lease. -/
theorem first (h : SlotLeft i r u) (fresh : r.touched = []) :
    SlotTold r (u.background i l st q) i l { l with state := st, reason := q } q where
  slot := by rw [State.background_slot, h.slot]
  raised := (State.background_raised (h.fresh fresh) l st q).of_left h.notices (by rw [h.slot])
  touched := u.background_touched i l st q

/-- A further change of the event for the lease counts no second time (R160). -/
theorem again (h : SlotTold r u i l k p) (home : k.home = l.home) :
    SlotTold r (u.background i k st q) i l { k with state := st, reason := q } q where
  slot := by rw [State.background_slot, h.slot]
  raised := by
    have written : r.Raised (u.setLease i { k with state := st, reason := q }) i l p false :=
      h.raised.to_right (by simp)
    exact written.again (State.lease_setLease_same ..) home h.touched false
  touched := u.background_touched i k st q

/-- The end of a LOCAL migration whose engine is not LOCKED (R97). -/
theorem settle_loc {e : EngineId} (h : SlotTold r u i l k q) (home : k.home = l.home) (hs : k.state = .migrating)
    (hm : k.migration = some m) (hg : u.AtGoal k m) (hmode : m.mode = .loc) (he : k.engine = some e)
    (unlocked : u.isLocked e = false) : SlotTold r (u.settle false i) i l (k.migrated m false) .migrated where
  slot := by
    rw [State.settle_slot (g := e) h.lease hs hm hg (by simp [hmode, he]) (by simp [hmode]), h.slot, unlocked]
  raised := State.settle_raised_again h.raised h.lease home h.touched hs hm hg
  touched := by
    obtain ⟨st, armed, hk⟩ := u.finishMigration_lease i k m
    rw [State.settle_of_atGoal h.lease hs hm hg]
    change i ∈ (State.raise i false _).touched
    rw [State.raise_touched _ _ _ hk]
    exact List.mem_cons_self

end SlotTold

/-- What the announcements of HOLDOVER have made of slot `i` of `r`, those of the engines `es` being still to come;
`locked` tells which engines are announced at all. -/
inductive HoldoverHeard (r : State) (locked : EngineId → Bool) (i : SlotId) (es : List EngineId) (u : State) : Prop
  | left (kept : SlotLeft i r u)
      (deaf : ∀ l e, r.lease? i = some l → locked e = true → e ∉ es → l.DeafTo e)
  | served (l : Lease) (lease : r.lease? i = some l) (named : ∃ e, l.Names e ∧ locked e = true)
      (state : l.state.Served) (told : SlotTold r u i l l.heldOver .holdover)
  | waiting (l : Lease) (m : Migration) (lease : r.lease? i = some l) (named : ∃ e, l.Names e ∧ locked e = true)
      (state : l.state = .migrating) (migration : l.migration = some m) (away : ¬r.AtGoal l m)
      (told : SlotTold r u i l { l with reason := .holdover } .holdover)
  | settled (l : Lease) (m : Migration) (lease : r.lease? i = some l) (named : ∃ e, l.Names e ∧ locked e = true)
      (state : l.state = .migrating) (migration : l.migration = some m) (arrived : r.AtGoal l m)
      (told : m.mode = .loc → m.target = none →
        (∀ e ∈ es, l.engine ≠ some e) ∧ SlotTold r u i l (l.migrated m false) .migrated)

namespace HoldoverHeard

variable {r u v : State} {locked : EngineId → Bool} {i : SlotId} {e : EngineId} {es : List EngineId}

theorem start (r : State) (locked : EngineId → Bool) (i : SlotId) : HoldoverHeard r locked i allEngines r :=
  .left (.refl i r) fun _ e _ _ he => absurd (List.mem_finRange e) he

theorem leave (h : HoldoverHeard r locked i es u) (w : SlotLeft i u v) : HoldoverHeard r locked i es v := by
  cases h with
  | left kept deaf => exact .left (kept.trans w) deaf
  | served l lease named state told => exact .served l lease named state (told.left w)
  | waiting l m lease named state migration away told =>
    exact .waiting l m lease named state migration away (told.left w)
  | settled l m lease named state migration arrived told =>
    exact .settled l m lease named state migration arrived fun hmode ht => (told hmode ht).imp_right (·.left w)

/-- An engine that was not LOCKED is not announced. -/
theorem skip (h : HoldoverHeard r locked i (e :: es) u) (he : locked e = false) : HoldoverHeard r locked i es u := by
  cases h with
  | left kept deaf =>
    refine .left kept fun l f hl hf hfs => deaf l f hl hf ?_
    have ne : f ≠ e := fun hfe => by rw [hfe, he] at hf; cases hf
    simp [ne, hfs]
  | served l lease named state told => exact .served l lease named state told
  | waiting l m lease named state migration away told => exact .waiting l m lease named state migration away told
  | settled l m lease named state migration arrived told =>
    exact .settled l m lease named state migration arrived fun hmode ht =>
      (told hmode ht).imp_left fun ne f hf => ne f (List.mem_cons_of_mem e hf)

/-- The report to a migration and the check whether it has settled, whatever the slot has been told before. -/
theorem report {l : Lease} {m : Migration} (work : HoldoverWork r u) (hr : r.NoneLocked)
    (lease : r.lease? i = some l) (named : ∃ e, l.Names e ∧ locked e = true) (state : l.state = .migrating)
    (migration : l.migration = some m) (ends : m.target = none → l.engine = some e) (fresh : e ∉ es)
    (told : SlotTold r (u.background i l .migrating .holdover) i l { l with state := .migrating, reason := .holdover }
      .holdover) :
    HoldoverHeard r locked i es ((u.background i l .migrating .holdover).settle false i) := by
  have unlocked : (u.background i l .migrating .holdover).NoneLocked := fun f => by
    rw [State.background_engine]
    exact work.noneLocked f
  have same : ({ l with state := .migrating, reason := .holdover } : Lease) = { l with reason := .holdover } := by
    rw [← state]
  rw [same] at told
  have goal : (u.background i l .migrating .holdover).AtGoal { l with reason := .holdover } m ↔ r.AtGoal l m :=
    State.atGoal_of_noneLocked hr unlocked (fun o => (State.background_output ..).trans (work.output o)) l m
  by_cases hg : r.AtGoal l m
  · refine .settled l m lease named state migration hg fun hmode ht => ⟨fun f hf he => ?_, ?_⟩
    · cases (ends ht).symm.trans he
      exact fresh hf
    · exact told.settle_loc rfl state migration (goal.2 hg) hmode (ends ht)
        (by simpa [State.isLocked] using unlocked e)
  · rw [State.settle_of_not_atGoal told.lease migration (mt goal.1 hg)]
    exact .waiting l m lease named state migration hg told

/-- The announcement of one engine, at the slot. -/
theorem hear (h : HoldoverHeard r locked i (e :: es) u) (work : HoldoverWork r u) (hr : r.NoneLocked)
    (unmarked : r.touched = []) (fresh : e ∉ es) (he : locked e = true) :
    HoldoverHeard r locked i es (onHoldover e i u) := by
  have target {l : Lease} {m : Migration} (hm : l.migration = some m) (hn : l.Names e) (ht : m.target = none) :
      l.engine = some e := hn.resolve_right fun h => by
    rw [Lease.migrationTarget_of_some hm, ht] at h
    cases h
  have outcome := onHoldover_cases e i u
  cases h with
  | left kept deaf =>
    rw [kept.lease] at outcome
    rcases outcome with ⟨same, unheard⟩ | ⟨l, hl, hn, hs, hw⟩ | ⟨l, m, hl, hn, hs, hm, hw⟩
    · rw [same]
      refine .left kept fun l f hl hf hfs => ?_
      by_cases hfe : f = e
      · exact hfe ▸ unheard l hl
      · exact deaf l f hl hf (by simp [hfe, hfs])
    · rw [hw]
      exact .served l hl ⟨e, hn, he⟩ hs (.first kept unmarked)
    · rw [hw]
      refine .report work hr hl ⟨e, hn, he⟩ hs hm (target hm hn) fresh (.first kept unmarked)
  | served l lease named state told =>
    rw [told.lease] at outcome
    rcases outcome with ⟨same, -⟩ | ⟨k, hk, -, hs, hw⟩ | ⟨k, m, hk, -, hs, -⟩
    · rw [same]
      exact .served l lease named state told
    · cases hk
      have again : SlotTold r _ i l l.heldOver.heldOver .holdover := told.again (st := l.heldOver.heldOver.state) rfl
      rw [Lease.heldOver_again hs] at hw again
      rw [hw]
      exact .served l lease named state again
    · cases hk
      exact absurd hs l.heldOver_not_migrating
  | waiting l m lease named state migration away told =>
    rw [told.lease] at outcome
    rcases outcome with ⟨same, -⟩ | ⟨k, hk, -, hs, -⟩ | ⟨k, m', hk, hn, hs, hm, hw⟩
    · rw [same]
      exact .waiting l m lease named state migration away told
    · cases hk
      exact absurd hs (by simp [LeaseState.Served, state])
    · cases hk
      rw [hw]
      exact .report (l := l) work hr lease named state hm (target hm hn) fresh (told.again rfl)
  | settled l m lease named state migration arrived told =>
    by_cases ended : m.mode = .loc ∧ m.target = none
    · obtain ⟨hmode, ht⟩ := ended
      obtain ⟨ne, told⟩ := told hmode ht
      rw [onHoldover_deaf fun k hk hn => ?_]
      · exact .settled l m lease named state migration arrived fun _ _ =>
          ⟨fun f hf => ne f (List.mem_cons_of_mem e hf), told⟩
      · cases told.lease.symm.trans hk
        exact absurd hn (by simp [Lease.Names, Lease.migrationTarget, Lease.migrated, hmode, ne e List.mem_cons_self])
    · exact .settled l m lease named state migration arrived fun hmode ht => absurd ⟨hmode, ht⟩ ended

end HoldoverHeard

/-! ### All announcements -/

theorem HoldoverWork.announced {r u : State} (h : HoldoverWork r u) (hr : r.NoneLocked) (e : EngineId) (i : SlotId) :
    HoldoverWork r (forEach allSlots (Machine.onHoldover e) u) ∧
      Visited (HoldoverWork r) SlotLeft (Machine.onHoldover e) u (forEach allSlots (Machine.onHoldover e) u) i := by
  have rounds : Rounds (HoldoverWork r) SlotLeft (Machine.onHoldover e) allSlots u := fun i _ v hv _ =>
    ⟨hv.onHoldover hr e i, fun _ hj => onHoldover_left v e hj⟩
  obtain ⟨work, -, visited⟩ := forEach_rounds SlotLeft.refl (fun _ _ _ _ => .trans) allSlots_nodup rounds h
  exact ⟨work, visited i (mem_allSlots i)⟩

/-- Engine after engine, what the announcements of HOLDOVER make of the board and of each slot. -/
theorem State.announceHoldovers_heard {s r u : State} {es : List EngineId} (hn : es.Nodup) (hr : r.NoneLocked)
    (unmarked : r.touched = []) (work : HoldoverWork r u) (heard : ∀ i, HoldoverHeard r s.isLocked i es u) :
    HoldoverWork r (s.announceHoldovers es u) ∧
      ∀ i, HoldoverHeard r s.isLocked i [] (s.announceHoldovers es u) := by
  induction es generalizing u with
  | nil => exact ⟨work, heard⟩
  | cons e es ih =>
    obtain ⟨fresh, hn⟩ := List.nodup_cons.1 hn
    rw [show s.announceHoldovers (e :: es) u =
      s.announceHoldovers es (if s.isLocked e then forEach allSlots (onHoldover e) u else u) from rfl]
    cases he : s.isLocked e with
    | false => exact ih hn work fun i => (heard i).skip he
    | true =>
      refine ih hn (work.announced hr e 0).1 fun i => ?_
      obtain ⟨v, hv, before, after⟩ := (work.announced hr e i).2
      exact (((heard i).leave before).hear hv hr unmarked fresh he).leave after

end Sys2Proof.Machine

/-! ## A re-evaluation of the selection (R50, R135) -/

namespace Sys2Proof.Machine

section reselect

variable {s : State} {i : SlotId} {l k : Lease} {q : Reason}

/-! ### The state in which HOLDOVER is announced -/

@[simp] theorem State.reselected_port (s : State) (p : Port) : s.reselected.port p = s.port p :=
  forEach_frame (fun t => t.port p) s.reselectOne (fun _ _ => State.port_setEngine ..) allEngines s

theorem State.reselected_left (s : State) (i : SlotId) : SlotLeft i s s.reselected where
  slot := forEach_frame (fun t => t.slot i) s.reselectOne (fun _ _ => rfl) allEngines s
  notices p := by rw [State.reselected_port]
  touched := iff_of_eq (congrArg (i ∈ ·) (forEach_frame State.touched s.reselectOne (fun _ _ => rfl) allEngines s))
  output o _ := s.reselected_output o

theorem State.reselected_touched (s : State) : s.reselected.touched = s.touched :=
  forEach_frame State.touched s.reselectOne (fun _ _ => rfl) allEngines s

theorem State.reselected_deviceNotices (s : State) : s.reselected.deviceNotices = s.deviceNotices :=
  forEach_frame State.deviceNotices s.reselectOne (fun _ _ => rfl) allEngines s

/-! ### The state after a change -/

/-- The part after the selection of `s` has changed to the one of the table, at the end of the event (R135). -/
def State.selectionChanged (s : State) : State :=
  { ({ s with selection := s.chosen } : State).announceSelection.raiseRefSelection with touched := [] }

theorem State.reevaluate_changed (h : s.chosen ≠ s.selection) :
    ({ s.reevaluate with touched := [] } : State) = s.selectionChanged := by
  simp only [State.reevaluate, if_neg h, State.selectionChanged]

theorem State.selectionChanged_work (s : State) : LeaseWork { s with selection := s.chosen } s.selectionChanged :=
  ((LeaseWork.refl _).announceSelection.deviceNotices _).touched []

theorem State.selectionChanged_notices (s : State) (p : Port) : (s.selectionChanged.port p).notices =
    (({ s with selection := s.chosen } : State).announceSelection.port p).notices := by
  cases p <;> rfl

/-- The announcements of HOLDOVER after a change of selection, for the board and for each slot. -/
theorem State.selectionChanged_heard (ht : s.touched = []) :
    HoldoverWork ({ s with selection := s.chosen } : State).reselected
        ({ s with selection := s.chosen } : State).announceSelection ∧
      ∀ i, HoldoverHeard ({ s with selection := s.chosen } : State).reselected s.isLocked i []
        ({ s with selection := s.chosen } : State).announceSelection := by
  generalize hs : ({ s with selection := s.chosen } : State) = s1
  have locked : s.isLocked = s1.isLocked := by rw [← hs]; rfl
  have unmarked : s1.touched = [] := by rw [← hs]; exact ht
  rw [locked, s1.announceSelection_eq]
  exact State.announceHoldovers_heard (List.nodup_finRange 6) s1.reselected_noneLocked
    (s1.reselected_touched.trans unmarked) (.refl s1.reselected_noneLocked) (.start _ _)

/-- What the announcements have told a slot, seen from before the change and at the end of its event. -/
theorem SlotTold.selectionChanged (h : SlotTold ({ s with selection := s.chosen } : State).reselected
      ({ s with selection := s.chosen } : State).announceSelection i l k q) :
    s.selectionChanged.slot i = ⟨(s.slot i).gen, .live k⟩ ∧ s.Raised s.selectionChanged i l q false := by
  have left := State.reselected_left { s with selection := s.chosen } i
  refine ⟨h.slot.trans (by rw [left.slot]; rfl), ?_⟩
  refine State.Raised.to_right (t := ({ s with selection := s.chosen } : State).announceSelection) ?_ fun p => by
    rw [s.selectionChanged_notices]
  exact h.raised.of_left (fun p => (left.notices p).trans (by cases p <;> rfl)) (by rw [left.slot]; rfl)

theorem State.selectionChanged_atGoal (ht : s.touched = []) (l : Lease) (m : Migration) :
    s.selectionChanged.AtGoal l m ↔ ({ s with selection := s.chosen } : State).reselected.AtGoal l m :=
  (State.selectionChanged_heard ht).1.atGoal (State.reselected_noneLocked _) l m

theorem State.selectionChanged_output (ht : s.touched = []) (o : OutputId) :
    s.selectionChanged.output o = s.output o :=
  ((State.selectionChanged_heard ht).1.output o).trans (State.reselected_output _ o)

theorem State.selectionChanged_deviceNotices (ht : s.touched = []) :
    s.selectionChanged.deviceNotices = { s.deviceNotices with refSelection := true } :=
  congrArg (fun d : DeviceNotices => { d with refSelection := true })
    ((State.selectionChanged_heard ht).1.deviceNotices.trans (State.reselected_deviceNotices _))

/-- Every engine reacts by R50, but for one that a settling writes too. -/
theorem State.selectionChanged_engine (ht : s.touched = []) {e : EngineId} (h : s.NoneSettledOff s.selectionChanged e) :
    (s.engine e).Reselected s.chosen.isSome s.params.acqLimit (s.selectionChanged.engine e) := by
  have kept := (State.selectionChanged_heard ht).1.engine e fun i l m hl hs hm he => by
    rw [State.reselected_lease] at hl
    exact (h i l m hl hs hm he).imp_right fun away goal => away ((State.selectionChanged_atGoal ht l m).2 goal)
  rw [show s.selectionChanged.engine e = _ from kept, State.reselected_engine]
  exact EngineRec.reselect_reselected ..

/-! ### The leases -/

/-- A lease of an engine that was LOCKED reacts by R38. -/
theorem State.selectionChanged_served (ht : s.touched = []) {e : EngineId} (hl : s.lease? i = some l) (hn : l.Names e)
    (he : s.isLocked e = true) (hs : l.state.Served) :
    s.selectionChanged.slot i = ⟨(s.slot i).gen, .live l.heldOver⟩ ∧
      s.Raised s.selectionChanged i l .holdover false := by
  have lease : ({ s with selection := s.chosen } : State).reselected.lease? i = some l :=
    (State.reselected_lease _ i).trans hl
  cases (State.selectionChanged_heard ht).2 i with
  | left _ deaf => exact absurd hs (deaf l e lease he List.not_mem_nil hn).1
  | served k hk _ _ told =>
    cases lease.symm.trans hk
    exact told.selectionChanged
  | waiting k m hk _ state =>
    cases lease.symm.trans hk
    exact absurd hs (by simp [LeaseState.Served, state])
  | settled k m hk _ state =>
    cases lease.symm.trans hk
    exact absurd hs (by simp [LeaseState.Served, state])

/-- A MIGRATING lease that names an engine that was LOCKED is told of its HOLDOVER, and settles where its outputs are
at their goal (R97, R100, R105). -/
theorem State.selectionChanged_migrating (ht : s.touched = []) {e : EngineId} {m : Migration}
    (hl : s.lease? i = some l) (hn : l.Names e) (he : s.isLocked e = true) (hs : l.state = .migrating)
    (hm : l.migration = some m) :
    (¬s.selectionChanged.AtGoal l m →
      s.selectionChanged.slot i = ⟨(s.slot i).gen, .live { l with reason := .holdover }⟩ ∧
      s.Raised s.selectionChanged i l .holdover false) ∧
    (s.selectionChanged.AtGoal l m → m.mode = .loc → m.target = none →
      s.selectionChanged.slot i = ⟨(s.slot i).gen, .live (l.migrated m false)⟩ ∧
      s.Raised s.selectionChanged i l .migrated false) := by
  have lease : ({ s with selection := s.chosen } : State).reselected.lease? i = some l :=
    (State.reselected_lease _ i).trans hl
  rw [State.selectionChanged_atGoal ht]
  cases (State.selectionChanged_heard ht).2 i with
  | left _ deaf => exact absurd hm ((deaf l e lease he List.not_mem_nil hn).2 m hs)
  | served k hk _ state =>
    cases lease.symm.trans hk
    exact absurd state (by simp [LeaseState.Served, hs])
  | waiting k m' hk _ _ migration away told =>
    cases lease.symm.trans hk
    cases hm.symm.trans migration
    exact ⟨fun _ => told.selectionChanged, fun goal => absurd goal away⟩
  | settled k m' hk _ _ migration arrived told =>
    cases lease.symm.trans hk
    cases hm.symm.trans migration
    exact ⟨fun away => absurd arrived away, fun _ hmode target => (told hmode target).2.selectionChanged⟩

/-- Every other slot is left as it was. -/
theorem State.selectionChanged_kept (ht : s.touched = []) (h : ∀ l, s.lease? i = some l →
      (∀ e, l.Names e → (s.engine e).state ≠ .locked) ∨
        l.state = .pending ∨ l.state = .closing ∨ l.state = .failed) :
    s.SlotKept s.selectionChanged i := by
  have unheard {l : Lease} (hl : ({ s with selection := s.chosen } : State).reselected.lease? i = some l)
      (named : ∃ e, l.Names e ∧ s.isLocked e = true) :
      l.state = .pending ∨ l.state = .closing ∨ l.state = .failed := by
    obtain ⟨e, hn, he⟩ := named
    exact (h l ((State.reselected_lease _ i).symm.trans hl)).resolve_left fun off =>
      off e hn (by simpa [State.isLocked] using he)
  cases (State.selectionChanged_heard ht).2 i with
  | left kept _ =>
    have left := (State.reselected_left { s with selection := s.chosen } i).trans kept
    refine ⟨left.slot, fun p => ?_⟩
    rw [s.selectionChanged_notices, left.notices]
    cases p <;> rfl
  | served l lease named state =>
    exact absurd state (by rcases unheard lease named with hs | hs | hs <;> simp [LeaseState.Served, hs])
  | waiting l m lease named state =>
    exact absurd state (by rcases unheard lease named with hs | hs | hs <;> simp [hs])
  | settled l m lease named state =>
    exact absurd state (by rcases unheard lease named with hs | hs | hs <;> simp [hs])

/-! ### The whole re-evaluation -/

theorem State.Reselects.unchanged (h : s.chosen = s.selection) : s.Reselects s where
  work := .refl s
  selected := .of_chosen rfl rfl h.symm
  same _ := rfl
  outputs := rfl
  raised hn := absurd rfl hn
  engines hn := absurd rfl hn
  leases hn := absurd rfl hn
  migrations hn := absurd rfl hn
  others _ _ := ⟨rfl, fun _ => rfl⟩

theorem State.Reselects.changed (ht : s.touched = []) (h : s.chosen ≠ s.selection) :
    s.Reselects s.selectionChanged := by
  have work := s.selectionChanged_work
  have selection : s.selectionChanged.selection = s.chosen := work.selection
  have locked {e : EngineId} (he : (s.engine e).state = .locked) : s.isLocked e = true := by
    simpa [State.isLocked] using he
  have names {m : Migration} {e : EngineId} {l : Lease} (hm : l.migration = some m)
      (hn : l.engine = some e ∨ m.target = some e) : l.Names e :=
    hn.imp_right (Lease.migrationTarget_of_some hm).trans
  exact {
    work := by rw [selection]; exact work
    selected := .of_chosen work.params (funext (SameMonitor.of_work work).input) selection
    same := fun hs => absurd (selection.symm.trans hs) h
    outputs := Vector.ext fun o ho => State.selectionChanged_output ht ⟨o, ho⟩
    raised := fun _ => State.selectionChanged_deviceNotices ht
    engines := fun _ e he => by rw [selection]; exact State.selectionChanged_engine ht he
    leases := fun _ i l e hl he hk hs => State.selectionChanged_served ht hl (.inl he) (locked hk) hs
    migrations := fun _ i l m e hl hs hm hn hk =>
      State.selectionChanged_migrating ht hl (names hm hn) (locked hk) hs hm
    others := fun i hi => State.selectionChanged_kept ht hi }

/-- A re-evaluation leaves everything, or changes the selection with all that this sets in motion (R135). -/
theorem State.reevaluate_reselects (ht : s.touched = []) : s.Reselects { s.reevaluate with touched := [] } := by
  by_cases h : s.chosen = s.selection
  · have same : s.reevaluate = s := by simp [State.reevaluate, h]
    rw [same, State.touched_self ht]
    exact .unchanged h
  · rw [State.reevaluate_changed h]
    exact .changed ht h

end reselect

end Sys2Proof.Machine

/-! ## The events of an input (R127 to R133) -/

namespace Sys2Proof.Machine

/-! ### A record written, and what is handed on -/

/-- `t` is `s` at the end of the event that writes the record `x` of input `r`: where the state of the input changes,
its notice is raised and the selection re-evaluated; where it does not, the record alone changes (R133). -/
structure InputUpdated (s t : State) (r : RefInput) (x : InputRec) : Prop where
  input : ∀ k, t.input k = if k = r then x else s.input k
  params : t.params = s.params
  same : x.state = (s.input r).state → t = { s.setInput r x with touched := [] }
  changed : x.state ≠ (s.input r).state →
    State.Reselects { (s.setInput r x).raiseRefInput r with touched := [] } t

/-- The notice of input `r` among the device notices (R162). -/
def DeviceNotices.refInput (d : DeviceNotices) : RefInput → Bool
  | .refA => d.refInputA
  | .refB => d.refInputB

section updated

variable {s t : State} {r : RefInput} {x : InputRec}

@[simp] theorem State.input_touched (s : State) (xs : List SlotId) (k : RefInput) :
    ({ s with touched := xs } : State).input k = s.input k := by cases k <;> rfl

theorem State.unmarked_setInput_raise (s : State) (r : RefInput) (x : InputRec) :
    (({ s with touched := [] } : State).setInput r x).raiseRefInput r =
      { (s.setInput r x).raiseRefInput r with touched := [] } := by cases r <;> rfl

theorem State.updateInput_changed (h : x.state ≠ (s.input r).state) :
    s.updateInput r x = ((s.setInput r x).raiseRefInput r).reevaluate := if_neg h

theorem State.updateInput_same (h : x.state = (s.input r).state) : s.updateInput r x = s.setInput r x := if_pos h

theorem State.updateInput_params (s : State) (r : RefInput) (x : InputRec) : (s.updateInput r x).params = s.params := by
  unfold State.updateInput
  split
  · exact s.setInput_params r x
  · refine (State.reevaluate_work _).params.trans ?_
    cases r <;> rfl

/-- The event that writes a record of an input. -/
theorem InputUpdated.of_event {f : State → State}
    (hf : f { s with touched := [] } = ({ s with touched := [] } : State).updateInput r x) :
    InputUpdated s (event f s) r x := by
  rw [event, hf]
  refine ⟨fun k => ?_, State.updateInput_params _ r x, fun h => ?_, fun h => ?_⟩
  · rw [State.input_touched, State.updateInput_input, State.input_touched]
  · rw [State.updateInput_same (by simpa using h)]
    cases r <;> rfl
  · rw [State.updateInput_changed (by simpa using h), State.unmarked_setInput_raise]
    exact State.reevaluate_reselects rfl

namespace InputUpdated

variable (h : InputUpdated s t r x)

include h

theorem written : t.input r = x := by simp [h.input]

theorem other : t.input r.other = s.input r.other := by
  rw [h.input, if_neg]
  cases r <;> decide

/-- From a state without marks, the statement of a change names the written state as it is. -/
theorem reselects (ht : s.touched = []) (hx : x.state ≠ (s.input r).state) :
    ((s.setInput r x).raiseRefInput r).Reselects t := by
  have unmarked : ((s.setInput r x).raiseRefInput r).touched = [] := by cases r <;> exact ht
  have changed := h.changed hx
  rwa [State.touched_self unmarked] at changed

/-- A change of an input's state raises its notice (R133). -/
theorem raised (hx : x.state ≠ (s.input r).state) : t.deviceNotices.refInput r = true := by
  have changed := h.changed hx
  have before : ((s.setInput r x).raiseRefInput r).deviceNotices.refInput r = true := by cases r <;> rfl
  by_cases hs : t.selection = ((s.setInput r x).raiseRefInput r).selection
  · rw [changed.same hs]
    exact before
  · rw [changed.raised hs]
    cases r <;> exact before

/-- An input that has become other than VALID is not selected (R134, R135). -/
theorem not_selected (hx : x.state ≠ (s.input r).state) (hv : x.state ≠ .valid) : t.selection ≠ some r :=
  fun hr => hv (h.written ▸ (h.changed hx).selected.valid r hr)

end InputUpdated

end updated

/-! The rows, where they act (R127, R128, R129, R132) and where they do not (log entry 2). -/

section rows

variable {s : State} {r : RefInput}

theorem State.activityStart_absent (hr : s.ready = true) (hs : (s.input r).state = .absent) :
    s.activityStart r = s.updateInput r ((s.input r).arrive s.params.qualPeriod) := if_pos (by simp [hr, hs])

theorem State.activityStart_watched (hs : (s.input r).state ≠ .absent) : s.activityStart r = s :=
  if_neg (by simp [hs])

theorem State.activityLoss_watched (hr : s.ready = true) (hs : (s.input r).state ≠ .absent) :
    s.activityLoss r = s.updateInput r (s.input r).lose := if_pos (by simp [hr, hs])

theorem State.activityLoss_absent (hs : (s.input r).state = .absent) : s.activityLoss r = s := if_neg (by simp [hs])

theorem State.measurement_watched (hr : s.ready = true) (hs : (s.input r).state ≠ .absent) (n : Nat) :
    s.measurement r n = s.updateInput r ((s.input r).measure s.params n) := if_pos (by simp [hr, hs])

theorem State.qualificationExpiry_trial (hr : s.ready = true) (hs : (s.input r).state = .qualifying) :
    s.qualificationExpiry r = s.updateInput r (s.input r).pass := if_pos (by simp [hr, hs])

end rows

/-- Settles O44: both rows write one record, an ABSENT input being the one that edges wake and no other. -/
theorem activityEvents : Obligations.ActivityEvents := by
  intro s r hr ht
  refine ⟨fun hs => ?_, fun hs => ?_, fun hs => ?_, fun hs => ?_⟩
  · have up : InputUpdated s (event (State.activityStart r) s) r ((s.input r).arrive s.params.qualPeriod) :=
      .of_event (State.activityStart_absent (s := { s with touched := [] }) hr hs)
    have changed : ((s.input r).arrive s.params.qualPeriod).state ≠ (s.input r).state := by
      rw [hs]
      exact nofun
    have raised := up.raised changed
    refine ⟨_, rfl, up.reselects ht changed, up.other, (up.changed changed).selected.valid, ?_⟩
    cases r <;> exact raised
  · have up : InputUpdated s (event (State.activityLoss r) s) r (s.input r).lose :=
      .of_event (State.activityLoss_watched (s := { s with touched := [] }) hr hs)
    have changed : (s.input r).lose.state ≠ (s.input r).state := hs.symm
    have raised := up.raised changed
    refine ⟨_, rfl, up.reselects ht changed, up.other, up.not_selected changed nofun, ?_⟩
    cases r <;> exact raised
  · refine congrArg Host.Outcome.next ?_
    rw [event_of_unmarked ht, State.activityStart_watched hs, State.touched_self ht]
  · refine congrArg Host.Outcome.next ?_
    rw [event_of_unmarked ht, State.activityLoss_absent hs, State.touched_self ht]

/-! ### The offset (R128) -/

section offset

variable {nominal n : Nat}

theorem measuredOffset_range (nominal n : Nat) :
    -32768 ≤ measuredOffset nominal n ∧ measuredOffset nominal n ≤ 32767 := by
  unfold measuredOffset
  omega

/-- A frequency at or above the nominal one is off by a quotient of natural numbers, held to the range. -/
theorem measuredOffset_of_le (h : nominal ≤ 10 * n) :
    measuredOffset nominal n = min 32767 ((10 * n - nominal) * 1000000 / nominal : Nat) := by
  have difference : ((10 * n : Nat) - (nominal : Int)) * 1000000 = (((10 * n - nominal) * 1000000 : Nat) : Int) := by
    omega
  rw [measuredOffset, difference, ← Int.ofNat_tdiv]
  generalize (10 * n - nominal) * 1000000 / nominal = q
  omega

/-- A frequency at or below the nominal one is off by the negated quotient: the division rounds toward zero. -/
theorem measuredOffset_of_ge (h : 10 * n ≤ nominal) :
    measuredOffset nominal n = -(min 32768 ((nominal - 10 * n) * 1000000 / nominal : Nat)) := by
  have difference : ((10 * n : Nat) - (nominal : Int)) * 1000000 = -(((nominal - 10 * n) * 1000000 : Nat) : Int) := by
    omega
  rw [measuredOffset, difference, Int.neg_tdiv, ← Int.ofNat_tdiv]
  generalize (nominal - 10 * n) * 1000000 / nominal = q
  omega

end offset

/-! ### The verdict (R129 to R131) -/

namespace InputRec

variable {x : InputRec} {p : Params} {n : Nat}

theorem judge_offset (good : Bool) (period : Nat) (x : InputRec) : (x.judge good period).offset = x.offset := by
  unfold judge
  repeat' split
  all_goals rfl

theorem judge_interval (good : Bool) (period : Nat) (x : InputRec) : (x.judge good period).interval = x.interval := by
  unfold judge
  repeat' split
  all_goals rfl

theorem measure_offset (p : Params) (n : Nat) (x : InputRec) :
    (x.measure p n).offset = some (measuredOffset p.nominal n) := judge_offset ..

theorem measure_interval (p : Params) (n : Nat) (x : InputRec) : (x.measure p n).interval = ⟨true, 0⟩ :=
  judge_interval ..

/-- A good measurement (R128 to R130). -/
theorem measure_good (h : (measuredOffset p.nominal n).natAbs ≤ p.window) :
    (x.state = .valid → (x.measure p n).state = .valid ∧ (x.measure p n).strikes = 0) ∧
    (x.state = .qualifying → (x.measure p n).state = .qualifying ∧
      (x.measure p n).qualification = x.qualification) ∧
    (x.state = .disqualified → (x.measure p n).state = .qualifying ∧ (x.measure p n).strikes = 0 ∧
      (x.measure p n).qualification = ⟨true, 0, 0, p.qualPeriod⟩) := by
  have good : inWindow p.window (measuredOffset p.nominal n) = true := decide_eq_true h
  refine ⟨fun hs => ?_, fun hs => ?_, fun hs => ?_⟩ <;>
    simp [measure, judge, good, hs, qualify, QualificationTimer.start]

/-- A bad measurement (R129 to R131). -/
theorem measure_bad (h : p.window < (measuredOffset p.nominal n).natAbs) :
    (x.state = .valid → x.strikes = 0 → (x.measure p n).state = .valid ∧ (x.measure p n).strikes = 1) ∧
    (x.state = .valid → x.strikes ≠ 0 → (x.measure p n).state = .disqualified ∧ (x.measure p n).strikes = 0) ∧
    (x.state = .qualifying → (x.measure p n).state = .disqualified ∧
      (x.measure p n).qualification = ⟨false, 0, 0, x.qualification.period⟩) ∧
    (x.state = .disqualified → (x.measure p n).state = .disqualified) := by
  have bad : inWindow p.window (measuredOffset p.nominal n) = false := decide_eq_false (Nat.not_le.2 h)
  refine ⟨fun hs hk => ?_, fun hs hk => ?_, fun hs => ?_, fun hs => ?_⟩
  · simp [measure, judge, bad, hs, hk]
  · simp [measure, judge, bad, hs, hk]
  · simp [measure, judge, bad, hs, QualificationTimer.stop]
  · simp [measure, judge, bad, hs]

end InputRec

/-- Settles O45: the row writes the measured record, judged state by state, and hands a change of state on. -/
theorem measurementJudged : Obligations.MeasurementJudged := by
  rintro s r n off hr rfl
  obtain ⟨low, high⟩ := measuredOffset_range s.params.nominal n
  refine ⟨low, high, measuredOffset_of_le, measuredOffset_of_ge, fun hs => ?_, fun hs => ?_⟩
  · have up : InputUpdated s (event (State.measurement r n) s) r ((s.input r).measure s.params n) :=
      .of_event (State.measurement_watched (s := { s with touched := [] }) hr hs n)
    generalize ht : event (State.measurement r n) s = t at up
    refine ⟨t, congrArg Host.Outcome.next ht, up.other, up.params, ?_⟩
    rw [up.written]
    refine ⟨InputRec.measure_offset .., InputRec.measure_interval .., up.same, up.changed, InputRec.measure_good,
      fun h => ?_⟩
    obtain ⟨struck, second, trial, idle⟩ := InputRec.measure_bad (x := s.input r) h
    refine ⟨fun hs hk => ?_, fun hs hk => ?_, trial, idle⟩
    · obtain ⟨valid, strikes⟩ := struck hs hk
      refine ⟨valid, strikes, ?_⟩
      rw [up.same (valid.trans hs.symm)]
      exact s.setInput_selection r _
    · obtain ⟨state, strikes⟩ := second hs hk
      exact ⟨state, strikes, up.not_selected (by simp [state, hs]) (by simp [state])⟩
  · have up : InputUpdated s (event (State.qualificationExpiry r) s) r (s.input r).pass :=
      .of_event (State.qualificationExpiry_trial (s := { s with touched := [] }) hr hs)
    have changed : (s.input r).pass.state ≠ (s.input r).state := by
      rw [hs]
      exact nofun
    generalize ht : event (State.qualificationExpiry r) s = t at up
    refine ⟨t, congrArg Host.Outcome.next ht, ?_⟩
    have reselects := up.changed changed
    have preferred (mode : s.params.mode = .autoRevert) (first : s.params.priority.first = r) :
        t.selection = some r := by
      have chosen := reselects.selected.priority r (by rw [up.params, first]) (.inl (by rw [up.params, mode]))
      exact chosen.trans (if_pos (congrArg InputRec.state up.written))
    rw [up.written]
    exact ⟨rfl, rfl, rfl, up.other, reselects, preferred⟩

end Sys2Proof.Machine

/-! ## The intake arbiter -/

namespace Sys2Proof.Machine

section arbiter

variable {s : State} {p : Port} {c : HeldCommand}

theorem Exchange.isHeld_eq_false {x : Exchange} (h : ∀ d, x ≠ .held d) : x.isHeld = false := by
  cases x with
  | empty => rfl
  | answered r => rfl
  | held d => exact absurd rfl (h d)

/-- The one held command, or, with two, that of the port not served last (R147). -/
theorem State.arbitrate_held (hr : s.ready = true) (hc : (s.port p).exchange = .held c)
    (ho : (s.port p.other).exchange.isHeld = true → s.lastServed = p.other) : s.arbitrate = some p := by
  have held : (s.port p).exchange.isHeld = true := by rw [hc]; rfl
  unfold State.arbitrate
  rw [hr]
  cases p with
  | A =>
    have held : s.portA.exchange.isHeld = true := held
    cases hb : s.portB.exchange.isHeld with
    | false => simp [held]
    | true => simp [held, ho hb, Port.other]
  | B =>
    have held : s.portB.exchange.isHeld = true := held
    cases ha : s.portA.exchange.isHeld with
    | false => simp [held]
    | true => simp [held, ho ha, Port.other]

theorem State.nextTaken_of_arbitrate (h : s.arbitrate = some p) (hc : (s.port p).exchange = .held c) :
    s.nextTaken = some (p, c) := by
  simp only [State.nextTaken, h, hc]

theorem State.nextTaken_notReady (h : s.ready = false) : s.nextTaken = none := by
  simp [State.nextTaken, State.arbitrate, h]

end arbiter

/-- Settles O4: the arbiter's choice is a held port that is alone, or that the other, served last, gives way to. -/
theorem arbiterChoosesPort : Obligations.ArbiterChoosesPort := by
  refine fun s => ⟨State.nextTaken_notReady, fun p c hr hc ho => ?_, fun a b hr ha hb => ?_,
    State.nextTaken_none_of_no_held⟩
  · refine State.nextTaken_of_arbitrate (State.arbitrate_held hr hc fun other => ?_) hc
    rw [Exchange.isHeld_eq_false ho] at other
    cases other
  · cases last : s.lastServed with
    | A => exact State.nextTaken_of_arbitrate (State.arbitrate_held (p := .B) hr hb fun _ => last) hb
    | B => exact State.nextTaken_of_arbitrate (State.arbitrate_held (p := .A) hr ha fun _ => last) ha

end Sys2Proof.Machine

/-! ## The end of a frame

A whole frame that ends is judged in the state that `State.frameEnded` names; what the judgement of each kind makes of
the port is said once. -/

namespace Sys2Proof.Machine

/-! ### Freeing RETIRED slots, and the port resync -/

/-- A loop that frees some of the RETIRED slots writes the slots alone. -/
theorem forEach_freeSome_eq (ok : State → SlotId → Bool) (xs : List SlotId) (s : State) :
    ∃ v, forEach xs (fun i u => if ok u i then u.freeRetired i else u) s = { s with slots := v } := by
  refine forEach_keeps (P := fun t => ∃ v, t = { s with slots := v }) _ (fun i u hu => ?_) xs ⟨s.slots, rfl⟩
  obtain ⟨v, rfl⟩ := hu
  split
  · unfold State.freeRetired
    split
    · exact ⟨_, rfl⟩
    · exact ⟨v, rfl⟩
    · exact ⟨v, rfl⟩
  · exact ⟨v, rfl⟩

section resync

variable (s : State) (p : Port)

/-- A port resync writes its port, the slots and, on the supervisor port, the device notices (R155). -/
theorem State.portResync_eq : ∃ v, s.portResync p = { s.setPort p { s.port p with
    exchange := .empty, retry := none, frameError := .none, notices := Vector.replicate 24 none } with
      slots := v, deviceNotices := if s.supervisor = p then DeviceNotices.initial else s.deviceNotices } := by
  unfold State.portResync
  refine (forEach_freeSome_eq (fun u i => u.isRetiredAt p i) allSlots _).imp fun v hv => hv.trans ?_
  dsimp only
  rw [State.setPort_supervisor]
  split
  · rfl
  · cases p <;> rfl

theorem State.freeRetiredAt_slot (i j : SlotId) :
    (if s.isRetiredAt p i then s.freeRetired i else s).slot j =
      if j = i then if (s.slot i).standing = .retired p then ⟨(s.slot i).gen + 1, .free⟩ else s.slot i
      else s.slot j := by
  by_cases hr : (s.slot i).standing = .retired p
  · rw [if_pos (by simpa [State.isRetiredAt] using hr), if_pos hr, State.freeRetired, hr, State.slot_setSlot]
  · rw [if_neg (by simpa [State.isRetiredAt] using hr), if_neg hr]
    split
    · rename_i hj
      rw [hj]
    · rfl

/-- A port resync frees the slots RETIRED at its port (R155). -/
theorem State.portResync_slot (i : SlotId) : (s.portResync p).slot i =
    if (s.slot i).standing = .retired p then ⟨(s.slot i).gen + 1, .free⟩ else s.slot i := by
  unfold State.portResync
  dsimp only
  rw [forEach_slot_map (g := fun x => if x.standing = .retired p then ⟨x.gen + 1, .free⟩ else x)
    (fun i u j => u.freeRetiredAt_slot p i j) allSlots_nodup, if_pos (mem_allSlots i)]
  split
  · exact congrArg (fun x : Slot => if x.standing = .retired p then (⟨x.gen + 1, .free⟩ : Slot) else x)
      (s.slot_setPort p _ i)
  · rw [State.slot_setPort]

end resync

/-! ### The judgement of a kind -/

section judge

variable {s : State} {p : Port} {f : Frame} {kind : Byte} {rest : List Byte}

theorem State.setFrameError_touched (x : FrameError) : (s.setFrameError p x).touched = s.touched :=
  s.setPort_touched p _

theorem State.portResync_touched : (s.portResync p).touched = s.touched := by
  obtain ⟨v, hv⟩ := s.portResync_eq p
  rw [hv]
  exact s.setPort_touched p _

theorem State.judge_nop : s.judge p f kindNop rest = s.setFrameError p .none := rfl

theorem State.judge_refused (hk : kind ≠ kindNop) (hr : s.ready = false) :
    s.judge p f kind rest = s.setFrameError p .notReady := by
  simp [State.judge, hk, hr]

theorem State.judge_command (hr : s.ready = true) :
    s.judge p f kindCommand rest = s.setPort p ((s.port p).judgeCommand rest) := by
  simp [State.judge, hr, kindCommand, kindNop]

theorem State.judge_fetch (hr : s.ready = true) :
    s.judge p f kindFetch rest = s.setPort p ((s.port p).fetchEnd f rest.length) := by
  simp [State.judge, hr, kindFetch, kindCommand, kindNop]

theorem State.judge_resync (hr : s.ready = true) : s.judge p f kindResync rest = s.judgeResync p rest := by
  simp [State.judge, hr, kindResync, kindFetch, kindCommand, kindNop]

/-- A kind byte that names no kind (R145). -/
theorem State.judge_unknown (hk : kind ∉ knownKinds) :
    s.judge p f kind rest = s.setFrameError p (if s.ready then .badKind else .notReady) := by
  simp only [knownKinds, List.mem_cons, List.not_mem_nil, or_false, not_or] at hk
  obtain ⟨nop, command, fetch, resync⟩ := hk
  cases hr : s.ready with
  | false => exact State.judge_refused nop hr
  | true => simp [State.judge, hr, kindNop, kindCommand, kindFetch, kindResync, nop, command, fetch, resync]

theorem State.judgeResync_short : s.judgeResync p [] = s.setFrameError p .frameShort := rfl

theorem State.judgeResync_wrong {k : Byte} {tail : List Byte} (h : k ≠ resyncCheck) :
    s.judgeResync p (k :: tail) = s.setFrameError p .crcError := by
  rw [State.judgeResync, if_neg h]

theorem State.judgeResync_right {tail : List Byte} :
    s.judgeResync p (resyncCheck :: tail) = s.portResync p := by
  rw [State.judgeResync, if_pos rfl]

/-- No judgement marks a slot. -/
theorem State.judge_touched : (s.judge p f kind rest).touched = s.touched := by
  have resync : (s.judgeResync p rest).touched = s.touched := by
    unfold State.judgeResync
    split
    · exact State.setFrameError_touched _
    · split
      · exact State.portResync_touched
      · exact State.setFrameError_touched _
  unfold State.judge
  split
  · exact State.setFrameError_touched _
  split
  · exact State.setFrameError_touched _
  split
  · exact s.setPort_touched p _
  split
  · exact s.setPort_touched p _
  split
  · exact resync
  · exact State.setFrameError_touched _

end judge

/-! ### The frame that ends -/

section ended

variable {s : State} {p : Port} {f : Frame} {kind : Byte} {rest : List Byte} {bits : List Bool}

theorem State.frameEnded_ready : (s.frameEnded p f kind rest).ready = s.ready := s.setPort_ready p _

theorem State.frameEnded_exchange : ((s.frameEnded p f kind rest).port p).exchange = (s.port p).exchange := by
  cases p <;> rfl

theorem State.frameEnded_retry : ((s.frameEnded p f kind rest).port p).retry = (s.port p).retry := by
  cases p <;> rfl

/-- A whole frame that ends is judged, its bits beyond the whole bytes discarded (R142). -/
theorem State.InFrame.event_endFrame (h : s.InFrame p f) (kind : Byte) (rest : List Byte) (bits : List Bool) :
    event (State.endFrame p ⟨kind :: rest, bits⟩) s = (s.frameEnded p f kind rest).judge p f kind rest := by
  have ended : State.endFrame p ⟨kind :: rest, bits⟩ { s with touched := [] } =
      (s.frameEnded p f kind rest).judge p f kind rest := by
    simp only [State.endFrame, State.port_touched, h.low, h.frame, if_true]
    cases p <;> rfl
  rw [event, ended]
  exact State.touched_self State.judge_touched

/-- A chip-select cycle without a frame, or without a whole byte, is not judged (R142). -/
theorem event_endFrame_unjudged {x : ShiftedIn} (low : (s.port p).csLow = true)
    (h : (s.port p).frame = none ∨ x.bytes = []) : event (State.endFrame p x) s =
      { s.setPort p { s.port p with csLow := false, frame := none, sdo := [] } with touched := [] } := by
  have ended : State.endFrame p x { s with touched := [] } =
      ({ s with touched := [] } : State).setPort p { s.port p with csLow := false, frame := none, sdo := [] } := by
    simp only [State.endFrame, State.port_touched, low, if_true]
    rcases h with frameless | empty
    · simp only [frameless]
    · cases (s.port p).frame <;> simp only [empty]
  rw [event, ended]
  cases p <;> rfl

theorem State.InFrame.event_endFrame_refused (h : s.InFrame p f) (hk : kind ≠ kindNop) (hr : s.ready = false) :
    event (State.endFrame p ⟨kind :: rest, bits⟩) s = (s.frameEnded p f kind rest).setFrameError p .notReady := by
  rw [h.event_endFrame, State.judge_refused hk (State.frameEnded_ready.trans hr)]

end ended

/-- Settles O34: the first two branches of the judgement and its last, and the cycles that are not judged. -/
theorem frameFirstChecks : Obligations.FrameFirstChecks := by
  refine fun s p rest bits => ⟨fun f h => ⟨?_, fun hr => ⟨?_, ?_, ?_⟩, fun k hk => ?_⟩, ?_⟩
  · exact congrArg _ (h.event_endFrame kindNop rest bits)
  · exact congrArg _ (h.event_endFrame_refused (kind := kindCommand) (by decide) hr)
  · exact congrArg _ (h.event_endFrame_refused (kind := kindFetch) (by decide) hr)
  · exact congrArg _ (h.event_endFrame_refused (kind := kindResync) (by decide) hr)
  · refine congrArg _ ((h.event_endFrame k rest bits).trans ?_)
    rw [State.judge_unknown hk, State.frameEnded_ready]
  · rintro low u rfl
    refine ⟨congrArg _ (event_endFrame_unjudged low (.inr rfl)), fun frameless => ?_⟩
    have unjudged (x : ShiftedIn) := congrArg (Host.Outcome.next (φ := Fault) (ρ := Refusal))
      (event_endFrame_unjudged (x := x) low (.inl frameless))
    exact ⟨unjudged _, unjudged _, unjudged _, unjudged _, unjudged _⟩

/-! ### RESYNC -/

/-- Settles O37: the resync of the port in the state at the frame's end. -/
theorem resyncEmptiesPort : Obligations.ResyncEmptiesPort := by
  intro s p f rest bits h
  refine ⟨fun hr => congrArg _ (h.event_endFrame_refused (kind := kindResync) (by decide) hr), fun hr => ?_⟩
  have judged : exec (.resync p ⟨rest, bits⟩) s = .next ((s.frameEnded p f 0xC3#8 rest).judgeResync p rest) :=
    congrArg _ ((h.event_endFrame kindResync rest bits).trans (State.judge_resync (State.frameEnded_ready.trans hr)))
  rw [judged]
  refine ⟨?_, ?_, ?_⟩
  · rintro rfl
    rfl
  · rintro k tail rfl hk
    rw [State.judgeResync_wrong hk]
  · rintro tail rfl
    refine ⟨_, congrArg _ State.judgeResync_right, ?_⟩
    have slot (i : SlotId) := (s.frameEnded p f 0xC3#8 (0x3C#8 :: tail)).portResync_slot p i
    obtain ⟨v, hv⟩ := (s.frameEnded p f 0xC3#8 (0x3C#8 :: tail)).portResync_eq p
    rw [hv] at slot ⊢
    cases p <;> exact ⟨rfl, rfl, rfl, slot⟩

/-! ### COMMAND -/

section command

variable {x : PortState} {sc code len k : Byte} {body tail rest : List Byte} {c : HeldCommand}

theorem PortState.acceptCommand_held {d : HeldCommand} (h : x.exchange = .held d) :
    x.acceptCommand c = { x with frameError := .portBusy } := by
  simp only [PortState.acceptCommand, h]

theorem PortState.acceptCommand_answered {d : Response} (h : x.exchange = .answered d) :
    x.acceptCommand c = { x with frameError := .responseUnread } := by
  simp only [PortState.acceptCommand, h]

theorem PortState.acceptCommand_conflict {v : Saved} (h : x.exchange = .empty) (hv : x.retry = some v)
    (hs : v.seq = c.seq) (hc : v.crc ≠ c.crc) : x.acceptCommand c = { x with frameError := .seqConflict } := by
  simp only [PortState.acceptCommand, h, hv, hs, hc, if_true, if_false]

theorem PortState.acceptCommand_replay {v : Saved} (h : x.exchange = .empty) (hv : x.retry = some v)
    (hs : v.seq = c.seq) (hc : v.crc = c.crc) :
    x.acceptCommand c = { x with frameError := .none, exchange := .answered v.replay } := by
  simp only [PortState.acceptCommand, h, hv, hs, hc, if_true]

theorem PortState.acceptCommand_new (h : x.exchange = .empty) (hn : ∀ v, x.retry = some v → v.seq ≠ c.seq) :
    x.acceptCommand c = { x with frameError := .none, exchange := .held c } := by
  cases hv : x.retry with
  | none => simp only [PortState.acceptCommand, h, hv]
  | some v => simp only [PortState.acceptCommand, h, hv, hn v hv, if_false]

theorem PortState.judgeCommand_long (h : 60 < len.toNat) :
    x.judgeCommand (sc :: code :: len :: tail) = { x with frameError := .badKind } := if_pos h

theorem PortState.judgeCommand_headless (h : rest.length < 3) :
    x.judgeCommand rest = { x with frameError := .frameShort } := by
  match rest, h with
  | [], _ => rfl
  | [_], _ => rfl
  | [_, _], _ => rfl

theorem PortState.judgeCommand_short (hl : len.toNat ≤ 60) (ht : tail.length ≤ len.toNat) :
    x.judgeCommand (sc :: code :: len :: tail) = { x with frameError := .frameShort } := by
  simp only [PortState.judgeCommand, Nat.not_lt.2 hl, if_false, List.getElem?_eq_none ht]

/-- A whole COMMAND frame is judged by its CRC (R146, step 4). -/
theorem PortState.judgeCommand_whole {extra : List Byte} (hl : len.toNat ≤ 60) (hb : body.length = len.toNat) :
    x.judgeCommand (sc :: code :: len :: (body ++ k :: extra)) =
      if k = crc8 (kindCommand :: sc :: code :: len :: body) then x.acceptCommand (heldFrom sc code body k)
      else { x with frameError := .crcError } := by
  have carried : (body ++ k :: extra)[len.toNat]? = some k := by simp [← hb]
  simp only [PortState.judgeCommand, Nat.not_lt.2 hl, if_false, carried, List.take_left' hb]

end command

/-- Settles O35: each step of R146 is one lemma about the port's judgement. -/
theorem commandFrameJudged : Obligations.CommandFrameJudged := by
  intro s p f rest bits h
  refine ⟨fun hr => congrArg _ (h.event_endFrame_refused (kind := kindCommand) (by decide) hr), fun hr => ?_⟩
  have judged {y : PortState} (hy : ((s.frameEnded p f 0x5C#8 rest).port p).judgeCommand rest = y) :
      exec (.commandFrame p ⟨rest, bits⟩) s = .next ((s.frameEnded p f 0x5C#8 rest).setPort p y) := by
    rw [← hy]
    exact congrArg _ ((h.event_endFrame kindCommand rest bits).trans
      (State.judge_command (State.frameEnded_ready.trans hr)))
  refine ⟨?_, ?_, ?_⟩
  · rintro sc code len tail rfl hl
    exact judged (PortState.judgeCommand_long hl)
  · rintro (short | ⟨sc, code, len, tail, rfl, hl, ht⟩)
    · exact judged (PortState.judgeCommand_headless short)
    · exact judged (PortState.judgeCommand_short hl ht)
  rintro sc code len body k extra rfl hb hl
  have whole := PortState.judgeCommand_whole (sc := sc) (code := code) (k := k) (extra := extra)
    (x := (s.frameEnded p f 0x5C#8 (sc :: code :: len :: (body ++ k :: extra))).port p) hl hb
  refine ⟨fun hk => judged (whole.trans (if_neg hk)), fun hk => ?_⟩
  have accepted := whole.trans (if_pos hk)
  refine ⟨fun d hd => ?_, fun d hd => ?_, fun he => ?_⟩
  · exact judged (accepted.trans (PortState.acceptCommand_held (State.frameEnded_exchange.trans hd)))
  · exact judged (accepted.trans (PortState.acceptCommand_answered (State.frameEnded_exchange.trans hd)))
  have empty := State.frameEnded_exchange (f := f) (kind := 0x5C#8)
    (rest := sc :: code :: len :: (body ++ k :: extra)) |>.trans he
  refine ⟨fun v hv hs hc => ?_, fun v hv hs hc => ?_, fun hn => ?_⟩
  · exact judged (accepted.trans (PortState.acceptCommand_conflict empty (State.frameEnded_retry.trans hv) hs hc))
  · exact judged (accepted.trans (PortState.acceptCommand_replay empty (State.frameEnded_retry.trans hv) hs hc))
  · exact ⟨heldFrom sc code body k, rfl, rfl, rfl, rfl, rfl, rfl, judged (accepted.trans
      (PortState.acceptCommand_new empty fun v hv => hn v (State.frameEnded_retry.symm.trans hv)))⟩

/-! ### FETCH -/

section fetch

variable {f : Frame} {n : Nat} {x : PortState} {r : Response} {rest : List Byte}

theorem PortState.fetchEnd_whole (hd : f.delivers = some r) (hx : x.exchange = .answered r)
    (hn : r.frame.length ≤ n) : x.fetchEnd f n =
      { x with frameError := .none, exchange := .empty, retry := some r.saved } := by
  simp [PortState.fetchEnd, hd, hx, hn]

theorem PortState.fetchEnd_cut
    (h : ∀ r, f.delivers = some r → x.exchange = .answered r → n < r.frame.length) :
    x.fetchEnd f n = { x with frameError := .none } := by
  unfold PortState.fetchEnd
  split
  · rename_i r r' hd hx
    split
    · rename_i whole
      obtain ⟨rfl, hn⟩ : r = r' ∧ r.frame.length ≤ n := by simpa using whole
      exact absurd (h r hd hx) (Nat.not_lt.2 hn)
    · rfl
  · rfl

theorem Frame.shifted_fetch : f.shifted kindFetch rest =
    f.status :: (f.out ++ List.replicate rest.length filler).take rest.length := rfl

theorem Frame.shifted_fetch_length : (f.shifted kindFetch rest).length = rest.length + 1 := by
  simp [Frame.shifted_fetch]

/-- A FETCH shifts out the response fixed at its start, then filler (R142, R150). -/
theorem Frame.shifted_fetch_byte {k : Nat} (hk : k < rest.length) :
    (f.shifted kindFetch rest)[k + 1]? = some (f.out[k]?.getD filler) := by
  rw [Frame.shifted_fetch, List.getElem?_cons_succ, List.getElem?_take_of_lt hk]
  by_cases ho : k < f.out.length
  · rw [List.getElem?_append_left ho, List.getElem?_eq_getElem ho, Option.getD_some]
  · have ho := Nat.not_lt.1 ho
    rw [List.getElem?_append_right ho, List.getElem?_replicate, if_pos (by omega), List.getElem?_eq_none ho,
      Option.getD_none]

end fetch

/-- Settles O36: the end of a FETCH at the port, and the bytes shifted out. -/
theorem fetchDelivers : Obligations.FetchDelivers := by
  intro s p f rest bits h hr
  have judged {y : PortState} (hy : ((s.frameEnded p f 0x3A#8 rest).port p).fetchEnd f rest.length = y) :
      exec (.fetch p ⟨rest, bits⟩) s = .next ((s.frameEnded p f 0x3A#8 rest).setPort p y) := by
    rw [← hy]
    exact congrArg _ ((h.event_endFrame kindFetch rest bits).trans
      (State.judge_fetch (State.frameEnded_ready.trans hr)))
  refine ⟨fun r hd hx hn => ?_, fun cut => ?_, Frame.shifted_fetch_length, fun k => Frame.shifted_fetch_byte⟩
  · exact judged (PortState.fetchEnd_whole hd (State.frameEnded_exchange.trans hx) hn)
  · exact judged (PortState.fetchEnd_cut fun r hd hx => cut r hd (State.frameEnded_exchange.symm.trans hx))

end Sys2Proof.Machine

/-! ## The fall of chip select -/

namespace Sys2Proof.Machine

/-! ### The bits of the status byte -/

theorem bitAt_getLsbD {k i : Nat} (hk : k < 8) (b : Bool) : (bitAt k b).getLsbD i = (b && decide (i = k)) := by
  cases b with
  | false => simp [bitAt]
  | true =>
    simp only [bitAt, if_true, BitVec.getLsbD_shiftLeft, BitVec.getLsbD_one, Bool.true_and]
    grind

theorem Exchange.isHeld_iff {x : Exchange} : x.isHeld = true ↔ ∃ c, x = .held c := by
  cases x <;> simp [Exchange.isHeld]

theorem Exchange.isAnswered_iff {x : Exchange} : x.isAnswered = true ↔ ∃ r, x = .answered r := by
  cases x <;> simp [Exchange.isAnswered]

section status

variable (s : State) (p : Port)

/-- Bit `i` of the status byte is the indication that stands there, or a bit of the frame-error code (R143, R178). -/
theorem State.statusByte_getLsbD (i : Nat) : (s.statusByte p).getLsbD i =
    (s.ready && decide (i = 7) || (s.port p).exchange.isAnswered && decide (i = 6) ||
      (s.port p).exchange.isHeld && decide (i = 5) || s.note p && decide (i = 4) ||
      decide (s.supervisor = p) && decide (i = 3) || (s.port p).frameError.code.getLsbD i) := by
  have code : (decide (i < 8) && (s.port p).frameError.code.getLsbD i) = (s.port p).frameError.code.getLsbD i := by
    by_cases hi : i < 8
    · simp [hi]
    · simp [BitVec.getLsbD_of_ge _ i (show 3 ≤ i by omega)]
  simp [State.statusByte, bitAt_getLsbD, code]

theorem State.statusByte_code : (s.statusByte p).extractLsb' 0 3 = (s.port p).frameError.code := by
  refine BitVec.eq_of_getLsbD_eq fun i hi => ?_
  rw [BitVec.getLsbD_extractLsb', Nat.zero_add, s.statusByte_getLsbD]
  simp [hi, show i ≠ 3 by omega, show i ≠ 4 by omega, show i ≠ 5 by omega, show i ≠ 6 by omega,
    show i ≠ 7 by omega]

end status

/-! ### The CRC and the frame of a response -/

theorem crcShift_eq : crcShift = fun r : Byte => if r.getLsbD 7 = true then (r <<< 1) ^^^ 0x07#8 else r <<< 1 := by
  funext r
  rw [crcShift, BitVec.msb_eq_getLsbD_last]

/-- One more byte shifts the register eight times (R179). -/
theorem crc8_concat (bs : List Byte) (b : Byte) : crc8 (bs ++ [b]) = crcShift^[8] (crc8 bs ^^^ b) := by
  rw [crc8, List.foldl_append]
  rfl

/-- The sequence byte of a response head (R178). -/
theorem seqByte_eq (q : BitVec 4) : byte (q.toNat * 16) = q.setWidth 8 <<< 4 := by
  revert q
  decide

theorem Response.frame_eq (r : Response) : ∃ bs : List Byte, bs =
    [r.seq.setWidth 8 <<< 4, r.status.code, if r.replayed then 0x01#8 else 0x00#8, byte r.body.length] ++ r.body ∧
    r.frame = bs ++ [crc8 bs] := by
  refine ⟨_, rfl, ?_⟩
  rw [← seqByte_eq, ← bitAt_zero]
  rfl

/-! ### The frame that begins -/

section fall

variable {s : State} {p : Port}

theorem State.chipSelectFall_inReset (h : (s.port p).csLow = false) (low : s.rstnLow = true) :
    s.chipSelectFall p = s.setPort p { s.port p with csLow := true, frame := none } := by
  simp [State.chipSelectFall, h, low]

theorem State.chipSelectFall_begins (h : (s.port p).csLow = false) (high : s.rstnLow = false) :
    s.chipSelectFall p = s.setPort p { s.port p with csLow := true, frame := some (s.frameAt p) } := by
  simp [State.chipSelectFall, h, high]

theorem exec_chipSelectFall (ht : s.touched = []) {x : PortState} (h : s.chipSelectFall p = s.setPort p x) :
    exec (.chipSelectFall p) s = .next (s.setPort p x) := by
  have fallen : event (State.chipSelectFall p) s = s.setPort p x := by
    rw [event_of_unmarked ht, h, State.touched_self ((s.setPort_touched p x).trans ht)]
  exact congrArg _ fallen

theorem State.frameAt_answered {r : Response} (h : (s.port p).exchange = .answered r) :
    (s.frameAt p).delivers = some r ∧ (s.frameAt p).out = r.frame := by
  simp [State.frameAt, h, Exchange.response, responseFrame]

theorem State.frameAt_unanswered (h : ∀ r, (s.port p).exchange ≠ .answered r) :
    (s.frameAt p).delivers = none ∧ (s.frameAt p).out = emptyFrame := by
  have unanswered : (s.port p).exchange.response = none := by
    cases hx : (s.port p).exchange with
    | empty => rfl
    | held c => rfl
    | answered r => exact absurd hx (h r)
  simp [State.frameAt, unanswered, responseFrame]

end fall

/-- Settles O33: the layout and the CRC of a response, then the two falls of chip select and the status byte's bits. -/
theorem chipSelectFixesFrame : Obligations.ChipSelectFixesFrame := by
  refine ⟨Response.frame_eq, rfl, rfl, fun bs b => crcShift_eq ▸ crc8_concat bs b, fun s p ht hcs => ⟨?_, ?_, ?_⟩⟩
  · simp [State.sdoHighZ, hcs]
  · refine fun low => ⟨_, exec_chipSelectFall ht (State.chipSelectFall_inReset hcs low), rfl, ?_⟩
    simp [State.sdoHighZ, low]
  · refine fun high => ⟨_, s.frameAt p,
      exec_chipSelectFall ht (State.chipSelectFall_begins hcs high), rfl, ?_, ?_⟩
    · simp [State.sdoHighZ, high]
    have bit : ∀ i, (s.frameAt p).status.getLsbD i = _ := s.statusByte_getLsbD p
    refine ⟨?_, ?_, ?_, ?_, ?_, s.statusByte_code p, fun r => State.frameAt_answered, State.frameAt_unanswered⟩
    · exact (bit 7).trans (by simp)
    · rw [← Exchange.isAnswered_iff, bit 6]
      simp
    · rw [← Exchange.isHeld_iff, bit 5]
      simp
    · exact (bit 4).trans (by simp)
    · exact (bit 3).trans (by simp)

end Sys2Proof.Machine

/-! ## The answer of a taken command -/

namespace Sys2Proof.Machine

/-! ### The port served stays the last one served -/

section served

variable (s : State)

@[simp] theorem State.raiseRefInput_lastServed (r : RefInput) : (s.raiseRefInput r).lastServed = s.lastServed := by
  cases r <;> rfl

@[simp] theorem State.retrialInput_lastServed (r : RefInput) : (s.retrialInput r).lastServed = s.lastServed := by
  unfold State.retrialInput
  dsimp only
  split <;> simp

theorem State.reevaluate_lastServed : s.reevaluate.lastServed = s.lastServed := s.reevaluate_work.lastServed

theorem State.nominalChanged_lastServed : s.nominalChanged.lastServed = s.lastServed := by
  rw [State.nominalChanged, State.reevaluate_lastServed, State.retrialInput_lastServed, State.retrialInput_lastServed]

theorem State.configure_lastServed (ws : List ParamWrite) : (s.configure ws).lastServed = s.lastServed :=
  State.configure_keeps (P := fun u => u.lastServed = s.lastServed) (fun _ _ hu => hu)
    (fun u => u.nominalChanged_lastServed.trans) (fun u => u.reevaluate_lastServed.trans)
    (fun _ _ w => w.lastServed.trans) ws rfl

theorem State.clearNotices_lastServed (p : Port) : (s.clearNotices p).lastServed = s.lastServed := by
  obtain ⟨v, hv⟩ := forEach_freeSome_eq (fun _ i => s.noticeClosed p i) allSlots s
  unfold State.clearNotices
  dsimp only
  rw [hv]
  split <;> exact State.setPort_lastServed _ p _

theorem State.setMask_lastServed (p : Port) (m : Option Byte) : (s.setMask p m).lastServed = s.lastServed := by
  cases m with
  | none => rfl
  | some m => exact s.setPort_lastServed p _

theorem State.setClients_lastServed (a : ClientArgs) : (s.setClients a).lastServed = s.lastServed :=
  forEach_keeps (P := fun u => u.lastServed = s.lastServed) State.setQuota (fun _ _ hu => hu) a.quotas
    ((State.setMask_lastServed _ .B a.maskB).trans (s.setMask_lastServed .A a.maskA))

theorem State.afterFind_lastServed (o : OutputId) : (s.afterFind o).lastServed = s.lastServed := by
  unfold State.afterFind
  split <;> rfl

theorem State.leaseReset_lastServed : s.leaseReset.lastServed = s.lastServed := by rw [s.leaseReset_eq]

theorem State.deviceReset_lastServed (p : Port) : (s.deviceReset p).lastServed = s.lastServed := by
  have served := s.leaseReset_lastServed
  unfold State.deviceReset
  generalize s.leaseReset = t at served ⊢
  exact (State.setPort_lastServed _ p.other _).trans served

end served

/-! ### What a reply carries -/

/-- A reply to a command that is not refused: the port served is kept, and the status is none of a refusal. -/
structure Reply.Answers (s : State) (r : Reply) : Prop where
  served : r.state.lastServed = s.lastServed
  accepted : r.status.isRefusal = false

/-- Every reply of a run answers. -/
def Answering (run : Port → HeldCommand → State → Except Denial Reply) : Prop :=
  ∀ p c s r, run p c s = .ok r → r.Answers s

theorem Answering.ite {P : Prop} [Decidable P] {run run' : Port → HeldCommand → State → Except Denial Reply}
    (h : Answering run) (h' : Answering run') : Answering (if P then run else run') := by
  split
  · exact h
  · exact h'

section answers

variable {s t : State} {r : Reply} {body : List Byte}

theorem replyOk_accepted (h : Except.ok (replyOk t body) = .ok (ε := Denial) r) : r.status.isRefusal = false := by
  rw [← Except.ok.inj h]
  rfl

theorem replyOk_answers (ht : t.lastServed = s.lastServed) (h : Except.ok (replyOk t body) = .ok (ε := Denial) r) :
    r.Answers s :=
  ⟨by rw [← Except.ok.inj h]; exact ht, replyOk_accepted h⟩

theorem retuneReply_status (st : Status) (i : SlotId) : (retuneReply st i s).status = st := by
  unfold retuneReply
  split <;> rfl

theorem retuneReply_accepted {st : Status} {i : SlotId} (hst : st.isRefusal = false)
    (h : Except.ok (retuneReply st i t) = .ok (ε := Denial) r) : r.status.isRefusal = false := by
  rw [← Except.ok.inj h, retuneReply_status, hst]

theorem State.gapOrRefuse_accepted {told : Bool} {i : SlotId} {l : Lease} {q : RetuneRequest} {e : EngineId}
    {st : Status} (h : s.gapOrRefuse told i l q e st = .ok r) : r.status.isRefusal = false :=
  of_bind h fun _ => retuneReply_accepted rfl

/-- The status of a RETUNE that is not refused is OK, OK_GAP or SAME_PLAN (R91). -/
theorem State.retuneCase_accepted {told : Bool} {i : SlotId} {l : Lease} {q : RetuneRequest}
    (h : s.retuneCase told i l q = .ok r) : r.status.isRefusal = false := by
  unfold State.retuneCase at h
  split at h
  · exact retuneReply_accepted rfl h
  split at h
  · split at h
    · exact retuneReply_accepted rfl h
    · exact of_bind h fun _ => retuneReply_accepted rfl
  split at h
  · cases h
  split at h
  · exact retuneReply_accepted rfl h
  unfold State.moveOff at h
  split at h
  · exact State.gapOrRefuse_accepted h
  split at h
  · exact retuneReply_accepted rfl h
  · exact State.gapOrRefuse_accepted h
  · cases h

end answers

/-! ### The runs -/

theorem runOpen_answering : Answering runOpen := fun _ _ _ _ h => by
  refine ⟨(runOpen_work h).lastServed, ?_⟩
  exact of_bind h fun _ h => of_bind h fun _ h => of_bind h fun _ h => of_bind h fun _ h => of_bind h fun _ h =>
    of_bind h fun _ h => of_bind h fun _ => replyOk_accepted

theorem runStart_answering : Answering runStart := fun _ _ _ _ h => by
  refine ⟨(runStart_work h).lastServed, ?_⟩
  exact of_bind h fun _ h => of_bind h fun _ h => of_bind h fun _ h => of_bind h fun _ h =>
    replyOk_accepted h

theorem runRetune_answering : Answering runRetune := fun _ _ _ _ h => by
  obtain ⟨_, _, _, _, -, -, case⟩ := runRetune_ok h
  exact ⟨(runRetune_work h).lastServed, State.retuneCase_accepted case⟩

theorem runRelease_answering : Answering runRelease := fun _ _ _ _ h => by
  refine ⟨(runRelease_work h).lastServed, ?_⟩
  exact of_bind h fun _ h => of_bind h fun _ h => of_bind h fun _ => replyOk_accepted

theorem runRevoke_answering : Answering runRevoke := fun _ _ _ _ h => by
  refine ⟨(runRevoke_work h).lastServed, ?_⟩
  exact of_bind h fun _ h => of_bind h fun _ h => of_bind h fun _ h => of_bind h fun _ h =>
    replyOk_accepted h

theorem runRetry_answering : Answering runRetry := fun _ _ _ _ h => by
  refine ⟨(runRetry_work h).lastServed, ?_⟩
  exact of_bind h fun _ h => of_bind h fun _ h => of_bind h fun _ h => of_bind h fun _ h => of_bind h fun _ h =>
    of_bind h fun _ => replyOk_accepted

theorem runQueryLease_answering : Answering runQueryLease := fun _ _ _ _ h =>
  of_bind h fun _ h => of_bind h fun _ => replyOk_answers rfl

theorem runLookupTag_answering : Answering runLookupTag := fun _ _ s r h => of_bind h fun a h => by
  split at h
  · exact replyOk_answers rfl h
  · obtain rfl := Except.ok.inj h
    exact ⟨rfl, rfl⟩

theorem runListClient_answering : Answering runListClient := fun _ _ _ _ h =>
  of_bind h fun _ h => of_bind h fun _ => replyOk_answers rfl

theorem runFindOutput_answering : Answering runFindOutput := fun _ _ s _ h =>
  of_bind h fun o => replyOk_answers (s.afterFind_lastServed o)

theorem runQueryEngine_answering : Answering runQueryEngine := fun _ _ _ _ h =>
  of_bind h fun _ => replyOk_answers rfl

theorem runQueryReference_answering : Answering runQueryReference := fun _ _ _ _ h =>
  of_bind h fun _ => replyOk_answers rfl

theorem runNotices_answering : Answering runNotices := fun p _ s _ h =>
  of_bind h fun _ => replyOk_answers (s.clearNotices_lastServed p)

theorem runSetIrq_answering : Answering runSetIrq := fun p _ s _ h =>
  of_bind h fun _ => replyOk_answers (s.setPort_lastServed p _)

theorem runReadConfig_answering : Answering runReadConfig := fun _ _ _ _ h =>
  of_bind h fun _ => replyOk_answers rfl

theorem runConfigure_answering : Answering runConfigure := fun _ _ s _ h =>
  of_bind h fun _ h => of_bind h fun _ h => of_bind h fun _ => replyOk_answers (s.configure_lastServed _)

theorem runSetClients_answering : Answering runSetClients := fun _ _ s _ h =>
  of_bind h fun _ h => of_bind h fun a => replyOk_answers (s.setClients_lastServed a)

theorem runHandover_answering : Answering runHandover := fun _ _ _ _ h =>
  of_bind h fun _ h => of_bind h fun _ => replyOk_answers rfl

theorem runSoftReset_answering : Answering runSoftReset := fun p _ s r h =>
  of_bind h fun _ h => of_bind h fun device h => by
    obtain rfl := Except.ok.inj h
    cases device with
    | false => exact ⟨s.leaseReset_lastServed, rfl⟩
    | true => exact ⟨s.deviceReset_lastServed p, rfl⟩

theorem runEngineClear_answering : Answering runEngineClear := fun _ _ _ _ h =>
  of_bind h fun _ h => of_bind h fun _ h => of_bind h fun _ => replyOk_answers rfl

theorem runUnknownCode_answering : Answering runUnknownCode := fun _ _ _ _ h => nomatch h

/-- Every accepted command keeps the port served and carries no status of a refusal. -/
theorem runOf_answering (c : HeldCommand) : Answering (runOf c) := by
  unfold runOf
  exact .ite runOpen_answering <| .ite runStart_answering <| .ite runRetune_answering <|
    .ite runRelease_answering <| .ite runRetry_answering <| .ite runQueryLease_answering <|
    .ite runLookupTag_answering <| .ite runListClient_answering <| .ite runFindOutput_answering <|
    .ite runQueryEngine_answering <| .ite runQueryReference_answering <| .ite runNotices_answering <|
    .ite runSetIrq_answering <| .ite runReadConfig_answering <| .ite runConfigure_answering <|
    .ite runSetClients_answering <| .ite runHandover_answering <| .ite runSoftReset_answering <|
    .ite runEngineClear_answering <| .ite runRevoke_answering runUnknownCode_answering

section answered

variable (s : State) (p : Port) (c : HeldCommand) (st : Status) (body : List Byte)

theorem State.answered_exchange :
    ((s.answered p c st body).port p).exchange = .answered (responseTo c st body) := by cases p <;> rfl

theorem State.place_exchange (r : Response) (save : Bool) :
    (({ s.place p r save with touched := [] } : State).port p).exchange = .answered r := by cases p <;> rfl

theorem State.place_lastServed (r : Response) (save : Bool) : (s.place p r save).lastServed = s.lastServed :=
  s.setPort_lastServed p _

end answered

/-- A refusal answers, and is the answered state itself (R148, 00_scope 6.5). -/
theorem refusal_answered {s : State} {p : Port} {c : HeldCommand} {st : Status} {body : List Byte}
    (h : exec (rowOf c) s = .next (s.answered p c st body)) : ∃ t st body, exec (rowOf c) s = .next t ∧
      (t.port p).exchange = .answered (responseTo c st body) ∧ t.lastServed = p ∧
      (st.isRefusal = true → t = s.answered p c st body) :=
  ⟨_, st, body, h, s.answered_exchange p c st body, rfl, fun _ => rfl⟩

/-- Settles O5: a taking denies the client, refuses, or places the reply of its run. -/
theorem takenCommandAnswered : Obligations.TakenCommandAnswered := by
  intro s p c next
  cases client : s.accepts p c.client with
  | false => exact refusal_answered (exec_rowOf_denied next client)
  | true =>
    have takes : s.Takes p c := ⟨next, client⟩
    cases run : runOf c p c (s.seen p) with
    | error d => exact refusal_answered (exec_rowOf_refused takes run)
    | ok r =>
      obtain ⟨served, accepted⟩ := runOf_answering c p c _ r run
      obtain ⟨mine, hm, taken⟩ := serves_rowOf c
      refine ⟨_, r.status, r.body, (taken s).trans (congrArg _ (event_take_ok takes hm run)),
        State.place_exchange _ p _ _, ?_, fun refused => ?_⟩
      · exact (State.place_lastServed _ p _ _).trans (served.trans (s.seen_lastServed p))
      · rw [accepted] at refused
        cases refused

end Sys2Proof.Machine

/-! ## The lease notices of one slot (R158, R160, R161)

The agreement of the notices with the lease table is an agreement slot by slot, and what it asks of a slot follows the
slot's standing. -/

namespace Sys2Proof.Machine

/-! ### The agreement at one slot -/

/-- The notices of slot `i` at both ports agree with the slot. -/
structure State.NotedAt (s : State) (i : SlotId) : Prop where
  entries : ∀ p n, (s.port p).notices[i] = some n → s.NoticeOk p i n
  retired : ∀ p, (s.slot i).standing = .retired p → ∃ n, (s.port p).notices[i] = some n ∧ n.closed = true

theorem State.noticesOk_iff {s : State} : s.NoticesOk ↔ ∀ i, s.NotedAt i :=
  ⟨fun h i => ⟨fun p => h.entries p i, fun p => h.retired p i⟩,
    fun h => ⟨fun p i => (h i).entries p, fun p i => (h i).retired p⟩⟩

/-- What R158 asks of an entry for a slot of generation `gen`, the entry being closed or not. -/
structure Notice.Fits (gen : Byte) (closed : Bool) (n : Notice) : Prop where
  count : 1 ≤ n.count ∧ n.count ≤ 15
  gen : n.gen = gen
  closed : n.closed = closed

/-- A raise makes an entry that fits, where the slot had none or an open one (R160). -/
theorem raisedNotice_fits {old : Option Notice} {gen : Byte} (h : ∀ n, old = some n → n.Fits gen false)
    (already : Bool) (r : Reason) (closed : Bool) : (raisedNotice old already gen r closed).Fits gen closed := by
  cases old with
  | none => exact ⟨⟨Nat.le_refl 1, Nat.le_add_left 1 14⟩, rfl, rfl⟩
  | some n =>
    obtain ⟨count, hgen, hopen⟩ := h n rfl
    refine ⟨?_, hgen, by simp [raisedNotice, hopen]⟩
    cases already
    · simp [raisedNotice]
    · exact count

section standing

variable {s t : State} {i : SlotId} {l : Lease} {p : Port}

/-- A FREE slot has no entry. -/
theorem State.notedAt_free_iff (h : (s.slot i).standing = .free) :
    s.NotedAt i ↔ ∀ q, (s.port q).notices[i] = none := by
  have lease : s.lease? i = none := by rw [State.lease?, h]; rfl
  constructor
  · intro k q
    cases hn : (s.port q).notices[i] with
    | none => rfl
    | some n =>
      obtain ⟨-, -, live, closed⟩ := k.entries q n hn
      cases hc : n.closed with
      | true => cases h.symm.trans (closed hc)
      | false =>
        obtain ⟨l, hl, -⟩ := live hc
        cases lease.symm.trans hl
  · exact fun k => ⟨fun q n hn => (nomatch (k q).symm.trans hn), fun q hq => nomatch h.symm.trans hq⟩

/-- A live slot has an entry at its lease's home port alone, which is open. -/
theorem State.notedAt_live_iff (h : s.lease? i = some l) : s.NotedAt i ↔
    ∀ q n, (s.port q).notices[i] = some n → n.Fits (s.slot i).gen false ∧ q = l.home := by
  have standing := State.standing_of_lease h
  constructor
  · intro k q n hn
    obtain ⟨count, gen, live, closed⟩ := k.entries q n hn
    cases hc : n.closed with
    | true => cases standing.symm.trans (closed hc)
    | false =>
      obtain ⟨l', hl', rfl⟩ := live hc
      cases h.symm.trans hl'
      exact ⟨⟨count, gen, hc⟩, rfl⟩
  · refine fun k => ⟨fun q n hn => ?_, fun q hq => nomatch standing.symm.trans hq⟩
    obtain ⟨⟨count, gen, hc⟩, rfl⟩ := k q n hn
    exact ⟨count, gen, fun _ => ⟨l, h, rfl⟩, fun ho => nomatch hc.symm.trans ho⟩

/-- A RETIRED slot has an entry at its home port, which is closed, and none at the other (R161). -/
theorem State.notedAt_retired_iff (h : (s.slot i).standing = .retired p) : s.NotedAt i ↔
    (∃ n, (s.port p).notices[i] = some n) ∧
      ∀ q n, (s.port q).notices[i] = some n → n.Fits (s.slot i).gen true ∧ q = p := by
  have lease : s.lease? i = none := by rw [State.lease?, h]; rfl
  constructor
  · refine fun k => ⟨(k.retired p h).imp fun _ => And.left, fun q n hn => ?_⟩
    obtain ⟨count, gen, live, closed⟩ := k.entries q n hn
    cases hc : n.closed with
    | true =>
      cases h.symm.trans (closed hc)
      exact ⟨⟨count, gen, hc⟩, rfl⟩
    | false =>
      obtain ⟨l, hl, -⟩ := live hc
      cases lease.symm.trans hl
  · rintro ⟨⟨n, hn⟩, k⟩
    refine ⟨fun q m hm => ?_, fun q hq => ?_⟩
    · obtain ⟨⟨count, gen, hc⟩, rfl⟩ := k q m hm
      exact ⟨count, gen, fun ho => (nomatch hc.symm.trans ho), fun _ => h⟩
    · cases h.symm.trans hq
      exact ⟨n, hn, (k p n hn).1.closed⟩

theorem State.NotedAt.congr (h : s.NotedAt i) (slot : t.slot i = s.slot i)
    (notices : ∀ q, (t.port q).notices[i] = (s.port q).notices[i]) : t.NotedAt i where
  entries q n hn := by
    obtain ⟨count, gen, live, closed⟩ := h.entries q n ((notices q).symm.trans hn)
    exact ⟨count, slot ▸ gen, by rwa [State.lease?, slot], slot ▸ closed⟩
  retired q hq := by
    rw [notices]
    exact h.retired q (slot ▸ hq)

end standing

/-! ### Writes that reach one slot, or none -/

namespace State.NoticesOk

variable {s t : State}

/-- The agreement speaks of the slots and the lease notices alone. -/
theorem of_ledger (h : s.NoticesOk) (slot : ∀ i, t.slot i = s.slot i)
    (notices : ∀ q, (t.port q).notices = (s.port q).notices) : t.NoticesOk :=
  State.noticesOk_iff.2 fun i => (State.noticesOk_iff.1 h i).congr (slot i) fun q => by rw [notices]

/-- A write that leaves every slot but `i`, and the notices of every slot but `i`. -/
theorem of_slot {i : SlotId} (h : s.NoticesOk) (slots : ∀ j, j ≠ i → t.slot j = s.slot j)
    (notices : ∀ q (j : SlotId), j ≠ i → (t.port q).notices[j] = (s.port q).notices[j]) (at_i : t.NotedAt i) :
    t.NoticesOk := State.noticesOk_iff.2 fun j => by
  by_cases hj : j = i
  · exact hj ▸ at_i
  · exact (State.noticesOk_iff.1 h j).congr (slots j hj) fun q => notices q j hj

theorem setPort (h : s.NoticesOk) (p : Port) {x : PortState} (hx : x.notices = (s.port p).notices := by rfl) :
    (s.setPort p x).NoticesOk :=
  h.of_ledger (by simp) fun q => by
    rw [State.port_setPort]
    split
    · rename_i hq
      rw [hq, hx]
    · rfl

theorem setEngine (h : s.NoticesOk) (e : EngineId) (x : EngineRec) : (s.setEngine e x).NoticesOk :=
  h.of_ledger (fun _ => rfl) fun q => by simp

theorem setOutput (h : s.NoticesOk) (o : OutputId) (x : OutputRec) : (s.setOutput o x).NoticesOk :=
  h.of_ledger (fun _ => rfl) fun q => by simp

theorem setInput (h : s.NoticesOk) (r : RefInput) (x : InputRec) : (s.setInput r x).NoticesOk :=
  h.of_ledger (by simp) fun q => by simp

theorem unmarked (h : s.NoticesOk) (xs : List SlotId) : ({ s with touched := xs } : State).NoticesOk :=
  h.of_ledger (fun _ => rfl) fun q => by simp

theorem deviceNotices (h : s.NoticesOk) (d : DeviceNotices) : ({ s with deviceNotices := d } : State).NoticesOk :=
  h.of_ledger (fun _ => rfl) fun q => by cases q <;> rfl

theorem dropUser (h : s.NoticesOk) (e : Option EngineId) : (s.dropUser e).NoticesOk :=
  h.of_ledger (fun _ => by simp) fun _ => by simp

theorem commit (h : s.NoticesOk) (r : AllocRequest) (e : EngineId) : (s.commit r e).NoticesOk := h.setEngine e _

theorem giveEach (h : s.NoticesOk) (want : OutState → Entry → Option Target) (es : List Entry) :
    (s.giveEach want es).NoticesOk :=
  h.of_ledger (fun _ => by simp) fun _ => by simp

theorem setHolders (h : s.NoticesOk) (k : Option SlotId) (es : List Entry) : (s.setHolders k es).NoticesOk :=
  h.of_ledger (fun _ => by simp) fun _ => by simp

theorem forceQuietTied (h : s.NoticesOk) (e : EngineId) : (s.forceQuietTied e).NoticesOk :=
  forEach_keeps (P := State.NoticesOk) _ (fun o u hu => by
    dsimp only
    split
    · exact hu.setOutput o _
    · exact hu) allOutputs h

end State.NoticesOk

/-! ### A live slot -/

/-- The notices agree with the lease table, and slot `i` holds a live lease homed at `p`. -/
structure State.NotedLive (p : Port) (i : SlotId) (s : State) : Prop where
  notices : s.NoticesOk
  live : ∃ l, s.lease? i = some l ∧ l.home = p

theorem State.NoticesOk.live {s : State} {i : SlotId} {l : Lease} (h : s.NoticesOk) (hl : s.lease? i = some l) :
    s.NotedLive l.home i :=
  ⟨h, l, hl, rfl⟩

namespace State.NotedLive

variable {s t : State} {p : Port} {i : SlotId} {l : Lease}

/-- An entry of the slot is open, and stands at the home port. -/
theorem entry (h : s.NotedLive p i) {q : Port} {n : Notice} (hn : (s.port q).notices[i] = some n) :
    n.Fits (s.slot i).gen false ∧ q = p := by
  obtain ⟨ok, l, hl, rfl⟩ := h
  exact (State.notedAt_live_iff hl).1 (State.noticesOk_iff.1 ok i) q n hn

theorem of_ledger (h : s.NotedLive p i) (slot : ∀ j, t.slot j = s.slot j)
    (notices : ∀ q, (t.port q).notices = (s.port q).notices) : t.NotedLive p i :=
  ⟨h.notices.of_ledger slot notices, by simpa only [State.lease?, slot] using h.live⟩

/-- No lease changes its home port (R158). -/
theorem setLease (h : s.NotedLive p i) {k : Lease} (home : k.home = p := by rfl) :
    (s.setLease i k).NotedLive p i where
  notices := h.notices.of_slot (fun _ hj => by rw [State.slot_setLease, if_neg hj]) (fun _ _ _ => by simp) <|
    (State.notedAt_live_iff (State.lease_setLease_same s i k)).2 fun q n hn => by
      rw [State.port_setLease] at hn
      simpa [State.slot_setLease, home] using h.entry hn
  live := ⟨k, State.lease_setLease_same s i k, home⟩

theorem raise (h : s.NotedLive p i) : (s.raise i false).NotedLive p i := by
  obtain ⟨l, hl, rfl⟩ := h.live
  have one := (OneSlot.refl i s).raise false
  have lease : (s.raise i false).lease? i = some l := by rw [State.raise_lease, hl]
  refine ⟨h.notices.of_slot one.slots one.notices ?_, l, lease, rfl⟩
  refine (State.notedAt_live_iff lease).2 fun q n hn => ?_
  rw [s.raise_notices i false hl] at hn
  rw [State.raise_slot]
  split at hn
  · rename_i hq
    cases hn
    exact ⟨raisedNotice_fits (fun m hm => (h.entry hm).1) _ _ _, hq⟩
  · exact h.entry hn

theorem tell (h : s.NotedLive p i) (told : Bool) : (s.tell told i).NotedLive p i := by
  unfold State.tell
  split
  · exact h
  · exact h.raise

theorem background (h : s.NotedLive p i) (st : LeaseState) (r : Reason) {k : Lease}
    (home : k.home = p := by rfl) : (s.background i k st r).NotedLive p i :=
  (h.setLease (k := { k with state := st, reason := r }) home).raise

/-- A slot that becomes FREE has its entry discarded (R161). -/
theorem freeTold (h : s.NotedLive p i) (home : l.home = p) : (s.freeTold i l).NoticesOk := by
  subst home
  have standing : ((s.freeTold i l).slot i).standing = .free := by rw [State.freeTold_slot, if_pos rfl]
  refine h.notices.of_slot (fun j hj => by rw [State.freeTold_slot, if_neg hj])
    (fun q j hj => by rw [State.freeTold_notices, if_neg fun both => hj both.2])
    ((State.notedAt_free_iff standing).2 fun q => ?_)
  rw [State.freeTold_notices]
  split
  · rfl
  · rename_i hq
    cases hn : (s.port q).notices[i] with
    | none => rfl
    | some n => exact absurd ⟨(h.entry hn).2, rfl⟩ hq

end State.NotedLive

/-- A slot that becomes RETIRED has its entry raised and closed (R161). -/
theorem State.NoticesOk.retire {s : State} {i : SlotId} {l : Lease} (h : s.NoticesOk) (hl : s.lease? i = some l) :
    (s.retire i l).NoticesOk := by
  have one := (OneSlot.refl i s).retire l
  have standing : ((s.retire i l).slot i).standing = .retired l.home := by rw [State.retire_slot, if_pos rfl]
  have entry {q n} (hn : (s.port q).notices[i] = some n) := (h.live hl).entry hn
  refine h.of_slot one.slots one.notices ((State.notedAt_retired_iff standing).2 ⟨?_, fun q n hn => ?_⟩)
  · exact ⟨_, (State.retire_notices hl l.home i).trans (if_pos ⟨rfl, rfl⟩)⟩
  · rw [State.retire_notices hl] at hn
    rw [one.gen]
    split at hn
    · rename_i hq
      cases hn
      exact ⟨raisedNotice_fits (fun m hm => (entry hm).1) _ _ _, hq.1⟩
    · rename_i hq
      exact absurd ⟨(entry hn).2, rfl⟩ hq

end Sys2Proof.Machine

/-! ## The lease notices and what befalls a lease

No operation on a live lease changes its home port, so each keeps the agreement of the notices with the lease table. -/

namespace Sys2Proof.Machine

namespace State.NotedLive

variable {s : State} {p : Port} {i : SlotId} {l : Lease}

theorem setEngine (h : s.NotedLive p i) (e : EngineId) (x : EngineRec) : (s.setEngine e x).NotedLive p i :=
  ⟨h.notices.setEngine e x, h.live⟩

theorem dropUser (h : s.NotedLive p i) (e : Option EngineId) : (s.dropUser e).NotedLive p i :=
  h.of_ledger (fun _ => by simp) fun _ => by simp

theorem commit (h : s.NotedLive p i) (r : AllocRequest) (e : EngineId) : (s.commit r e).NotedLive p i :=
  h.setEngine e _

theorem giveEach (h : s.NotedLive p i) (want : OutState → Entry → Option Target) (es : List Entry) :
    (s.giveEach want es).NotedLive p i :=
  h.of_ledger (fun _ => by simp) fun _ => by simp

theorem setHolders (h : s.NotedLive p i) (k : Option SlotId) (es : List Entry) :
    (s.setHolders k es).NotedLive p i :=
  h.of_ledger (fun _ => by simp) fun _ => by simp

theorem giveUp (h : s.NotedLive p i) (l : Lease) : (s.giveUp l).NotedLive p i :=
  h.of_ledger (fun _ => by simp) fun _ => by simp

/-! ### Migrations and starts -/

theorem enter (h : s.NotedLive p i) : (s.enter i).NotedLive p i := by
  obtain ⟨l, hl, rfl⟩ := h.live
  unfold State.enter
  rw [hl]
  dsimp only
  split
  · exact h.setLease
  split
  · split
    · exact h.setLease
    · exact h.setLease.giveEach _ _
  · exact h.setLease

theorem finishMigration (h : s.NotedLive l.home i) (m : Migration) :
    (s.finishMigration i l m).NotedLive l.home i := by
  unfold State.finishMigration
  cases m.mode with
  | loc => exact h.setLease
  | overlap => exact (h.dropUser l.engine).setLease
  | gap =>
    cases l.engine with
    | none => exact h.setLease
    | some e => exact (h.setEngine e _).setLease

theorem settle (h : s.NotedLive p i) (told : Bool) : (s.settle told i).NotedLive p i := by
  obtain ⟨l, hl, rfl⟩ := h.live
  unfold State.settle
  rw [hl]
  dsimp only
  split
  · split
    · exact (h.finishMigration _).tell told
    · exact h
  · exact h

theorem startPending (h : s.NotedLive l.home i) (e : EngineId) :
    (s.startPending e i l).NotedLive l.home i := by
  unfold State.startPending
  split
  · exact h.background _ _
  · exact (h.background _ _).giveEach _ _

theorem relock (h : s.NotedLive l.home i) (e : EngineId) : (s.relock e i l).NotedLive l.home i := by
  unfold State.relock
  split
  · exact h.background _ _
  · exact h.giveEach _ _

theorem migrationLocked (h : s.NotedLive p i) (e : EngineId) (l : Lease) (m : Migration) :
    (s.migrationLocked e l m).NotedLive p i :=
  h.of_ledger (fun _ => by simp) fun _ => by simp

theorem mute (h : s.NotedLive p i) (l : Lease) : (s.mute l).NotedLive p i :=
  h.of_ledger (fun _ => by simp) fun _ => by simp

theorem migrationSlip (h : s.NotedLive p i) (e : EngineId) (l : Lease) (m : Migration) :
    (s.migrationSlip e l m).NotedLive p i :=
  h.of_ledger (fun _ => by simp) fun _ => by simp

/-! ### An OVERLAP migration that loses an engine (R102, R103) -/

theorem sourceFault (h : s.NotedLive l.home i) (m : Migration) :
    (s.sourceFault i l m).NotedLive l.home i := by
  have moved := h.background .migrating .engineFault (k := { l with engine := none })
  unfold State.sourceFault
  dsimp only
  split
  · refine settle ?_ false
    split
    · exact moved.giveEach _ _
    · exact moved
  · exact moved

theorem targetFault (h : s.NotedLive l.home i) : (s.targetFault i l).NotedLive l.home i := by
  unfold State.targetFault
  split
  · exact h.background _ _
  dsimp only
  split
  · split
    · exact h.background _ _
    · exact (h.background _ _).giveEach _ _
  · exact h.background _ _

/-! ### The lease commands on a live lease -/

variable (told : Bool) (r : RetuneRequest) (e : EngineId)

theorem startOne (h : s.NotedLive p i) (q : Port) : (s.startOne q i).NotedLive p i := by
  obtain ⟨l, hl, rfl⟩ := h.live
  unfold State.startOne
  rw [hl]
  dsimp only
  split
  · split
    · exact (h.setLease.giveEach _ _).tell _
    · exact h
  · exact h.setLease

theorem rebind (h : s.NotedLive l.home i) : (s.rebind told i l r e).NotedLive l.home i :=
  ((((h.commit _ e).dropUser _).setLease).enter).tell told

theorem retuneLocal (h : s.NotedLive l.home i) : (s.retuneLocal told i l r e).NotedLive l.home i :=
  ((h.setLease.giveEach _ _).tell told).settle told

theorem retuneOverlap (h : s.NotedLive l.home i) : (s.retuneOverlap told i l r e).NotedLive l.home i := by
  have begun := (h.commit (r.alloc l) e).setLease
    (k := { l with state := .migrating, migration := some (r.migration .overlap (some e)) })
  refine settle (tell ?_ told) told
  split
  · exact begun.giveEach _ _
  · exact begun

theorem retuneGap (h : s.NotedLive l.home i) : (s.retuneGap told i l r e).NotedLive l.home i :=
  ((((h.setEngine e _).setLease).giveEach _ _).tell told).settle told

end State.NotedLive

namespace State.NoticesOk

variable {s : State}

/-! ### Announcements -/

section lease

variable (e : EngineId) (i : SlotId)

theorem onLocked (h : s.NoticesOk) : (Machine.onLocked e i s).NoticesOk := by
  unfold Machine.onLocked
  split
  · exact h
  rename_i l hl
  have live := h.live hl
  split
  swap
  · exact h
  split
  · exact (live.startPending e).notices
  · exact (live.relock e).notices
  · split
    · exact ((live.migrationLocked e l _).settle false).notices
    · exact h
  all_goals exact h

theorem onSlip (h : s.NoticesOk) : (Machine.onSlip e i s).NoticesOk := by
  unfold Machine.onSlip
  split
  · exact h
  rename_i l hl
  have back (st : LeaseState) := (h.live hl).background st .slip
  split
  swap
  · exact h
  split
  · exact (back .pending).notices
  · exact ((back .disturbed).mute l).notices
  · exact ((back .disturbed).mute l).notices
  · exact ((back .disturbed).mute l).notices
  · split
    · exact (((back .migrating).migrationSlip e l _).settle false).notices
    · exact h
  all_goals exact h

theorem onHoldover (h : s.NoticesOk) : (Machine.onHoldover e i s).NoticesOk := by
  unfold Machine.onHoldover
  split
  · exact h
  rename_i l hl
  have back (st : LeaseState) := (h.live hl).background st .holdover
  split
  swap
  · exact h
  split
  · exact (back .pending).notices
  · exact (back .disturbed).notices
  · exact (back .disturbed).notices
  · exact (back .disturbed).notices
  · split
    · exact ((back .migrating).settle false).notices
    · exact h
  all_goals exact h

/-! ### Closing -/

theorem closeIfQuiet (h : s.NoticesOk) : (s.closeIfQuiet i).NoticesOk := by
  unfold State.closeIfQuiet
  split
  · exact h
  rename_i l hl
  split
  · exact ((h.live hl).giveUp l).notices.retire (by rw [State.giveUp_lease, hl])
  · exact h

theorem endLease (h : s.NoticesOk) {l : Lease} (hl : s.lease? i = some l) (told : Bool) (r : Reason) :
    (s.endLease told r i l).NoticesOk := by
  have live := h.live hl
  unfold State.endLease
  split
  · have given := (live.setLease (k := { l with reason := r })).giveUp l
    dsimp only
    split
    · exact given.freeTold rfl
    · exact given.notices.retire (by rw [State.giveUp_lease, State.lease_setLease_same])
  · exact (((live.setLease).tell told).giveEach _ _).notices

/-! ### Faults -/

theorem onFault (h : s.NoticesOk) : (Machine.onFault e i s).NoticesOk := by
  unfold Machine.onFault
  split
  · exact h
  rename_i l hl
  have dropped := (h.live hl).dropUser (some e)
  have plain : (if l.runsFrom e then (s.dropUser (some e)).failLease i l else s).NoticesOk := by
    split
    · exact (dropped.background _ _).notices
    · exact h
  split
  · split
    · exact (dropped.setLease).notices.closeIfQuiet i
    · exact h
  · split
    · exact h
    split
    · exact (dropped.targetFault).notices
    split
    · split
      · exact (dropped.sourceFault _).notices
      · exact (dropped.background _ _).notices
      · exact (dropped.background _ _).notices
    · exact h
  iterate 5 exact plain
  exact h

theorem declareFault (h : s.NoticesOk) (r : FaultReason) : (s.declareFault e r).NoticesOk :=
  (forEach_keeps (P := State.NoticesOk) (Machine.onFault e) (fun i _ hu => hu.onFault e i) allSlots
    ((h.setEngine e _).forceQuietTied e)).deviceNotices _

/-! ### Completions -/

theorem onCompletion (h : s.NoticesOk) : (Machine.onCompletion i s).NoticesOk := by
  unfold Machine.onCompletion
  split
  · exact h
  rename_i l hl
  have live := h.live hl
  split
  · split
    · exact (live.background _ _).notices
    · exact h
  · split
    · exact (live.background _ _).notices
    · exact h
  · exact (live.settle false).notices
  · exact h.closeIfQuiet i
  all_goals exact h

end lease

/-! ### The events of the pool and of the outputs -/

section events

variable (e : EngineId)

theorem lockAchieved (h : s.NoticesOk) : (s.lockAchieved e).NoticesOk := by
  unfold State.lockAchieved
  split
  · exact forEach_keeps (P := State.NoticesOk) (Machine.onLocked e) (fun i _ hu => hu.onLocked e i) allSlots
      (h.setEngine e _)
  · exact h

theorem lockLost (h : s.NoticesOk) : (s.lockLost e).NoticesOk := by
  unfold State.lockLost
  split
  · exact forEach_keeps (P := State.NoticesOk) (Machine.onSlip e) (fun i _ hu => hu.onSlip e i) allSlots
      (h.setEngine e _)
  · exact h.setEngine e _
  all_goals exact h

theorem acquisitionExpiry (h : s.NoticesOk) : (s.acquisitionExpiry e).NoticesOk := by
  unfold State.acquisitionExpiry
  split
  · exact h.declareFault e _
  · exact h

theorem holdoverLimitReached (h : s.NoticesOk) : (s.holdoverLimitReached e).NoticesOk := by
  unfold State.holdoverLimitReached
  split
  · exact h.declareFault e _
  · exact h

theorem lingerExpiry (h : s.NoticesOk) : (s.lingerExpiry e).NoticesOk := by
  unfold State.lingerExpiry
  split
  · exact h.setEngine e _
  · exact h

theorem changeoverDone (h : s.NoticesOk) (o : OutputId) : (s.changeoverDone o).NoticesOk := by
  have completed : (s.completed o).NoticesOk := h.setOutput o _
  unfold State.changeoverDone State.reportCompletion
  split
  · split
    · exact completed.onCompletion _
    · exact completed
  · exact h

theorem tick (h : s.NoticesOk) : s.tick.NoticesOk := by
  unfold State.tick
  split
  · refine of_ledger (s := forEach allEngines _ s) ?_ (fun _ => rfl) fun q => by cases q <;> rfl
    exact forEach_keeps (P := State.NoticesOk) _ (fun e _ hu => hu.setEngine e _) allEngines h
  · exact h

end events

/-! ### The selection and the configuration -/

theorem announceSelection (h : s.NoticesOk) : s.announceSelection.NoticesOk := by
  unfold State.announceSelection
  refine forEach_keeps (P := State.NoticesOk) _ (fun e u hu => ?_) allEngines
    (forEach_keeps (P := State.NoticesOk) _ (fun e _ hu => hu.setEngine e _) allEngines h)
  split
  · exact forEach_keeps (P := State.NoticesOk) (Machine.onHoldover e) (fun i _ hv => hv.onHoldover e i) allSlots hu
  · exact hu

theorem reevaluate (h : s.NoticesOk) : s.reevaluate.NoticesOk := by
  have selected : ({ s with selection := s.chosen } : State).NoticesOk :=
    h.of_ledger (fun _ => rfl) fun q => by cases q <;> rfl
  unfold State.reevaluate
  dsimp only
  split
  · exact h
  · exact selected.announceSelection.deviceNotices _

theorem raiseRefInput (h : s.NoticesOk) (r : RefInput) : (s.raiseRefInput r).NoticesOk := by
  cases r with
  | refA => exact h.deviceNotices _
  | refB => exact h.deviceNotices _

theorem updateInput (h : s.NoticesOk) (r : RefInput) (x : InputRec) : (s.updateInput r x).NoticesOk := by
  unfold State.updateInput
  split
  · exact h.setInput r x
  · exact ((h.setInput r x).raiseRefInput r).reevaluate

theorem retrialInput (h : s.NoticesOk) (r : RefInput) : (s.retrialInput r).NoticesOk := by
  unfold State.retrialInput
  dsimp only
  split
  · exact h.setInput r _
  · exact (h.setInput r _).raiseRefInput r

theorem checkHoldovers (h : s.NoticesOk) : s.checkHoldovers.NoticesOk :=
  forEach_keeps (P := State.NoticesOk) _ (fun e _ hu => by
    split
    · exact hu.declareFault e _
    · exact hu) allEngines h

theorem configure (h : s.NoticesOk) (ws : List ParamWrite) : (s.configure ws).NoticesOk := by
  have written : ({ s with params := ws.foldl Params.write s.params } : State).NoticesOk :=
    h.of_ledger (fun _ => rfl) fun q => by cases q <;> rfl
  unfold State.configure
  generalize ({ s with params := ws.foldl Params.write s.params } : State) = t at written ⊢
  have retried : (if t.params.nominal = s.params.nominal then t else t.nominalChanged).NoticesOk := by
    split
    · exact written
    · exact ((written.retrialInput .refA).retrialInput .refB).reevaluate
  dsimp only
  generalize (if t.params.nominal = s.params.nominal then t else t.nominalChanged) = u at retried ⊢
  have selected : (if t.params.mode = s.params.mode && t.params.priority = s.params.priority then u
      else u.reevaluate).NoticesOk := by
    split
    · exact retried
    · exact retried.reevaluate
  split
  · exact selected.checkHoldovers
  · exact selected

/-! ### The reference monitor -/

section inputs

variable (r : RefInput)

theorem activityStart (h : s.NoticesOk) : (s.activityStart r).NoticesOk := by
  unfold State.activityStart
  split
  · exact h.updateInput r _
  · exact h

theorem activityLoss (h : s.NoticesOk) : (s.activityLoss r).NoticesOk := by
  unfold State.activityLoss
  split
  · exact h.updateInput r _
  · exact h

theorem measurement (h : s.NoticesOk) (n : Nat) : (s.measurement r n).NoticesOk := by
  unfold State.measurement
  split
  · exact h.updateInput r _
  · exact h

theorem qualificationExpiry (h : s.NoticesOk) : (s.qualificationExpiry r).NoticesOk := by
  unfold State.qualificationExpiry
  split
  · exact h.updateInput r _
  · exact h

end inputs

end State.NoticesOk

end Sys2Proof.Machine

/-! ## What NOTICES clears (R2, R163)

A NOTICES frees the slots whose closed entry it reported, empties the set of its port and, on the supervisor port, the
device notices; it writes nothing else. -/

namespace Sys2Proof.Machine

/-- A slot that is freed if it is RETIRED, under its next generation (R2). -/
def Slot.released (x : Slot) : Slot :=
  match x.standing with
  | .retired _ => ⟨x.gen + 1, .free⟩
  | .free => x
  | .live _ => x

theorem Slot.released_retired {x : Slot} {p : Port} (h : x.standing = .retired p) :
    x.released = ⟨x.gen + 1, .free⟩ := by
  rw [Slot.released, h]

theorem Slot.released_free {x : Slot} (h : x.standing = .free) : x.released = x := by rw [Slot.released, h]

theorem Slot.released_live {x : Slot} {l : Lease} (h : x.standing = .live l) : x.released = x := by
  rw [Slot.released, h]

theorem State.freeRetired_slot (s : State) (i j : SlotId) :
    (s.freeRetired i).slot j = if j = i then (s.slot i).released else s.slot j := by
  unfold State.freeRetired Slot.released
  cases (s.slot i).standing with
  | retired => exact s.slot_setSlot i j _
  | free => split <;> simp_all
  | live => split <;> simp_all

section clear

variable (s : State) (p : Port)

/-- The loop of a NOTICES over the slots frees those whose entry is closed. -/
theorem State.freeReported_slot (i : SlotId) :
    (forEach allSlots (fun j u => if s.noticeClosed p j then u.freeRetired j else u) s).slot i =
      if s.noticeClosed p i then (s.slot i).released else s.slot i := by
  have reported : forEach allSlots (fun j u => if s.noticeClosed p j then u.freeRetired j else u) s =
      forEach (allSlots.filter (s.noticeClosed p)) State.freeRetired s := List.foldl_filter.symm
  rw [reported, forEach_slot_map (fun j u k => u.freeRetired_slot j k) (allSlots_nodup.filter _)]
  simp [mem_allSlots]

/-- A NOTICES writes the slots, the lease notices of its port and, on the supervisor port, the device notices. -/
theorem State.clearNotices_eq : s.clearNotices p = { s.setPort p (s.port p).emptied with
    slots := (forEach allSlots (fun j u => if s.noticeClosed p j then u.freeRetired j else u) s).slots,
    deviceNotices := if s.supervisor = p then DeviceNotices.initial else s.deviceNotices } := by
  obtain ⟨v, hv⟩ := forEach_freeSome_eq (fun _ j => s.noticeClosed p j) allSlots s
  unfold State.clearNotices
  rw [hv]
  dsimp only
  split <;> cases p <;> rfl

theorem State.clearNotices_slot (i : SlotId) :
    (s.clearNotices p).slot i = if s.noticeClosed p i then (s.slot i).released else s.slot i := by
  rw [← s.freeReported_slot p i, State.slot, s.clearNotices_eq]
  rfl

theorem State.clearNotices_port (q : Port) :
    (s.clearNotices p).port q = if q = p then (s.port p).emptied else s.port q := by
  rw [s.clearNotices_eq, ← State.port_setPort]
  cases q <;> rfl

@[simp] theorem PortState.emptied_notices (x : PortState) (i : SlotId) : x.emptied.notices[i] = none := by
  simp [PortState.emptied]

end clear

end Sys2Proof.Machine

/-! ## The lease notices through frames, NOTICES, resets and every step -/

namespace Sys2Proof.Machine

theorem port_eq_or_other (p q : Port) : q = p ∨ q = p.other := by cases p <;> cases q <;> simp [Port.other]

/-! ### The notices of a port whose frame is judged -/

theorem PortState.judgeCommand_notices (rest : List Byte) (x : PortState) :
    (x.judgeCommand rest).notices = x.notices := by
  have accepted (c : HeldCommand) : (x.acceptCommand c).notices = x.notices := by
    unfold PortState.acceptCommand
    split
    · rfl
    · rfl
    split
    · split
      · split <;> rfl
      · rfl
    · rfl
  unfold PortState.judgeCommand
  split
  · split
    · rfl
    split
    · rfl
    dsimp only
    split
    · exact accepted _
    · rfl
  · rfl

theorem PortState.fetchEnd_notices (f : Frame) (n : Nat) (x : PortState) : (x.fetchEnd f n).notices = x.notices := by
  unfold PortState.fetchEnd
  split
  · split <;> rfl
  · rfl

namespace State.NoticesOk

variable {s : State}

/-! ### Sets that are emptied -/

/-- The notices of port `p` are emptied, the slots RETIRED there are freed, and no other slot changes (R155, R163). -/
theorem of_emptied {t : State} {p : Port} (h : s.NoticesOk)
    (freed : ∀ i, t.slot i = if (s.slot i).standing = .retired p then ⟨(s.slot i).gen + 1, .free⟩ else s.slot i)
    (emptied : ∀ i : SlotId, (t.port p).notices[i] = none) (other : t.port p.other = s.port p.other) :
    t.NoticesOk := State.noticesOk_iff.2 fun i => by
  have noted := State.noticesOk_iff.1 h i
  have entry {q : Port} {n : Notice} (hn : (t.port q).notices[i] = some n) :
      q = p.other ∧ (s.port q).notices[i] = some n := by
    obtain rfl | rfl := port_eq_or_other p q
    · exact nomatch (emptied i).symm.trans hn
    · exact ⟨rfl, other ▸ hn⟩
  by_cases retired : (s.slot i).standing = .retired p
  · have slot := (freed i).trans (if_pos retired)
    refine (State.notedAt_free_iff (by rw [slot])).2 fun q => ?_
    cases hn : (t.port q).notices[i] with
    | none => rfl
    | some n =>
      obtain ⟨away, hs⟩ := entry hn
      exact absurd (away.symm.trans (((State.notedAt_retired_iff retired).1 noted).2 q n hs).2) (port_other_ne p)
  · have slot := (freed i).trans (if_neg retired)
    refine ⟨fun q n hn => ?_, fun q hq => ?_⟩
    · obtain ⟨count, gen, live, closed⟩ := noted.entries q n (entry hn).2
      exact ⟨count, slot ▸ gen, by rwa [State.lease?, slot], slot ▸ closed⟩
    · rw [slot] at hq
      obtain rfl | rfl := port_eq_or_other p q
      · exact absurd hq retired
      · rw [other]
        exact noted.retired _ hq

theorem portResync (h : s.NoticesOk) (p : Port) : (s.portResync p).NoticesOk := by
  obtain ⟨v, hv⟩ := s.portResync_eq p
  refine h.of_emptied (s.portResync_slot p) (fun i => ?_) ?_ <;> rw [hv]
  · cases p <;> simp [State.port, State.setPort]
  · cases p <;> rfl

/-- A closed entry is one of a slot RETIRED at its port, and every such slot has one: the slots that a NOTICES frees. -/
theorem noticeClosed_iff (h : s.NoticesOk) {p : Port} {i : SlotId} :
    s.noticeClosed p i = true ↔ (s.slot i).standing = .retired p := by
  rw [State.noticeClosed, Option.any_eq_true]
  constructor
  · rintro ⟨n, hn, hc⟩
    exact (h.entries p i n hn).closed hc
  · exact h.retired p i

theorem clearNotices (h : s.NoticesOk) (p : Port) : (s.clearNotices p).NoticesOk := by
  refine h.of_emptied (p := p) (fun i => ?_) (fun i => ?_) ?_
  · rw [State.clearNotices_slot]
    simp only [h.noticeClosed_iff]
    split
    · exact Slot.released_retired ‹_›
    · rfl
  · rw [State.clearNotices_port, if_pos rfl, PortState.emptied_notices]
  · rw [State.clearNotices_port, if_neg (port_other_ne p)]

/-- A part without a lease, a RETIRED slot or an entry (R4, R167, R174). -/
theorem of_free (slots : ∀ i, (s.slot i).standing = .free)
    (notices : ∀ p (i : SlotId), (s.port p).notices[i] = none) : s.NoticesOk :=
  State.noticesOk_iff.2 fun i => (State.notedAt_free_iff (slots i)).2 fun p => notices p i

/-! ### Frames and clients -/

section ports

variable (p : Port)

theorem judgeResync (h : s.NoticesOk) (rest : List Byte) : (s.judgeResync p rest).NoticesOk := by
  unfold State.judgeResync
  split
  · exact h.setPort p
  split
  · exact h.portResync p
  · exact h.setPort p

theorem judge (h : s.NoticesOk) (f : Frame) (kind : Byte) (rest : List Byte) :
    (s.judge p f kind rest).NoticesOk := by
  unfold State.judge
  split
  · exact h.setPort p
  split
  · exact h.setPort p
  split
  · exact h.setPort p (PortState.judgeCommand_notices rest _)
  split
  · exact h.setPort p (PortState.fetchEnd_notices f _ _)
  split
  · exact h.judgeResync p rest
  · exact h.setPort p

theorem endFrame (h : s.NoticesOk) (x : ShiftedIn) : (s.endFrame p x).NoticesOk := by
  unfold State.endFrame
  split
  · split
    · exact (h.setPort p).judge p _ _ _
    · exact h.setPort p
  · exact h

theorem chipSelectFall (h : s.NoticesOk) : (s.chipSelectFall p).NoticesOk := by
  unfold State.chipSelectFall
  split
  · exact h
  · exact h.setPort p

theorem setMask (h : s.NoticesOk) (m : Option Byte) : (s.setMask p m).NoticesOk := by
  cases m with
  | none => exact h
  | some _ => exact h.setPort p

theorem setClients (h : s.NoticesOk) (a : ClientArgs) : (s.setClients a).NoticesOk :=
  forEach_keeps (P := State.NoticesOk) State.setQuota
    (fun _ _ hu => hu.of_ledger (fun _ => rfl) fun q => by cases q <;> rfl) a.quotas
    ((h.setMask .A a.maskA).setMask .B a.maskB)

theorem afterFind (h : s.NoticesOk) (o : OutputId) : (s.afterFind o).NoticesOk := by
  unfold State.afterFind
  split
  · exact h.of_ledger (fun _ => rfl) fun q => by cases q <;> rfl
  · exact h

end ports

/-! ### Resets -/

theorem coldReset (s : State) : s.coldReset.NoticesOk :=
  of_free (fun i => by rw [State.coldReset_dormant s |>.slots]; rfl) fun p i => by
    cases p <;> simp [State.coldReset, State.port, PortState.cold, PortState.initial]

theorem leaseReset (s : State) : s.leaseReset.NoticesOk :=
  of_free (fun i => by rw [s.leaseReset_slot, Slot.freed_standing]) fun p i => by
    rw [s.leaseReset_eq]
    cases p <;> exact PortState.emptied_notices _ i

theorem deviceReset (s : State) (p : Port) : (s.deviceReset p).NoticesOk := by
  unfold State.deviceReset
  have reset := leaseReset s
  generalize s.leaseReset = t at reset ⊢
  refine setPort ?_ p.other
  exact of_ledger reset (fun _ => rfl) fun q => by cases q <;> rfl

theorem pinReset (h : s.NoticesOk) : s.pinReset.NoticesOk := by
  unfold State.pinReset
  split
  · exact h
  · exact (coldReset s).of_ledger (fun _ => rfl) fun q => by cases q <;> rfl

theorem sampleSupsel (h : s.NoticesOk) (v : Level) : (s.sampleSupsel v).NoticesOk :=
  h.of_ledger (fun _ => rfl) fun q => by cases q <;> rfl

theorem pinRelease (h : s.NoticesOk) (v : Level) : (s.pinRelease v).NoticesOk := by
  unfold State.pinRelease
  split
  · exact (h.sampleSupsel v).of_ledger (fun _ => rfl) fun q => by cases q <;> rfl
  · exact h

theorem oscillatorStable (h : s.NoticesOk) : s.oscillatorStable.NoticesOk := by
  unfold State.oscillatorStable
  split
  · exact h
  · exact h.of_ledger (fun _ => rfl) fun q => by cases q <;> rfl

end State.NoticesOk

/-! ### The accepted commands -/

/-- Every accepted run keeps the agreement of the notices with the lease table. -/
def KeepsNotices (run : Port → HeldCommand → State → Except Denial Reply) : Prop :=
  ∀ p c s r, run p c s = .ok r → s.NoticesOk → r.state.NoticesOk

section runs

/-- A lease is written into a FREE slot, which has no entry (R30). -/
theorem State.NoticesOk.openAccepted {s : State} (h : s.NoticesOk) (p : Port) {c : ClientId} {a : OpenArgs}
    {cs : List EngineClass} {i : SlotId} {e : EngineId} (hi : (s.slot i).standing = .free) :
    (s.openAccepted p c a cs i e).NoticesOk := by
  have committed := h.commit (a.request cs) e
  have free : ((s.commit (a.request cs) e).slot i).standing = .free := hi
  have empty := (State.notedAt_free_iff free).1 (State.noticesOk_iff.1 committed i)
  have opened : ((s.commit (a.request cs) e).setLease i (a.lease c p e)).NoticesOk :=
    committed.of_slot (fun j hj => by rw [State.slot_setLease, if_neg hj]) (fun _ _ _ => by simp) <|
      (State.notedAt_live_iff (State.lease_setLease_same _ i _)).2 fun q n hn => by
        rw [State.port_setLease] at hn
        exact nomatch (empty q).symm.trans hn
  exact (((opened.live (State.lease_setLease_same _ i _)).setHolders _ _).enter).notices

theorem State.NoticesOk.startOne {s : State} (h : s.NoticesOk) (p : Port) (i : SlotId) :
    (s.startOne p i).NoticesOk := by
  cases hl : s.lease? i with
  | none => rwa [State.startOne, hl]
  | some l => exact ((h.live hl).startOne p).notices

theorem State.NoticesOk.retuneCase {s : State} (h : s.NoticesOk) {told : Bool} {i : SlotId} {l : Lease}
    {q : RetuneRequest} {r : Reply} (hl : s.lease? i = some l) (hr : s.retuneCase told i l q = .ok r) :
    r.state.NoticesOk := by
  have live := h.live hl
  have gap (e : EngineId) (st : Status) (hg : s.gapOrRefuse told i l q e st = .ok r) : r.state.NoticesOk :=
    of_bind hg fun _ k => by
      rw [← Except.ok.inj k, retuneReply_state]
      exact (live.retuneGap told q e).notices
  unfold State.retuneCase at hr
  split at hr
  · rwa [← Except.ok.inj hr, retuneReply_state]
  split at hr
  · split at hr
    · rw [← Except.ok.inj hr, retuneReply_state]
      exact (live.setLease.tell told).notices
    · exact of_bind hr fun e k => by
        rw [← Except.ok.inj k, retuneReply_state]
        exact (live.rebind told q e).notices
  split at hr
  · cases hr
  rename_i e _
  split at hr
  · rw [← Except.ok.inj hr, retuneReply_state]
    exact (live.retuneLocal told q e).notices
  unfold State.moveOff at hr
  split at hr
  · exact gap e _ hr
  split at hr
  · rename_i g _
    rw [← Except.ok.inj hr, retuneReply_state]
    exact (live.retuneOverlap told q g).notices
  · exact gap e _ hr
  · cases hr

theorem runOpen_keepsNotices : KeepsNotices runOpen := fun p c s r hr h => by
  obtain ⟨a, cs, i, e, hc, hk⟩ := runOpen_ok hr
  have free : (s.slot i).standing = .free := by simpa using List.find?_some hc.slot
  exact hk ▸ h.openAccepted p free

theorem runStart_keepsNotices : KeepsNotices runStart := fun p c s r hr h => by
  obtain ⟨is, -, hk⟩ := runStart_ok hr
  exact hk ▸ forEach_keeps (P := State.NoticesOk) (State.startOne p) (fun i _ hu => hu.startOne p i) is h

theorem runRetune_keepsNotices : KeepsNotices runRetune := fun p c s r hr h => by
  obtain ⟨told, i, l, q, hf, -, hk⟩ := runRetune_ok hr
  exact h.retuneCase hf.lease hk

theorem runRelease_keepsNotices : KeepsNotices runRelease := fun p c s r hr h => by
  obtain ⟨told, i, l, hl, -, hk⟩ := runRelease_ok hr
  exact hk ▸ h.endLease i hl told _

theorem runRevoke_keepsNotices : KeepsNotices runRevoke := fun p c s r hr h => by
  obtain ⟨i, l, hl, -, hk⟩ := runRevoke_ok hr
  exact hk ▸ h.endLease i hl false _

theorem runRetry_keepsNotices : KeepsNotices runRetry := fun p c s r hr h => by
  obtain ⟨told, i, l, q, cls, pin, es, e, hc, hk⟩ := runRetry_ok hr
  exact hk ▸ ((((h.live hc.lease).commit q e).setLease).enter.tell told).notices

theorem runQueryLease_keepsNotices : KeepsNotices runQueryLease := fun _ _ _ _ hr h =>
  of_bind hr fun _ k => of_bind k fun _ k => by cases k; exact h

theorem runLookupTag_keepsNotices : KeepsNotices runLookupTag := fun _ _ _ _ hr h =>
  of_bind hr fun _ k => by split at k <;> cases k <;> exact h

theorem runListClient_keepsNotices : KeepsNotices runListClient := fun _ _ _ _ hr h =>
  of_bind hr fun _ k => of_bind k fun _ k => by cases k; exact h

theorem runFindOutput_keepsNotices : KeepsNotices runFindOutput := fun _ _ _ _ hr h =>
  of_bind hr fun o k => by cases k; exact h.afterFind o

theorem runQueryEngine_keepsNotices : KeepsNotices runQueryEngine := fun _ _ _ _ hr h =>
  of_bind hr fun _ k => by cases k; exact h

theorem runQueryReference_keepsNotices : KeepsNotices runQueryReference := fun _ _ _ _ hr h =>
  of_bind hr fun _ k => by cases k; exact h

theorem runNotices_keepsNotices : KeepsNotices runNotices := fun p _ _ _ hr h =>
  of_bind hr fun _ k => by rw [← Except.ok.inj k]; exact h.clearNotices p

theorem runSetIrq_keepsNotices : KeepsNotices runSetIrq := fun p _ _ _ hr h =>
  of_bind hr fun _ k => by cases k; exact h.setPort p

theorem runReadConfig_keepsNotices : KeepsNotices runReadConfig := fun _ _ _ _ hr h =>
  of_bind hr fun _ k => by cases k; exact h

theorem runConfigure_keepsNotices : KeepsNotices runConfigure := fun _ _ _ _ hr h => by
  obtain ⟨ws, hk⟩ := runConfigure_ok hr
  exact hk ▸ h.configure ws

theorem runSetClients_keepsNotices : KeepsNotices runSetClients := fun _ _ _ _ hr h =>
  of_bind hr fun _ k => of_bind k fun a k => by cases k; exact h.setClients a

theorem runHandover_keepsNotices : KeepsNotices runHandover := fun _ _ _ _ hr h =>
  of_bind hr fun _ k => of_bind k fun _ k => by
    cases k
    exact h.of_ledger (fun _ => rfl) fun q => by cases q <;> rfl

theorem runSoftReset_keepsNotices : KeepsNotices runSoftReset := fun p _ s _ hr _ => by
  rcases runSoftReset_ok hr with hk | hk <;> rw [hk]
  · exact .deviceReset s p
  · exact .leaseReset s

theorem runEngineClear_keepsNotices : KeepsNotices runEngineClear := fun _ _ _ _ hr h => by
  obtain ⟨e, -, hk⟩ := runEngineClear_ok hr
  exact hk ▸ h.setEngine e _

theorem runUnknownCode_keepsNotices : KeepsNotices runUnknownCode := fun _ _ _ _ hr => nomatch hr

end runs

/-! ### Every command, and every step -/

namespace State.NoticesOk

variable {s : State}

theorem event {f : State → State} (hf : ∀ u, u.NoticesOk → (f u).NoticesOk) (h : s.NoticesOk) :
    (Machine.event f s).NoticesOk :=
  (hf _ (h.unmarked [])).unmarked []

/-- A taking keeps the agreement where every accepted run of its command does: a refusal writes one exchange alone. -/
theorem taking {mine : HeldCommand → Bool} {run : Port → HeldCommand → State → Except Denial Reply}
    (hr : KeepsNotices run) (h : s.NoticesOk) : (Machine.event (State.take mine run) s).NoticesOk := by
  refine h.event fun s h => ?_
  unfold State.take
  split
  · exact h
  rename_i p c _
  split
  swap
  · exact h
  have taken : (s.afterTaking p).NoticesOk :=
    (h.setPort p (x := { s.port p with exchange := .empty })).of_ledger (fun _ => rfl) fun q => by cases q <;> rfl
  unfold State.respond
  split
  · split
    · rename_i r hrun
      exact (hr p c _ r hrun taken).setPort p
    · exact taken.setPort p
  · exact taken.setPort p

theorem exec (i : Instr) (h : s.NoticesOk) : ∃ t, Machine.exec i s = .next t ∧ t.NoticesOk := by
  cases i with
  | powerOnReset v => exact ⟨_, rfl, h.event fun u _ => (coldReset u).sampleSupsel v⟩
  | pinResetAssert => exact ⟨_, rfl, h.event fun _ hu => hu.pinReset⟩
  | pinResetRelease v => exact ⟨_, rfl, h.event fun _ hu => hu.pinRelease v⟩
  | oscillatorStable => exact ⟨_, rfl, h.event fun _ hu => hu.oscillatorStable⟩
  | nop p rest => exact ⟨_, rfl, h.event fun _ hu => hu.endFrame p _⟩
  | commandFrame p rest => exact ⟨_, rfl, h.event fun _ hu => hu.endFrame p _⟩
  | fetch p rest => exact ⟨_, rfl, h.event fun _ hu => hu.endFrame p _⟩
  | resync p rest => exact ⟨_, rfl, h.event fun _ hu => hu.endFrame p _⟩
  | unknownFrameKind p bytes => exact ⟨_, rfl, h.event fun _ hu => hu.endFrame p _⟩
  | chipSelectFall p => exact ⟨_, rfl, h.event fun _ hu => hu.chipSelectFall p⟩
  | openLease => exact ⟨_, rfl, h.taking runOpen_keepsNotices⟩
  | start => exact ⟨_, rfl, h.taking runStart_keepsNotices⟩
  | retune => exact ⟨_, rfl, h.taking runRetune_keepsNotices⟩
  | release => exact ⟨_, rfl, h.taking runRelease_keepsNotices⟩
  | revoke => exact ⟨_, rfl, h.taking runRevoke_keepsNotices⟩
  | retry => exact ⟨_, rfl, h.taking runRetry_keepsNotices⟩
  | queryLease => exact ⟨_, rfl, h.taking runQueryLease_keepsNotices⟩
  | lookupTag => exact ⟨_, rfl, h.taking runLookupTag_keepsNotices⟩
  | listClient => exact ⟨_, rfl, h.taking runListClient_keepsNotices⟩
  | findOutput => exact ⟨_, rfl, h.taking runFindOutput_keepsNotices⟩
  | queryEngine => exact ⟨_, rfl, h.taking runQueryEngine_keepsNotices⟩
  | queryReference => exact ⟨_, rfl, h.taking runQueryReference_keepsNotices⟩
  | notices => exact ⟨_, rfl, h.taking runNotices_keepsNotices⟩
  | setIrq => exact ⟨_, rfl, h.taking runSetIrq_keepsNotices⟩
  | readConfig => exact ⟨_, rfl, h.taking runReadConfig_keepsNotices⟩
  | configure => exact ⟨_, rfl, h.taking runConfigure_keepsNotices⟩
  | setClients => exact ⟨_, rfl, h.taking runSetClients_keepsNotices⟩
  | handover => exact ⟨_, rfl, h.taking runHandover_keepsNotices⟩
  | softResetLeases => exact ⟨_, rfl, h.taking runSoftReset_keepsNotices⟩
  | softResetDevice => exact ⟨_, rfl, h.taking runSoftReset_keepsNotices⟩
  | engineClear => exact ⟨_, rfl, h.taking runEngineClear_keepsNotices⟩
  | unknownCommandCode => exact ⟨_, rfl, h.taking runUnknownCode_keepsNotices⟩
  | lockAchieved e => exact ⟨_, rfl, h.event fun _ hu => hu.lockAchieved e⟩
  | lockLost e => exact ⟨_, rfl, h.event fun _ hu => hu.lockLost e⟩
  | acquisitionTimerExpiry e => exact ⟨_, rfl, h.event fun _ hu => hu.acquisitionExpiry e⟩
  | holdoverTimerLimit e => exact ⟨_, rfl, h.event fun _ hu => hu.holdoverLimitReached e⟩
  | lingerTimerExpiry e => exact ⟨_, rfl, h.event fun _ hu => hu.lingerExpiry e⟩
  | changeoverDone o => exact ⟨_, rfl, h.event fun _ hu => hu.changeoverDone o⟩
  | activityStart r => exact ⟨_, rfl, h.event fun _ hu => hu.activityStart r⟩
  | activityLoss r => exact ⟨_, rfl, h.event fun _ hu => hu.activityLoss r⟩
  | measurement r n => exact ⟨_, rfl, h.event fun _ hu => hu.measurement r n⟩
  | qualificationTimerExpiry r => exact ⟨_, rfl, h.event fun _ hu => hu.qualificationExpiry r⟩

end State.NoticesOk

/-- Settles O55: a raise and a freeing keep the entry of their slot right, an emptied set frees the slots RETIRED at its
port, and nothing else writes a home port, a generation or a notice. -/
theorem stepKeepsNoticesOk : Obligations.StepKeepsNoticesOk := by
  intro s t h hst
  unfold step at hst
  split at hst
  · cases hst
    exact h.tick
  · rename_i c rest _
    have waiting : ({ s with pending := rest } : State).NoticesOk :=
      h.of_ledger (fun _ => rfl) fun q => by cases q <;> rfl
    obtain ⟨u, hu, hk⟩ := waiting.exec c
    rw [hu] at hst
    cases hst
    exact hk

end Sys2Proof.Machine

/-! ## NOTICES: its report and its taking (R163, R183) -/

namespace Sys2Proof.Machine

/-! ### The report -/

theorem bitAt_four (b : Bool) : bitAt 4 b = if b then 0x10#8 else 0x00#8 := by cases b <;> rfl

/-- The slots of a report stand in ascending order (R158). -/
theorem PortState.noticeList_ascending (x : PortState) : (x.noticeList.map Prod.fst).Pairwise (· < ·) := by
  rw [List.pairwise_map, PortState.noticeList, List.pairwise_filterMap]
  refine (List.pairwise_lt_finRange 24).imp fun {i j} hij a ha b hb => ?_
  obtain ⟨n, -, rfl⟩ := Option.map_eq_some_iff.1 ha
  obtain ⟨m, -, rfl⟩ := Option.map_eq_some_iff.1 hb
  exact hij

theorem PortState.mem_noticeList {x : PortState} {i : SlotId} {n : Notice} :
    (i, n) ∈ x.noticeList ↔ x.notices[i] = some n := by
  simp [PortState.noticeList, List.mem_filterMap, mem_allSlots]

/-- Six bits side by side are the sum of their weights. -/
theorem six_bits_eq : ∀ b0 b1 b2 b3 b4 b5 : Bool,
    bitAt 0 b0 ||| bitAt 1 b1 ||| bitAt 2 b2 ||| bitAt 3 b3 ||| bitAt 4 b4 ||| bitAt 5 b5 =
      byte [if b0 = true then 2 ^ 0 else 0, if b1 = true then 2 ^ 1 else 0, if b2 = true then 2 ^ 2 else 0,
        if b3 = true then 2 ^ 3 else 0, if b4 = true then 2 ^ 4 else 0, if b5 = true then 2 ^ 5 else 0].sum := by
  decide

/-- The engines of ENGINE_FAULT as one byte, a bit for each (R162, R183). -/
theorem DeviceNotices.engineBits_eq (d : DeviceNotices) :
    bitAt 0 d.engines[0] ||| bitAt 1 d.engines[1] ||| bitAt 2 d.engines[2] ||| bitAt 3 d.engines[3] |||
        bitAt 4 d.engines[4] ||| bitAt 5 d.engines[5] =
      byte ((List.finRange 6).map fun e : EngineId => if d.engines[e] = true then 2 ^ e.1 else 0).sum :=
  six_bits_eq _ _ _ _ _ _

section report

variable (s : State) (p : Port)

theorem State.noticeBytes_eq (x : SlotId × Notice) : s.noticeBytes x =
    [byte x.1.1, x.2.gen, byte x.2.count, x.2.reason.code,
      if x.2.closed then 0x09#8 else ((s.lease? x.1).map fun l => l.state.code).getD 0x09#8] := by
  unfold State.noticeBytes
  cases s.lease? x.1 <;> rfl

/-- The device part of a report, bit by bit (R183). -/
theorem State.deviceBytes_eq : s.deviceBytes p =
    if s.supervisor = p then
      [0x80#8 ||| (if s.deviceNotices.refInputA then 0x01#8 else 0x00#8) |||
        (if s.deviceNotices.refInputB then 0x02#8 else 0x00#8) |||
        (if s.deviceNotices.refSelection then 0x04#8 else 0x00#8) |||
        (if s.deviceNotices.engineFault then 0x08#8 else 0x00#8) |||
        (if s.deviceNotices.supervisorArrived then 0x10#8 else 0x00#8),
      byte ((List.finRange 6).map fun e : EngineId => if s.deviceNotices.engines[e] = true then 2 ^ e.1 else 0).sum]
    else [0x00#8, 0x00#8] := by
  unfold State.deviceBytes
  dsimp only
  rw [DeviceNotices.engineBits_eq, bitAt_zero, bitAt_one, bitAt_two, bitAt_three, bitAt_four, bitAt_seven]
  rfl

@[simp] theorem State.seen_noticesBytes : (s.seen p).noticesBytes p = s.noticesBytes p := by cases p <;> rfl

end report

/-! ### The taking -/

section taking

variable {s : State} {p : Port} {c : HeldCommand}

/-- The closed entries that a NOTICES reports are those before its taking. -/
theorem State.seen_noticeClosed (i : SlotId) : (s.seen p).noticeClosed p i = s.noticeClosed p i := by
  rw [State.noticeClosed, State.seen_notices, State.noticeClosed]

/-- A NOTICES with an empty body reports, and clears what it reported. -/
theorem exec_notices (takes : s.Takes p c) (code : c.code = codeNotices) (body : c.body = []) :
    exec .notices s = .next (((s.seen p).clearNotices p).answered p c .ok (s.noticesBytes p)) := by
  have run : runNotices p c (s.seen p) = .ok (replyOk ((s.seen p).clearNotices p) (s.noticesBytes p)) := by
    rw [runNotices, bodyOf_ok (x := ()) (by rw [body]; rfl), ok_bind, State.seen_noticesBytes]
    rfl
  exact congrArg _ (takeCode_answered takes code run rfl
    ((State.clearNotices_lastServed _ p).trans (s.seen_lastServed p)))

end taking

/-- Settles O13: the report is the list of the port's entries, and each slot is freed by its own closed entry alone. -/
theorem noticesReportAndClear : Obligations.NoticesReportAndClear := by
  intro s p c takes code body
  refine ⟨⟨(s.port p).noticeList, PortState.noticeList_ascending _, fun i n => PortState.mem_noticeList, ?_⟩,
    _, exec_notices takes code body, ?_, ?_, ?_, ?_, fun i => ?_⟩
  · rw [State.noticesBytes, funext s.noticeBytes_eq, State.deviceBytes_eq]
  · rw [State.clearNotices_eq]
    cases p <;> rfl
  · rw [State.answered_port, State.answered_port, if_pos rfl, if_pos rfl, State.clearNotices_port, if_pos rfl]
    cases p <;> rfl
  · rw [State.answered_port, if_neg (port_other_ne p), State.clearNotices_port, if_neg (port_other_ne p),
      State.seen_port, if_neg (port_other_ne p)]
  · rw [State.answered_deviceNotices, State.clearNotices_eq]
    cases p <;> rfl
  · rw [State.answered_slot, State.clearNotices_slot, State.seen_noticeClosed, State.seen_slot, State.noticeClosed]
    cases standing : (s.slot i).standing with
    | retired q =>
      rw [Slot.released_retired standing]
      cases (s.port p).notices[i] <;> rfl
    | free => rw [Slot.released_free standing, ite_self]
    | live l => rw [Slot.released_live standing, ite_self]

end Sys2Proof.Machine

/-! ## SET_IRQ (R165) -/

namespace Sys2Proof.Machine

/-- A byte below 4 has its two enables in its two low bits, and no other bit. -/
theorem clear_high_of_lt_four {b : Byte} (h : b.toNat < 4) : b &&& 0xFC#8 = 0#8 := by
  revert b
  decide

/-- A SET_IRQ body reads as its two low bits, which its response carries again (R181, R182). -/
theorem readSetIrq_of_lt_four {b : Byte} (h : b.toNat < 4) :
    readSetIrq [b] = some (b.getLsbD 0, b.getLsbD 1) ∧ enablesByte (b.getLsbD 0) (b.getLsbD 1) = b := by
  have carried := (two_bits_iff b _ _).1 ⟨clear_high_of_lt_four h, rfl, rfl⟩
  exact ⟨(readSetIrq_eq_some_iff _ _ _).2 (congrArg (fun x => [x]) carried),
    by rw [enablesByte, bitAt_zero, bitAt_one, ← carried]⟩

/-- Settles O14: the run writes the enables of the port that it was taken from. -/
theorem setIrqWritesEnables : Obligations.SetIrqWritesEnables := by
  intro s p c b takes code body small
  obtain ⟨read, carried⟩ := readSetIrq_of_lt_four small
  have run : runSetIrq p c (s.seen p) = .ok (replyOk ((s.seen p).setPort p { (s.seen p).port p with
      noticeEnable := b.getLsbD 0, responseEnable := b.getLsbD 1 }) [b]) := by
    rw [runSetIrq, bodyOf_ok (by rw [body]; exact read), ok_bind, carried]
    rfl
  refine congrArg _ ((takeCode_answered takes code run rfl ?_).trans ?_)
  · exact (State.setPort_lastServed _ p _).trans (s.seen_lastServed p)
  · cases p <;> rfl

end Sys2Proof.Machine

/-! ## NOTE and the IRQ lines (R166) -/

namespace Sys2Proof.Machine

theorem PortState.hasNotice_iff {x : PortState} :
    x.hasNotice = true ↔ ∃ (i : SlotId) (n : Notice), x.notices[i] = some n := by
  simp only [PortState.hasNotice, List.any_eq_true, mem_allSlots, true_and, Option.isSome_iff_exists]

theorem DeviceNotices.hasKind_iff {d : DeviceNotices} : d.hasKind = true ↔
    d.refInputA = true ∨ d.refInputB = true ∨ d.refSelection = true ∨ d.engineFault = true ∨
      d.supervisorArrived = true := by
  simp only [DeviceNotices.hasKind, Bool.or_eq_true, or_assoc]

theorem State.note_iff {s : State} {p : Port} : s.note p = true ↔
    (s.port p).hasNotice = true ∨ (s.supervisor = p ∧ s.deviceNotices.hasKind = true) := by
  simp only [State.note, Bool.or_eq_true, Bool.and_eq_true, decide_eq_true_eq]

theorem State.irqAsserted_iff {s : State} {p : Port} : s.irqAsserted p = true ↔
    s.ready = true ∧ (((s.port p).noticeEnable = true ∧ s.note p = true) ∨
      ((s.port p).responseEnable = true ∧ (s.port p).exchange.isAnswered = true)) := by
  simp only [State.irqAsserted, Bool.or_eq_true, Bool.and_eq_true]

/-- Settles O38: both are Booleans over the notices, the enables and the exchange, read by what each says. -/
theorem interruptLinesFollow : Obligations.InterruptLinesFollow := by
  intro s p
  rw [State.irqAsserted_iff, Exchange.isAnswered_iff, State.note_iff, PortState.hasNotice_iff,
    DeviceNotices.hasKind_iff]
  exact ⟨Iff.rfl, Iff.rfl⟩

end Sys2Proof.Machine

/-! ## An accepted CONFIGURE, stage by stage (R140, R168, R169)

The parameters are written; a new nominal frequency begins new trials; where the nominal frequency, the mode or the
priority has changed, the selection is re-evaluated; a nonzero holdover limit is compared with every holdover. -/

namespace Sys2Proof.Machine

/-! ### The stages -/

section stages

variable (ws : List ParamWrite) (s : State)

/-- The part with the parameters written (R169, step 1). -/
def State.written : State := { s with params := ws.foldl Params.write s.params }

/-- The part with the parameters written and the trials that a new nominal frequency begins (R140, step 2). -/
def State.retrialled : State :=
  if (s.written ws).params.nominal = s.params.nominal then s.written ws
  else ((s.written ws).retrialInput .refA).retrialInput .refB

/-- Whether the writes change the nominal frequency, the mode or the priority, and so have the selection re-evaluated
(R169). -/
def State.redirects : Bool :=
  decide ((s.written ws).params.nominal ≠ s.params.nominal ∨ (s.written ws).params.mode ≠ s.params.mode ∨
    (s.written ws).params.priority ≠ s.params.priority)

/-- The part before the holdover limit is compared. -/
def State.redirected : State := if s.redirects ws then (s.retrialled ws).reevaluate else s.retrialled ws

end stages

theorem State.redirects_iff {ws : List ParamWrite} {s : State} : s.redirects ws = true ↔
    (s.written ws).params.nominal ≠ s.params.nominal ∨ (s.written ws).params.mode ≠ s.params.mode ∨
      (s.written ws).params.priority ≠ s.params.priority := decide_eq_true_iff

/-! ### New trials (R140) -/

theorem InputRec.retrial_eq (period : Nat) (x : InputRec) : x.retrial period =
    if x.state = .absent then x
    else { state := .qualifying, offset := none, strikes := 0, qualification := ⟨true, 0, 0, period⟩,
           interval := ⟨true, 0⟩ } := by
  unfold InputRec.retrial
  split <;> simp_all [InputRec.qualify, QualificationTimer.start]

theorem InputRec.retrial_not_valid (period : Nat) (x : InputRec) : (x.retrial period).state ≠ .valid := by
  rw [InputRec.retrial_eq]
  split
  · rename_i absent
    simp [absent]
  · simp

theorem State.retrialInput_refA (s : State) : s.retrialInput .refA =
    { s with
      refA := s.refA.retrial s.params.qualPeriod
      deviceNotices := { s.deviceNotices with
        refInputA := s.deviceNotices.refInputA ||
          decide ((s.refA.retrial s.params.qualPeriod).state ≠ s.refA.state) } } := by
  by_cases same : (s.refA.retrial s.params.qualPeriod).state = s.refA.state
  · simp [State.retrialInput, State.input, State.setInput, same]
  · simp [State.retrialInput, State.input, State.setInput, State.raiseRefInput, same]

theorem State.retrialInput_refB (s : State) : s.retrialInput .refB =
    { s with
      refB := s.refB.retrial s.params.qualPeriod
      deviceNotices := { s.deviceNotices with
        refInputB := s.deviceNotices.refInputB ||
          decide ((s.refB.retrial s.params.qualPeriod).state ≠ s.refB.state) } } := by
  by_cases same : (s.refB.retrial s.params.qualPeriod).state = s.refB.state
  · simp [State.retrialInput, State.input, State.setInput, same]
  · simp [State.retrialInput, State.input, State.setInput, State.raiseRefInput, same]

section retrial

variable (ws : List ParamWrite) (s : State)

/-- The trials write the inputs and their notices, each where the state of its input changes, and nothing else. -/
theorem State.retrialled_eq : s.retrialled ws =
    { s.written ws with
      refA := (s.retrialled ws).refA, refB := (s.retrialled ws).refB,
      deviceNotices := { s.deviceNotices with
        refInputA := s.deviceNotices.refInputA || decide ((s.retrialled ws).refA.state ≠ s.refA.state),
        refInputB := s.deviceNotices.refInputB || decide ((s.retrialled ws).refB.state ≠ s.refB.state) } } := by
  unfold State.retrialled
  split
  · simp [State.written]
  · rw [State.retrialInput_refB, State.retrialInput_refA]
    rfl

theorem State.retrialled_params : (s.retrialled ws).params = (s.written ws).params := by rw [s.retrialled_eq]

theorem State.retrialled_port (p : Port) : (s.retrialled ws).port p = s.port p := by
  rw [s.retrialled_eq]
  cases p <;> rfl

theorem State.retrialled_input (r : RefInput) : (s.retrialled ws).input r =
    if (s.written ws).params.nominal = s.params.nominal then s.input r
    else (s.input r).retrial (s.written ws).params.qualPeriod := by
  unfold State.retrialled
  split
  · cases r <;> rfl
  · rw [State.retrialInput_refB, State.retrialInput_refA]
    cases r <;> rfl

/-- After new trials no input is VALID, and NONE is the selection of every mode (R140, step 3). -/
theorem State.chosen_eq_none {s : State} (h : ∀ r, (s.input r).state ≠ .valid) : s.chosen = none :=
  Option.eq_none_iff_forall_ne_some.2 fun r hr => h r (State.chosen_valid hr)

theorem State.retrialled_chosen {ws : List ParamWrite} {s : State}
    (h : (s.written ws).params.nominal ≠ s.params.nominal) : (s.retrialled ws).chosen = none :=
  State.chosen_eq_none fun r => by
    rw [State.retrialled_input, if_neg h]
    exact InputRec.retrial_not_valid _ _

end retrial

/-! ### The stages make up the command -/

theorem State.reevaluate_of_chosen {s : State} (h : s.chosen = s.selection) : s.reevaluate = s := by
  simp [State.reevaluate, h]

theorem State.reevaluate_selection (s : State) : s.reevaluate.selection = s.chosen := s.reevaluate_work.selection

/-- A re-evaluation after a first one that left no input selectable changes nothing. -/
theorem State.reevaluate_again {s : State} (h : ∀ r, (s.input r).state ≠ .valid) :
    s.reevaluate.reevaluate = s.reevaluate := by
  refine State.reevaluate_of_chosen ?_
  rw [State.reevaluate_selection, State.chosen_eq_none h]
  exact State.chosen_eq_none fun r => by rw [State.reevaluate_input]; exact h r

/-- A CONFIGURE is its stages, and the comparison of the limit where it writes a nonzero one (R169). -/
theorem State.configure_eq (ws : List ParamWrite) (s : State) : s.configure ws =
    if ws.any ParamWrite.setsLimit then (s.redirected ws).checkHoldovers else s.redirected ws := by
  have stages : (if (s.written ws).params.mode = s.params.mode && (s.written ws).params.priority = s.params.priority
      then (if (s.written ws).params.nominal = s.params.nominal then s.written ws else (s.written ws).nominalChanged)
      else (if (s.written ws).params.nominal = s.params.nominal then s.written ws
        else (s.written ws).nominalChanged).reevaluate) = s.redirected ws := by
    by_cases nominal : (s.written ws).params.nominal = s.params.nominal
    · by_cases mode : (s.written ws).params.mode = s.params.mode ∧ (s.written ws).params.priority = s.params.priority
      · simp [State.redirected, State.redirects, State.retrialled, nominal, mode]
      · have moved : s.redirects ws = true := State.redirects_iff.2 (.inr (not_and_or.1 mode))
        simp [State.redirected, State.retrialled, nominal, mode, moved]
    · have moved : s.redirects ws = true := State.redirects_iff.2 (.inl nominal)
      have changed : (s.written ws).nominalChanged = (s.retrialled ws).reevaluate := by
        rw [State.retrialled, if_neg nominal]
        rfl
      have again : (s.retrialled ws).reevaluate.reevaluate = (s.retrialled ws).reevaluate :=
        State.reevaluate_again fun r => by
          rw [State.retrialled_input, if_neg nominal]
          exact InputRec.retrial_not_valid _ _
      simp [State.redirected, nominal, moved, changed, again]
  rw [← stages]
  rfl

/-- Before the limit is compared, the selection is written, with what a change of it sets in motion. -/
theorem State.redirected_work (ws : List ParamWrite) (s : State) :
    LeaseWork { s.retrialled ws with selection := (s.redirected ws).selection } (s.redirected ws) := by
  unfold State.redirected
  split
  · rw [State.reevaluate_selection]
    exact State.reevaluate_work _
  · exact .refl _

theorem State.configure_work (ws : List ParamWrite) (s : State) :
    LeaseWork { s.retrialled ws with selection := (s.configure ws).selection } (s.configure ws) := by
  rw [State.configure_eq]
  split
  · rw [(State.checkHoldovers_work _).selection]
    exact (s.redirected_work ws).trans (State.checkHoldovers_work _)
  · exact s.redirected_work ws

/-- A CONFIGURE leaves the parameters as its writes make them. -/
theorem State.configure_params (ws : List ParamWrite) (s : State) :
    (s.configure ws).params = ws.foldl Params.write s.params :=
  (s.configure_work ws).params.trans (s.retrialled_params ws)

end Sys2Proof.Machine

/-! ## The configuration in its ranges (R16, R168, R171)

The parameters, the quotas and the masks are written by CONFIGURE, SET_CLIENTS and the resets alone; each writes values
in range. -/

namespace Sys2Proof.Machine

/-! ### The values that a body carries -/

theorem Params.InRange.initial : Params.initial.InRange := by constructor <;> decide

/-- A parameter that CONFIGURE reads lies in its range (R168). -/
theorem Params.InRange.write {x : Params} (h : x.InRange) {k : Byte} {v : Nat} {w : ParamWrite}
    (hw : readParam k v = some w) : (x.write w).InRange := by
  rcases (readParam_eq_some_iff k v w).1 hw with
    ⟨-, low, high, rfl⟩ | ⟨-, low, high, rfl⟩ | ⟨-, low, high, rfl⟩ | ⟨-, mode⟩ | ⟨-, priority⟩ | ⟨-, low, high, rfl⟩ |
    ⟨-, high, rfl⟩ | ⟨-, high, rfl⟩
  · exact { h with nominal := ⟨low, high⟩ }
  · exact { h with window := ⟨low, high⟩ }
  · exact { h with qualPeriod := ⟨low, high⟩ }
  · rcases mode with ⟨-, rfl⟩ | ⟨-, rfl⟩ | ⟨-, rfl⟩ | ⟨-, rfl⟩ <;> exact { h with }
  · rcases priority with ⟨-, rfl⟩ | ⟨-, rfl⟩ <;> exact { h with }
  · exact { h with acqLimit := ⟨low, high⟩ }
  · exact { h with linger := high }
  · exact { h with holdoverLimit := high }

theorem Params.InRange.writes {x : Params} (h : x.InRange) (ps : List (Byte × Nat)) :
    ((paramWrites ps).foldl Params.write x).InRange := by
  refine List.foldlRecOn (motive := Params.InRange) _ _ h fun y hy w hw => ?_
  obtain ⟨pair, -, read⟩ := List.mem_filterMap.1 hw
  exact hy.write read

theorem State.quota_setQuota (s : State) (x : ClientId × Nat) (c : ClientId) :
    (s.setQuota x).quota c = if c = x.1 then x.2 else s.quota c := by
  by_cases h : c = x.1
  · subst h; simp [State.setQuota, State.quota]
  · have : x.1.1 ≠ c.1 := fun e => h (Fin.ext e.symm)
    simp [State.setQuota, State.quota, h, this]

/-- The writes of an accepted CONFIGURE are those of its pairs. -/
theorem runConfigure_writes {p : Port} {c : HeldCommand} {s : State} {r : Reply} (h : runConfigure p c s = .ok r) :
    ∃ ps, r.state = s.configure (paramWrites ps) :=
  of_bind h fun _ k => of_bind k fun ps k => of_bind k fun _ k => ⟨ps, by rw [← Except.ok.inj k]; rfl⟩

/-- An accepted SET_CLIENTS writes what its body carries. -/
theorem runSetClients_ok {p : Port} {c : HeldCommand} {s : State} {r : Reply} (h : runSetClients p c s = .ok r) :
    ∃ a, readSetClients c.body = some a ∧ r.state = s.setClients a := by
  simp only [runSetClients, bind_eq_ok_iff, bodyOf_eq_ok_iff] at h
  obtain ⟨-, -, a, read, hk⟩ := h
  cases hk
  exact ⟨a, read, rfl⟩

/-! No frame writes a mask. -/

theorem PortState.acceptCommand_mask (c : HeldCommand) (x : PortState) : (x.acceptCommand c).mask = x.mask := by
  unfold PortState.acceptCommand
  split
  · rfl
  · rfl
  split
  · split
    · split <;> rfl
    · rfl
  · rfl

theorem PortState.judgeCommand_mask (rest : List Byte) (x : PortState) : (x.judgeCommand rest).mask = x.mask := by
  unfold PortState.judgeCommand
  split
  swap
  · rfl
  split
  · rfl
  split
  · rfl
  dsimp only
  split
  · exact PortState.acceptCommand_mask _ x
  · rfl

theorem PortState.fetchEnd_mask (f : Frame) (n : Nat) (x : PortState) : (x.fetchEnd f n).mask = x.mask := by
  unfold PortState.fetchEnd
  split
  · split <;> rfl
  · rfl

namespace State.ConfigInRange

variable {s t : State}

/-- The ranges speak of the parameters, the quotas and the masks alone. -/
theorem of_config (h : s.ConfigInRange) (params : t.params = s.params) (quotas : t.quotas = s.quotas)
    (masks : ∀ p, (t.port p).mask = (s.port p).mask) : t.ConfigInRange where
  params := params ▸ h.params
  quotas c := by rw [State.quota, quotas]; exact h.quotas c
  masks p := by rw [masks]; exact h.masks p

/-- Work on leases, engines and outputs writes no configuration. -/
theorem work (h : s.ConfigInRange) (w : LeaseWork s t) : t.ConfigInRange :=
  h.of_config w.params w.quotas fun p => by rw [w.ports p]

theorem setPort (h : s.ConfigInRange) {p : Port} {x : PortState} (mask : x.mask = (s.port p).mask) :
    (s.setPort p x).ConfigInRange := by
  refine h.of_config (s.setPort_params p x) (s.setPort_quotas p x) fun q => ?_
  rw [State.port_setPort]
  split
  · rename_i hq; rw [mask, hq]
  · rfl

theorem deviceNotices (h : s.ConfigInRange) (d : DeviceNotices) :
    ({ s with deviceNotices := d } : State).ConfigInRange :=
  h.work ((LeaseWork.refl s).deviceNotices d)

theorem unmarked (h : s.ConfigInRange) (xs : List SlotId) : ({ s with touched := xs } : State).ConfigInRange :=
  h.work ((LeaseWork.refl s).touched xs)

/-! ### Frames and notices -/

section ports

variable (p : Port)

theorem portResync (h : s.ConfigInRange) : (s.portResync p).ConfigInRange := by
  obtain ⟨v, hv⟩ := s.portResync_eq p
  have emptied : (s.setPort p { s.port p with
      exchange := .empty, retry := none, frameError := .none, notices := Vector.replicate 24 none }).ConfigInRange :=
    h.setPort rfl
  rw [hv]
  exact emptied.of_config rfl rfl fun q => by cases q <;> rfl

theorem judge (h : s.ConfigInRange) (f : Frame) (kind : Byte) (rest : List Byte) :
    (s.judge p f kind rest).ConfigInRange := by
  have error (x : FrameError) : (s.setFrameError p x).ConfigInRange := h.setPort rfl
  have resync : (s.judgeResync p rest).ConfigInRange := by
    unfold State.judgeResync
    split
    · exact error _
    · split
      · exact h.portResync p
      · exact error _
  unfold State.judge
  split
  · exact error _
  split
  · exact error _
  split
  · exact h.setPort (PortState.judgeCommand_mask rest _)
  split
  · exact h.setPort (PortState.fetchEnd_mask f _ _)
  split
  · exact resync
  · exact error _

theorem endFrame (x : ShiftedIn) (h : s.ConfigInRange) : (s.endFrame p x).ConfigInRange := by
  unfold State.endFrame
  split
  swap
  · exact h
  split
  · refine judge p ?_ _ _ _
    exact h.setPort rfl
  · exact h.setPort rfl

theorem chipSelectFall (h : s.ConfigInRange) : (s.chipSelectFall p).ConfigInRange := by
  unfold State.chipSelectFall
  split
  · exact h
  · exact h.setPort rfl

theorem clearNotices (h : s.ConfigInRange) : (s.clearNotices p).ConfigInRange := by
  have emptied : (s.setPort p (s.port p).emptied).ConfigInRange := h.setPort rfl
  rw [State.clearNotices_eq]
  exact emptied.of_config rfl rfl fun q => by cases q <;> rfl

theorem afterFind (o : OutputId) (h : s.ConfigInRange) : (s.afterFind o).ConfigInRange := by
  unfold State.afterFind
  split
  · exact h.of_config rfl rfl fun q => by cases q <;> rfl
  · exact h

end ports

/-! ### The commands that write the configuration -/

theorem setMask {p : Port} {m : Option Byte} (h : s.ConfigInRange) (hm : ∀ x, m = some x → x.getLsbD 0 = false) :
    (s.setMask p m).ConfigInRange := by
  cases m with
  | none => exact h
  | some x =>
    refine ⟨by rw [State.setMask, State.setPort_params]; exact h.params, fun c => ?_, fun q => ?_⟩
    · rw [State.setMask, State.quota_setPort]
      exact h.quotas c
    · rw [State.setMask, State.port_setPort]
      split
      · exact hm x rfl
      · exact h.masks q

theorem setQuota {x : ClientId × Nat} (h : s.ConfigInRange) (hx : x.2 ≤ 24) : (s.setQuota x).ConfigInRange where
  params := h.params
  quotas c := by
    rw [State.quota_setQuota]
    split
    · exact hx
    · exact h.quotas c
  masks p := by
    rw [show (s.setQuota x).port p = s.port p by cases p <;> rfl]
    exact h.masks p

theorem setClients {body : List Byte} {a : ClientArgs} (h : s.ConfigInRange) (ha : readSetClients body = some a) :
    (s.setClients a).ConfigInRange := by
  obtain ⟨_, _, -, maskA, maskB, -, quotas, -⟩ := (readSetClients_eq_some_iff body a).1 ha
  have masked := (h.setMask (p := .A) fun x hx => (maskA x hx).2).setMask (p := .B) fun x hx => (maskB x hx).2
  exact List.foldlRecOn (motive := State.ConfigInRange) _ _ masked fun u hu x hx => hu.setQuota (quotas x hx)

theorem configure (h : s.ConfigInRange) (ps : List (Byte × Nat)) : (s.configure (paramWrites ps)).ConfigInRange := by
  have work := s.configure_work (paramWrites ps)
  refine ⟨?_, fun c => ?_, fun p => ?_⟩
  · rw [State.configure_params]
    exact h.params.writes ps
  · rw [State.quota, work.quotas, s.retrialled_eq]
    exact h.quotas c
  · rw [work.ports p]
    suffices (((s.retrialled (paramWrites ps)).port p).mask).getLsbD 0 = false by cases p <;> exact this
    rw [State.retrialled_port]
    exact h.masks p

/-! ### The reference monitor and the resets -/

theorem updateInput (r : RefInput) (x : InputRec) (h : s.ConfigInRange) : (s.updateInput r x).ConfigInRange := by
  have written : (s.setInput r x).ConfigInRange := h.of_config (by simp) (by simp) (by simp)
  unfold State.updateInput
  split
  · exact written
  have raised : ((s.setInput r x).raiseRefInput r).ConfigInRange := by
    cases r <;> exact written.deviceNotices _
  generalize (s.setInput r x).raiseRefInput r = u at raised
  exact State.ConfigInRange.work (s := { u with selection := u.chosen })
    (raised.of_config rfl rfl fun p => by cases p <;> rfl) u.reevaluate_work

theorem tick (h : s.ConfigInRange) : s.tick.ConfigInRange := by
  unfold State.tick
  split
  · have timed := h.work (forEach_keeps (P := LeaseWork s) _ (fun e u hu => hu.setEngine e
      ((u.engine e).tick s.params.holdoverLimit)) allEngines (.refl s))
    exact timed.of_config rfl rfl fun p => by cases p <;> rfl
  · exact h

theorem leaseReset (h : s.ConfigInRange) : s.leaseReset.ConfigInRange := by
  rw [s.leaseReset_eq]
  exact h.of_config rfl rfl fun p => by cases p <;> rfl

theorem coldReset (s : State) : s.coldReset.ConfigInRange :=
  State.reset_configInRange.of_config rfl rfl fun p => by cases p <;> rfl

theorem deviceReset (s : State) (p : Port) : (s.deviceReset p).ConfigInRange := by
  unfold State.deviceReset
  generalize s.leaseReset = t
  cases p <;> exact State.reset_configInRange.of_config rfl rfl fun q => by cases q <;> rfl

theorem pinReset (h : s.ConfigInRange) : s.pinReset.ConfigInRange := by
  unfold State.pinReset
  split
  · exact h
  · exact (coldReset s).of_config rfl rfl fun p => by cases p <;> rfl

theorem pinRelease (v : Level) (h : s.ConfigInRange) : (s.pinRelease v).ConfigInRange := by
  unfold State.pinRelease
  split
  · exact h.of_config rfl rfl fun p => by cases p <;> rfl
  · exact h

theorem oscillatorStable (h : s.ConfigInRange) : s.oscillatorStable.ConfigInRange := by
  unfold State.oscillatorStable
  split
  · exact h
  · exact h.of_config rfl rfl fun p => by cases p <;> rfl

theorem softReset {p : Port} {c : HeldCommand} {r : Reply} (h : s.ConfigInRange) (hr : runSoftReset p c s = .ok r) :
    r.state.ConfigInRange := by
  rcases runSoftReset_ok hr with hk | hk <;> rw [hk]
  · exact deviceReset s p
  · exact h.leaseReset

/-! ### Events and takings -/

/-- The marks of an event are no part of the configuration. -/
theorem event {f : State → State} (hf : ∀ u, u.ConfigInRange → (f u).ConfigInRange) (h : s.ConfigInRange) :
    (Machine.event f s).ConfigInRange := (hf _ (h.unmarked [])).unmarked []

theorem workEvent {f : State → State} (hf : ∀ u, LeaseWork u (f u)) (h : s.ConfigInRange) :
    (Machine.event f s).ConfigInRange := h.event fun u hu => hu.work (hf u)

/-- A taking keeps the ranges where every accepted run of its command does: a refusal writes an exchange alone. -/
theorem taking {mine : HeldCommand → Bool} {run : Port → HeldCommand → State → Except Denial Reply}
    (hr : ∀ p c u r, run p c u = .ok r → u.ConfigInRange → r.state.ConfigInRange) (h : s.ConfigInRange) :
    (Machine.event (State.take mine run) s).ConfigInRange := by
  refine h.event fun s h => ?_
  unfold State.take
  split
  · exact h
  rename_i p c _
  split
  swap
  · exact h
  have taken : (s.afterTaking p).ConfigInRange := by
    have emptied : (s.setPort p { s.port p with exchange := .empty }).ConfigInRange := h.setPort rfl
    exact emptied.of_config rfl rfl fun q => by cases q <;> rfl
  unfold State.respond
  split
  · split
    · rename_i r hrun
      exact (hr p c _ r hrun taken).setPort rfl
    · exact taken.setPort rfl
  · exact taken.setPort rfl

theorem workTaking {mine : HeldCommand → Bool} {run : Port → HeldCommand → State → Except Denial Reply}
    (hr : ∀ p c u r, run p c u = .ok r → LeaseWork u r.state) (h : s.ConfigInRange) :
    (Machine.event (State.take mine run) s).ConfigInRange := h.taking fun p c u r hrun hu => hu.work (hr p c u r hrun)

/-- The events of the reference monitor. -/
theorem activityStart (r : RefInput) (h : s.ConfigInRange) : (s.activityStart r).ConfigInRange := by
  unfold State.activityStart
  split
  · exact h.updateInput r _
  · exact h

theorem activityLoss (r : RefInput) (h : s.ConfigInRange) : (s.activityLoss r).ConfigInRange := by
  unfold State.activityLoss
  split
  · exact h.updateInput r _
  · exact h

theorem measurement (r : RefInput) (n : Nat) (h : s.ConfigInRange) : (s.measurement r n).ConfigInRange := by
  unfold State.measurement
  split
  · exact h.updateInput r _
  · exact h

theorem qualificationExpiry (r : RefInput) (h : s.ConfigInRange) : (s.qualificationExpiry r).ConfigInRange := by
  unfold State.qualificationExpiry
  split
  · exact h.updateInput r _
  · exact h

/-! ### Every command -/

/-- Every command leaves the configuration in its ranges. -/
theorem exec (i : Instr) (h : s.ConfigInRange) : ∃ t, Machine.exec i s = .next t ∧ t.ConfigInRange := by
  cases i with
  | powerOnReset v =>
    exact ⟨_, rfl, h.event fun u _ => (coldReset u).of_config rfl rfl fun p => by cases p <;> rfl⟩
  | pinResetAssert => exact ⟨_, rfl, h.event fun _ hu => hu.pinReset⟩
  | pinResetRelease v => exact ⟨_, rfl, h.event fun _ hu => hu.pinRelease v⟩
  | oscillatorStable => exact ⟨_, rfl, h.event fun _ hu => hu.oscillatorStable⟩
  | nop p rest => exact ⟨_, rfl, h.event fun _ hu => hu.endFrame p _⟩
  | commandFrame p rest => exact ⟨_, rfl, h.event fun _ hu => hu.endFrame p _⟩
  | fetch p rest => exact ⟨_, rfl, h.event fun _ hu => hu.endFrame p _⟩
  | resync p rest => exact ⟨_, rfl, h.event fun _ hu => hu.endFrame p _⟩
  | unknownFrameKind p bytes => exact ⟨_, rfl, h.event fun _ hu => hu.endFrame p _⟩
  | chipSelectFall p => exact ⟨_, rfl, h.event fun _ hu => hu.chipSelectFall p⟩
  | openLease => exact ⟨_, rfl, h.workTaking fun _ _ _ _ hr => runOpen_work hr⟩
  | start => exact ⟨_, rfl, h.workTaking fun _ _ _ _ hr => runStart_work hr⟩
  | retune => exact ⟨_, rfl, h.workTaking fun _ _ _ _ hr => runRetune_work hr⟩
  | release => exact ⟨_, rfl, h.workTaking fun _ _ _ _ hr => runRelease_work hr⟩
  | revoke => exact ⟨_, rfl, h.workTaking fun _ _ _ _ hr => runRevoke_work hr⟩
  | retry => exact ⟨_, rfl, h.workTaking fun _ _ _ _ hr => runRetry_work hr⟩
  | queryLease => exact ⟨_, rfl, h.taking fun _ _ _ _ hr hu => of_bind hr fun _ k => of_bind k fun _ k => by
      cases k; exact hu⟩
  | lookupTag => exact ⟨_, rfl, h.taking fun _ _ _ _ hr hu => of_bind hr fun _ k => by
      split at k <;> cases k <;> exact hu⟩
  | listClient => exact ⟨_, rfl, h.taking fun _ _ _ _ hr hu => of_bind hr fun _ k => of_bind k fun _ k => by
      cases k; exact hu⟩
  | findOutput => exact ⟨_, rfl, h.taking fun _ _ _ _ hr hu => of_bind hr fun o k => by cases k; exact hu.afterFind o⟩
  | queryEngine => exact ⟨_, rfl, h.taking fun _ _ _ _ hr hu => of_bind hr fun _ k => by cases k; exact hu⟩
  | queryReference => exact ⟨_, rfl, h.taking fun _ _ _ _ hr hu => of_bind hr fun _ k => by cases k; exact hu⟩
  | notices => exact ⟨_, rfl, h.taking fun p _ _ _ hr hu => of_bind hr fun _ k => by
      rw [← Except.ok.inj k]; exact hu.clearNotices p⟩
  | setIrq => exact ⟨_, rfl, h.taking fun p _ _ _ hr hu => of_bind hr fun _ k => by
      cases k; exact hu.setPort rfl⟩
  | readConfig => exact ⟨_, rfl, h.taking fun _ _ _ _ hr hu => of_bind hr fun _ k => by cases k; exact hu⟩
  | configure =>
    refine ⟨_, rfl, h.taking fun p c u r hr hu => ?_⟩
    obtain ⟨ps, hk⟩ := runConfigure_writes hr
    exact hk ▸ hu.configure ps
  | setClients =>
    refine ⟨_, rfl, h.taking fun p c u r hr hu => ?_⟩
    obtain ⟨a, read, hk⟩ := runSetClients_ok hr
    exact hk ▸ hu.setClients read
  | handover => exact ⟨_, rfl, h.taking fun _ _ _ _ hr hu => of_bind hr fun _ k => of_bind k fun _ k => by
      cases k; exact hu.of_config rfl rfl fun p => by cases p <;> rfl⟩
  | softResetLeases => exact ⟨_, rfl, h.taking fun _ _ _ _ hr hu => hu.softReset hr⟩
  | softResetDevice => exact ⟨_, rfl, h.taking fun _ _ _ _ hr hu => hu.softReset hr⟩
  | engineClear => exact ⟨_, rfl, h.workTaking fun _ _ _ _ hr => runEngineClear_work hr⟩
  | unknownCommandCode => exact ⟨_, rfl, h.taking fun _ _ _ _ hr _ => by cases hr⟩
  | lockAchieved e => exact ⟨_, rfl, h.workEvent fun u => (LeaseWork.refl u).lockAchieved e⟩
  | lockLost e => exact ⟨_, rfl, h.workEvent fun u => (LeaseWork.refl u).lockLost e⟩
  | acquisitionTimerExpiry e => exact ⟨_, rfl, h.workEvent fun u => (LeaseWork.refl u).acquisitionExpiry e⟩
  | holdoverTimerLimit e => exact ⟨_, rfl, h.workEvent fun u => (LeaseWork.refl u).holdoverLimitReached e⟩
  | lingerTimerExpiry e => exact ⟨_, rfl, h.workEvent fun u => (LeaseWork.refl u).lingerExpiry e⟩
  | changeoverDone o => exact ⟨_, rfl, h.workEvent fun u => (LeaseWork.refl u).changeoverDone o⟩
  | activityStart r => exact ⟨_, rfl, h.event fun _ hu => hu.activityStart r⟩
  | activityLoss r => exact ⟨_, rfl, h.event fun _ hu => hu.activityLoss r⟩
  | measurement r n => exact ⟨_, rfl, h.event fun _ hu => hu.measurement r n⟩
  | qualificationTimerExpiry r => exact ⟨_, rfl, h.event fun _ hu => hu.qualificationExpiry r⟩

end State.ConfigInRange

/-- Settles O53: CONFIGURE and SET_CLIENTS write what their bodies carry in range, the resets write the defaults, and
nothing else writes the configuration. -/
theorem stepKeepsConfigInRange : Obligations.StepKeepsConfigInRange := by
  intro s t h hst
  unfold step at hst
  split at hst
  · cases hst
    exact h.tick
  · rename_i c rest _
    have waiting : ({ s with pending := rest } : State).ConfigInRange :=
      h.of_config rfl rfl fun p => by cases p <;> rfl
    obtain ⟨u, hu, hk⟩ := waiting.exec c
    rw [hu] at hst
    cases hst
    exact hk

end Sys2Proof.Machine

/-! ## SET_CLIENTS (R171) -/

namespace Sys2Proof.Machine

/-- The quotas of a list that names each client once, written in turn. -/
theorem State.forEach_setQuota_quota {qs : List (ClientId × Nat)} (hn : (qs.map Prod.fst).Nodup) (s : State)
    (c : ClientId) : (∀ x ∈ qs, x.1 = c → (forEach qs State.setQuota s).quota c = x.2) ∧
      ((∀ x ∈ qs, x.1 ≠ c) → (forEach qs State.setQuota s).quota c = s.quota c) := by
  induction qs generalizing s with
  | nil => exact ⟨nofun, fun _ => rfl⟩
  | cons x qs ih =>
    obtain ⟨fresh, hn⟩ := List.nodup_cons.1 hn
    obtain ⟨written, kept⟩ := ih hn (s.setQuota x)
    refine ⟨fun y hy hc => ?_, fun away => ?_⟩
    · rcases List.mem_cons.1 hy with rfl | hy
      · refine (kept fun z hz hzc => fresh ?_).trans ?_
        · exact (hzc.trans hc.symm) ▸ List.mem_map_of_mem hz
        · rw [State.quota_setQuota, if_pos hc.symm]
      · exact written y hy hc
    · obtain ⟨first, rest⟩ := List.forall_mem_cons.1 away
      refine (kept rest).trans ?_
      rw [State.quota_setQuota, if_neg first.symm]

/-- SET_CLIENTS writes the masks that it carries, and the quotas (R171). -/
theorem State.setClients_eq (s : State) (a : ClientArgs) : s.setClients a =
    { s with
      portA := { s.portA with mask := a.maskA.getD s.portA.mask },
      portB := { s.portB with mask := a.maskB.getD s.portB.mask }, quotas := (s.setClients a).quotas } := by
  refine forEach_keeps (P := fun t => t = { s with
    portA := { s.portA with mask := a.maskA.getD s.portA.mask },
    portB := { s.portB with mask := a.maskB.getD s.portB.mask }, quotas := t.quotas }) State.setQuota
    (fun x t ht => ?_) a.quotas ?_
  · rw [ht]
    rfl
  · cases a.maskA <;> cases a.maskB <;> rfl

/-- The quotas of a taken SET_CLIENTS whose body carries each client once (R171). -/
theorem State.setClients_quota {s : State} {a : ClientArgs} (distinct : (a.quotas.map Prod.fst).Nodup) (c : ClientId) :
    (∀ x ∈ a.quotas, x.1 = c → (s.setClients a).quota c = x.2) ∧
      ((∀ x ∈ a.quotas, x.1 ≠ c) → (s.setClients a).quota c = s.quota c) := by
  have masked : ((s.setMask .A a.maskA).setMask .B a.maskB).quota c = s.quota c := by
    cases a.maskA <;> cases a.maskB <;> rfl
  rw [← masked]
  exact State.forEach_setQuota_quota distinct _ c

/-- Settles O17: the run writes mask by mask and quota by quota, and its reply is the table then. -/
theorem setClientsWrites : Obligations.SetClientsWrites := by
  intro s p c a takes code client read
  have run : runSetClients p c (s.seen p) =
      .ok (replyOk ((s.seen p).setClients a) ((s.seen p).setClients a).clientBytes) := by
    rw [runSetClients, supervisorOnly_ok client, ok_bind, bodyOf_ok read, ok_bind]
    rfl
  have taken := takeCode_answered takes code run rfl
    ((State.setClients_lastServed _ a).trans (s.seen_lastServed p))
  obtain ⟨_, _, -, -, -, -, -, distinct⟩ := (readSetClients_eq_some_iff c.body a).1 read
  have quotas (d : ClientId) := State.setClients_quota (s := s.seen p) distinct d
  refine ⟨_, congrArg Host.Outcome.next taken, ?_⟩
  have written := (s.seen p).setClients_eq a
  generalize (s.seen p).setClients a = u at written quotas
  have answered (d : ClientId) : (u.answered p c .ok u.clientBytes).quota d = u.quota d := by cases p <;> rfl
  refine ⟨?_, fun x hx => (answered _).trans ((quotas x.1).1 x hx rfl), fun d away => (answered d).trans ?_⟩
  · rw [written]
    cases p <;> rfl
  · rw [(quotas d).2 away, State.seen_quota]

end Sys2Proof.Machine

/-! ## HANDOVER (R172) -/

namespace Sys2Proof.Machine

/-- Settles O18: the two refusals of the run, and its one write of the role and of the notice of its arrival. -/
theorem handoverMovesRole : Obligations.HandoverMovesRole := by
  intro s p c takes code
  refine ⟨fun client => ?_, fun client body => ?_, fun client body => ?_⟩
  · have run : runHandover p c (s.seen p) = .error (denied .supervisorOnly) := by
      rw [runHandover, supervisorOnly_error client, error_bind]
    exact congrArg _ (takeCode_refused takes code run)
  · have run : runHandover p c (s.seen p) = .error (denied .badArgument) := by
      rw [runHandover, supervisorOnly_ok client, ok_bind, bodyOf_error (readNothing_eq_none body), error_bind]
    exact congrArg _ (takeCode_refused takes code run)
  · have run : runHandover p c (s.seen p) = .ok (replyOk
        (({ s.seen p with supervisor := p.other } : State).raiseSupervisorArrived) [portByte p.other]) := by
      rw [runHandover, supervisorOnly_ok client, ok_bind, bodyOf_ok (x := ()) (by rw [body]; rfl), ok_bind]
      rfl
    refine ⟨_, congrArg Host.Outcome.next (takeCode_answered takes code run rfl (s.seen_lastServed p)), ?_, ?_, ?_⟩
    · cases p <;> rfl
    · cases p <;> rfl
    · cases p <;> rfl

end Sys2Proof.Machine

/-! ## CONFIGURE: its pairs, and its refusals (R139, R168) -/

namespace Sys2Proof.Machine

section pairs

variable {ps : List (Byte × Nat)} {body : List Byte} {k : Nat} {x : Byte × Nat}

/-- A pair out of range, or of a parameter that an earlier pair names, offends (R168). -/
theorem pairOffends_of_offender (hx : ps[k]? = some x)
    (h : readParam x.1 x.2 = none ∨ x.1 ∈ (ps.take k).map Prod.fst) : pairOffends ps k = true := by
  simp only [pairOffends, hx, Bool.or_eq_true, Option.isNone_iff_eq_none, List.any_eq_true, decide_eq_true_eq]
  exact h.imp_right fun mem => List.mem_map.1 mem

theorem firstOffending_eq_none (range : ∀ y ∈ ps, readParam y.1 y.2 ≠ none) (distinct : (ps.map Prod.fst).Nodup) :
    firstOffending ps = none := by
  refine List.find?_eq_none.2 fun j hj => ?_
  have whole : ps.take ps.length = ps := List.take_length
  rw [pairOffends_eq_false (List.mem_range.1 hj) (by rwa [whole]) (by rwa [whole])]
  exact Bool.false_ne_true

/-- The first offender is the pair before which none offends. -/
theorem firstOffending_eq_some (hx : ps[k]? = some x)
    (range : ∀ (j : Nat) y, j < k → ps[j]? = some y → readParam y.1 y.2 ≠ none)
    (distinct : ((ps.take k).map Prod.fst).Nodup)
    (h : readParam x.1 x.2 = none ∨ x.1 ∈ (ps.take k).map Prod.fst) : firstOffending ps = some k := by
  refine List.find?_range_eq_some.2 ⟨pairOffends_of_offender hx h, ?_, fun j hj => ?_⟩
  · exact List.mem_range.2 (List.getElem?_eq_some_iff.1 hx).1
  · rw [pairOffends_eq_false hj (fun y hy => ?_) distinct]
    · rfl
    · obtain ⟨i, hi, rfl⟩ := List.mem_take_iff_getElem.1 hy
      exact range i _ (by omega) (List.getElem?_eq_getElem (by omega))

/-- A list of one to eight distinct parameters in range is read (R168). -/
theorem readConfigure_ok (read : readPairs body = some ps) (length : 1 ≤ ps.length ∧ ps.length ≤ 8)
    (range : ∀ y ∈ ps, readParam y.1 y.2 ≠ none) (distinct : (ps.map Prod.fst).Nodup) :
    readConfigure body = .ok ps := by
  simp only [readConfigure, read, need_some, ok_bind, firstOffending_eq_none range distinct, decide_eq_true length,
    ensure_true]
  rfl

theorem readConfigure_offender (read : readPairs body = some ps) (hk : k < 8) (first : firstOffending ps = some k) :
    readConfigure body = .error (deniedAt .badArgument k) := by
  simp only [readConfigure, read, need_some, ok_bind, first, deniedPair, if_pos hk]

end pairs

section interlock

variable {s : State} {ps : List (Byte × Nat)} {k : Nat} {x : Byte × Nat}

theorem State.poolInUse_iff : s.poolInUse = true ↔ ∃ e, (s.engine e).state.inUse = true := by
  simp [State.poolInUse, allEngines]

/-- The pairs that break the interlock are those that change the nominal frequency while an engine is in use (R139). -/
theorem State.lockedPair_iff : s.lockedPair x = true ↔
    x.1 = 0x01#8 ∧ x.2 ≠ s.params.nominal ∧ ∃ e, (s.engine e).state.inUse = true := by
  rw [← State.poolInUse_iff]
  simp [State.lockedPair, and_assoc]

/-- The interlock names the position of its pair: no earlier pair names the nominal frequency. -/
theorem checkInterlock_error (hx : ps[k]? = some x) (distinct : (ps.map Prod.fst).Nodup)
    (locked : s.lockedPair x = true) :
    checkEach (fun y => !s.lockedPair y) .configLocked 0 ps = .error (deniedAt .configLocked k) := by
  refine (checkEach_error 0 k hx (by simp [locked]) fun j y hj hy => ?_).trans (by rw [Nat.zero_add])
  have named := (State.lockedPair_iff.1 locked).1
  simp only [Bool.not_eq_true']
  refine Bool.eq_false_iff.2 fun hl => ?_
  have same : (ps.map Prod.fst)[j]? = (ps.map Prod.fst)[k]? := by
    rw [List.getElem?_map, List.getElem?_map, hx, hy, Option.map_some, Option.map_some, named,
      (State.lockedPair_iff.1 hl).1]
  have bound : j < (ps.map Prod.fst).length := by
    rw [List.length_map]
    exact (List.getElem?_eq_some_iff.1 hy).1
  exact absurd ((List.getElem?_inj bound distinct).1 same) (by omega)

end interlock

/-- Settles O16: the list is judged before the interlock, and each names its first pair. -/
theorem configureRefused : Obligations.ConfigureRefused := by
  intro s p c ps k x takes code client read hx
  refine ⟨fun hk range distinct offends => ?_, fun length range distinct named changed inUse => ?_⟩
  · have run : runConfigure p c (s.seen p) = .error (deniedAt .badArgument k) := by
      rw [runConfigure, supervisorOnly_ok client, ok_bind,
        readConfigure_offender read hk (firstOffending_eq_some hx range distinct offends), error_bind]
    exact congrArg Host.Outcome.next (takeCode_refused takes code run)
  · have nonempty : 1 ≤ ps.length := Nat.one_le_of_lt (List.getElem?_eq_some_iff.1 hx).1
    have locked : (s.seen p).lockedPair x = true :=
      State.lockedPair_iff.2 ⟨named, by simpa using changed, by simpa using inUse⟩
    have run : runConfigure p c (s.seen p) = .error (deniedAt .configLocked k) := by
      rw [runConfigure, supervisorOnly_ok client, ok_bind, readConfigure_ok read ⟨nonempty, length⟩ range distinct,
        ok_bind, checkInterlock_error hx distinct locked, error_bind]
    exact congrArg Host.Outcome.next (takeCode_refused takes code run)

end Sys2Proof.Machine

/-! ## The parameters that a CONFIGURE writes (R168, R169) -/

namespace Sys2Proof.Machine

section values

/-- The value of the parameter that byte `k` of a body names (R168). -/
def Params.value (x : Params) (k : Byte) : Nat :=
  if k = 0x01#8 then x.nominal
  else if k = 0x02#8 then x.window
  else if k = 0x03#8 then x.qualPeriod
  else if k = 0x04#8 then x.mode.number
  else if k = 0x05#8 then x.priority.number
  else if k = 0x06#8 then x.acqLimit
  else if k = 0x07#8 then x.linger
  else if k = 0x08#8 then x.holdoverLimit
  else 0

theorem Params.value_write {k : Byte} {v : Nat} {w : ParamWrite} (read : readParam k v = some w) (x : Params) :
    (x.write w).value k = v := by
  rcases (readParam_eq_some_iff k v w).1 read with
    ⟨rfl, -, -, rfl⟩ | ⟨rfl, -, -, rfl⟩ | ⟨rfl, -, -, rfl⟩ | ⟨rfl, mode⟩ | ⟨rfl, priority⟩ | ⟨rfl, -, -, rfl⟩ |
    ⟨rfl, -, rfl⟩ | ⟨rfl, -, rfl⟩
  case inr.inr.inr.inl => rcases mode with ⟨rfl, rfl⟩ | ⟨rfl, rfl⟩ | ⟨rfl, rfl⟩ | ⟨rfl, rfl⟩ <;> rfl
  case inr.inr.inr.inr.inl => rcases priority with ⟨rfl, rfl⟩ | ⟨rfl, rfl⟩ <;> rfl
  all_goals rfl

/-- The write of one parameter leaves the value of every other. -/
theorem Params.value_write_other {k k' : Byte} {v : Nat} {w : ParamWrite} (read : readParam k v = some w)
    (other : k' ≠ k) (x : Params) : (x.write w).value k' = x.value k' := by
  rcases (readParam_eq_some_iff k v w).1 read with
    ⟨rfl, -, -, rfl⟩ | ⟨rfl, -, -, rfl⟩ | ⟨rfl, -, -, rfl⟩ | ⟨rfl, mode⟩ | ⟨rfl, priority⟩ | ⟨rfl, -, -, rfl⟩ |
    ⟨rfl, -, rfl⟩ | ⟨rfl, -, rfl⟩
  case inr.inr.inr.inl =>
    rcases mode with ⟨-, rfl⟩ | ⟨-, rfl⟩ | ⟨-, rfl⟩ | ⟨-, rfl⟩ <;> simp [Params.value, Params.write, other]
  case inr.inr.inr.inr.inl =>
    rcases priority with ⟨-, rfl⟩ | ⟨-, rfl⟩ <;> simp [Params.value, Params.write, other]
  all_goals simp [Params.value, Params.write, other]

theorem paramWrites_cons {x : Byte × Nat} {w : ParamWrite} (read : readParam x.1 x.2 = some w)
    (ps : List (Byte × Nat)) : paramWrites (x :: ps) = w :: paramWrites ps := by
  simp [paramWrites, read]

/-- The pairs of a list in range that names each parameter once, written in turn: each parameter that the list names
takes its value there, and every other keeps its own (R169). -/
theorem Params.value_writes {ps : List (Byte × Nat)} (range : ∀ y ∈ ps, readParam y.1 y.2 ≠ none)
    (distinct : (ps.map Prod.fst).Nodup) (x : Params) (k : Byte) :
    (∀ v, (k, v) ∈ ps → ((paramWrites ps).foldl Params.write x).value k = v) ∧
      (k ∉ ps.map Prod.fst → ((paramWrites ps).foldl Params.write x).value k = x.value k) := by
  induction ps generalizing x with
  | nil => exact ⟨nofun, fun _ => rfl⟩
  | cons y ps ih =>
    obtain ⟨fresh, distinct⟩ := List.nodup_cons.1 distinct
    obtain ⟨first, rest⟩ := List.forall_mem_cons.1 range
    obtain ⟨w, read⟩ := Option.ne_none_iff_exists'.1 first
    obtain ⟨named, unnamed⟩ := ih rest distinct (x.write w)
    rw [paramWrites_cons read, List.foldl_cons]
    refine ⟨fun v hv => ?_, fun away => ?_⟩
    · rcases List.mem_cons.1 hv with rfl | hv
      · rw [unnamed fresh, Params.value_write read]
      · exact named v hv
    · obtain ⟨other, away⟩ := not_or.1 (mt List.mem_cons.2 away)
      rw [unnamed away, Params.value_write_other read other]

/-- The writes of a list set a nonzero holdover limit where it holds the pair of one. -/
theorem paramWrites_setsLimit {ps : List (Byte × Nat)} (range : ∀ y ∈ ps, readParam y.1 y.2 ≠ none) :
    (paramWrites ps).any ParamWrite.setsLimit = true ↔ ∃ v, (0x08#8, v) ∈ ps ∧ v ≠ 0 := by
  rw [List.any_eq_true]
  constructor
  · rintro ⟨w, hw, sets⟩
    obtain ⟨⟨k, v⟩, pair, read⟩ := List.mem_filterMap.1 hw
    rcases (readParam_eq_some_iff k v w).1 read with
      ⟨-, -, -, rfl⟩ | ⟨-, -, -, rfl⟩ | ⟨-, -, -, rfl⟩ | ⟨-, mode⟩ | ⟨-, priority⟩ | ⟨-, -, -, rfl⟩ |
      ⟨-, -, rfl⟩ | ⟨rfl, -, rfl⟩
    case inr.inr.inr.inr.inr.inr.inr => exact ⟨v, pair, by simpa [ParamWrite.setsLimit] using sets⟩
    case inr.inr.inr.inl => rcases mode with ⟨-, rfl⟩ | ⟨-, rfl⟩ | ⟨-, rfl⟩ | ⟨-, rfl⟩ <;> cases sets
    case inr.inr.inr.inr.inl => rcases priority with ⟨-, rfl⟩ | ⟨-, rfl⟩ <;> cases sets
    all_goals cases sets
  · rintro ⟨v, pair, nonzero⟩
    obtain ⟨w, read⟩ := Option.ne_none_iff_exists'.1 (range _ pair)
    refine ⟨w, List.mem_filterMap.2 ⟨_, pair, read⟩, ?_⟩
    rcases (readParam_eq_some_iff 0x08#8 v w).1 read with
      ⟨h, -⟩ | ⟨h, -⟩ | ⟨h, -⟩ | ⟨h, -⟩ | ⟨h, -⟩ | ⟨h, -⟩ | ⟨h, -⟩ | ⟨-, -, rfl⟩
    case inr.inr.inr.inr.inr.inr.inr => simpa [ParamWrite.setsLimit] using nonzero
    all_goals exact absurd h (by decide)

theorem readMode_number (m : RefMode) : readMode m.number = some m := by cases m <;> rfl

theorem readPriority_number (y : RefPriority) : readPriority y.number = some y := by cases y <;> rfl

theorem RefMode.number_injective : Function.Injective RefMode.number := fun m n h =>
  Option.some.inj ((readMode_number m).symm.trans (h ▸ readMode_number n))

theorem RefPriority.number_injective : Function.Injective RefPriority.number := fun x y h =>
  Option.some.inj ((readPriority_number x).symm.trans (h ▸ readPriority_number y))

end values

end Sys2Proof.Machine

/-! ## Runs that differ in what the ports hold

What befalls a lease, an engine or an output does not read the notices that the ports hold, nor the marks of the event.
Two runs of the same operations from states that differ in these alone differ in these alone; what more a relation
keeps of the two at each write of the part, it keeps through every operation. -/

namespace Sys2Proof.Machine

/-! ### Twins -/

/-- The two states differ in their ports and in the marks of the event alone. -/
abbrev State.Twin (a b : State) : Prop := b = { a with portA := b.portA, portB := b.portB, touched := b.touched }

namespace State.Twin

theorem refl (a : State) : a.Twin a := rfl

section reads

variable {a b : State} (h : a.Twin b)
include h

theorem slot (i : SlotId) : b.slot i = a.slot i := (congrArg (State.slot · i) h :)
theorem lease (i : SlotId) : b.lease? i = a.lease? i := (congrArg (State.lease? · i) h :)
theorem engine (e : EngineId) : b.engine e = a.engine e := (congrArg (State.engine · e) h :)
theorem output (o : OutputId) : b.output o = a.output o := (congrArg (State.output · o) h :)
theorem params : b.params = a.params := (congrArg State.params h :)
theorem selection : b.selection = a.selection := (congrArg State.selection h :)
theorem deviceNotices : b.deviceNotices = a.deviceNotices := (congrArg State.deviceNotices h :)
theorem chosen : b.chosen = a.chosen := (congrArg State.chosen h :)
theorem isLocked (e : EngineId) : b.isLocked e = a.isLocked e := (congrArg (State.isLocked · e) h :)
theorem outputsAll (ok : OutState → Entry → Bool) (es : List Entry) : b.outputsAll ok es = a.outputsAll ok es :=
  (congrArg (State.outputsAll ok es) h :)
theorem settled (l : Lease) (m : Migration) : b.settled l m = a.settled l m := (congrArg (State.settled l m) h :)
theorem activeIfLocked (e : Option EngineId) : b.activeIfLocked e = a.activeIfLocked e :=
  (congrArg (State.activeIfLocked · e) h :)

end reads

end State.Twin

/-! ### What a write may do -/

/-- A write of an engine that neither faults it nor lengthens its holdover. -/
structure EngineRec.Eases (x y : EngineRec) : Prop where
  faulted : y.state = .faulted → x.state = .faulted
  limit : ∀ n, y.atHoldoverLimit n = true → x.atHoldoverLimit n = true

theorem EngineRec.Eases.of_state {x y : EngineRec} (faulted : y.state ≠ .faulted) (holdover : y.state ≠ .holdover) :
    x.Eases y := ⟨fun h => absurd h faulted, fun _ h => absurd (EngineRec.atHoldoverLimit_iff.1 h).1 holdover⟩

theorem EngineRec.Eases.of_eq {x y : EngineRec} (state : y.state = x.state) (holdover : y.holdover = x.holdover) :
    x.Eases y := ⟨fun h => state ▸ h, fun n h => by
      rw [EngineRec.atHoldoverLimit_iff, state, holdover] at h
      exact EngineRec.atHoldoverLimit_iff.2 h⟩

theorem EngineRec.Eases.trans {x y z : EngineRec} (h : x.Eases y) (k : y.Eases z) : x.Eases z :=
  ⟨fun f => h.faulted (k.faulted f), fun n f => h.limit n (k.limit n f)⟩

theorem EngineRec.Eases.zeroUsers (linger : Nat) (x : EngineRec) : x.Eases (x.zeroUsers linger) := by
  unfold EngineRec.zeroUsers
  split
  · split
    · exact .of_state nofun nofun
    · exact .of_state nofun nofun
  · exact .of_state nofun nofun
  · exact .of_state nofun nofun
  all_goals exact .of_eq rfl rfl

theorem EngineRec.Eases.dropUser (linger : Nat) (x : EngineRec) : x.Eases (x.dropUser linger) := by
  unfold EngineRec.dropUser
  split
  · exact EngineRec.Eases.trans (y := { x with users := 0 }) (.of_eq rfl rfl) (.zeroUsers _ _)
  · exact .of_eq rfl rfl

theorem EngineRec.Eases.program (selected : Bool) (limit : Nat) (p : Plan) (x : EngineRec) :
    x.Eases (x.program selected limit p) := .of_state nofun nofun

/-- An engine that enters HOLDOVER begins its time there. -/
theorem EngineRec.Eases.reselect (selected : Bool) (limit : Nat) (x : EngineRec) :
    x.Eases (x.reselect selected limit) := by
  unfold EngineRec.reselect
  split
  · refine ⟨nofun, fun n h => ?_⟩
    obtain ⟨-, nonzero, reached⟩ := EngineRec.atHoldoverLimit_iff.1 h
    exact absurd (Nat.le_zero.1 reached) nonzero
  · exact .of_eq rfl rfl
  · exact .of_eq rfl rfl
  · exact .of_state nofun nofun
  all_goals exact .of_eq rfl rfl

/-- A write of a lease that keeps its home port, and that leaves it neither CLOSING nor MIGRATING or leaves a CLOSING or
MIGRATING one counting on no more than before. -/
structure Lease.Becomes (l k : Lease) : Prop where
  home : k.home = l.home
  counts : k.state = .closing ∨ k.state = .migrating →
    (l.state = .closing ∨ l.state = .migrating) ∧ ∀ e, k.countOn e ≤ l.countOn e

/-- A lease that becomes neither CLOSING nor MIGRATING. -/
theorem Lease.Becomes.of_state {l k : Lease} (home : k.home = l.home) (closing : k.state ≠ .closing)
    (migrating : k.state ≠ .migrating) : l.Becomes k := ⟨home, fun h => absurd h (not_or.2 ⟨closing, migrating⟩)⟩

/-- A lease that forgets engines counts on no more than before. -/
theorem Lease.countOn_le {l k : Lease} (engine : ∀ f, k.engine = some f → l.engine = some f)
    (migration : k.migration = l.migration) (target : ∀ f, k.closingTarget = some f → l.closingTarget = some f)
    (f : EngineId) : k.countOn f ≤ l.countOn f := by
  have indicator {p q : Prop} [Decidable p] [Decidable q] (h : p → q) :
      (if p then 1 else 0) ≤ (if q then 1 else 0) := by
    split_ifs <;> simp_all
  have migrates : k.migratesTo f = l.migratesTo f := by rw [Lease.migratesTo, Lease.migratesTo, migration]
  have runs : k.runsFrom f = true → l.runsFrom f = true := by simpa [Lease.runsFrom] using engine f
  rw [Lease.countOn, Lease.countOn, migrates]
  exact Nat.add_le_add (Nat.add_le_add_right (indicator runs) _) (indicator (target f))

theorem Lease.Becomes.of_plain {l k : Lease} (home : k.home = l.home) (plain : k.state.Plain) : l.Becomes k :=
  .of_state home plain.closing plain.migrating

theorem Lease.Becomes.migrating {l k : Lease} (home : k.home = l.home) (before : l.state = .migrating)
    (counts : ∀ e, k.countOn e ≤ l.countOn e) : l.Becomes k := ⟨home, fun _ => ⟨.inr before, counts⟩⟩

/-! ### Relations that every write keeps -/

/-- `R` holds of twins, and each write of the part that both make alike keeps it. -/
structure TwinClosed (R : State → State → Prop) : Prop where
  twin {a b : State} : R a b → a.Twin b
  engine {a b : State} {e : EngineId} {x : EngineRec} :
    R a b → (a.engine e).Eases x → R (a.setEngine e x) (b.setEngine e x)
  output {a b : State} (o : OutputId) (x : OutputRec) : R a b → R (a.setOutput o x) (b.setOutput o x)
  lease {a b : State} {i : SlotId} {l k : Lease} :
    R a b → a.lease? i = some l → l.Becomes k → R (a.setLease i k) (b.setLease i k)
  retired {a b : State} (i : SlotId) (g : Byte) (q : Port) :
    R a b → R (a.setSlot i ⟨g, .retired q⟩) (b.setSlot i ⟨g, .retired q⟩)
  raised {a b : State} (i : SlotId) (closed : Bool) : R a b → R (a.raise i closed) (b.raise i closed)
  noticed {a b : State} (d : DeviceNotices) : R a b → R { a with deviceNotices := d } { b with deviceNotices := d }
  selected {a b : State} (r : Option RefInput) : R a b → R { a with selection := r } { b with selection := r }

namespace TwinClosed

variable {R : State → State → Prop} (hR : TwinClosed R) {a b : State} {i : SlotId} {l : Lease} {e : EngineId}

theorem forEach {α : Type} {f : α → State → State} (step : ∀ x a b, R a b → R (f x a) (f x b)) (xs : List α)
    (h : R a b) : R (Machine.forEach xs f a) (Machine.forEach xs f b) := by
  induction xs generalizing a b with
  | nil => exact h
  | cons x xs ih => exact ih (step x a b h)

include hR

/-! ### Outputs and engines -/

theorem give (o : OutputId) (t : Target) (h : R a b) : R (a.give o t) (b.give o t) := by
  rw [State.give, State.give, (hR.twin h).output]
  exact hR.output _ _ h

theorem giveEach (want : OutState → Entry → Option Target) (es : List Entry) (h : R a b) :
    R (a.giveEach want es) (b.giveEach want es) := by
  refine forEach (fun x a b h => ?_) es h
  rw [(hR.twin h).output]
  split
  · exact h
  · exact hR.give _ _ h

theorem forceQuietTied (e : EngineId) (h : R a b) : R (a.forceQuietTied e) (b.forceQuietTied e) := by
  refine forEach (fun o a b h => ?_) allOutputs h
  rw [(hR.twin h).output]
  split
  · exact hR.output _ _ h
  · exact h

theorem setHolders (x : Option SlotId) (es : List Entry) (h : R a b) : R (a.setHolders x es) (b.setHolders x es) := by
  refine forEach (fun y a b h => ?_) es h
  rw [(hR.twin h).output]
  exact hR.output _ _ h

theorem dropUser (e : Option EngineId) (h : R a b) : R (a.dropUser e) (b.dropUser e) := by
  cases e with
  | none => exact h
  | some e =>
    rw [State.dropUser, State.dropUser, (hR.twin h).engine, (hR.twin h).params]
    exact hR.engine h (.dropUser _ _)

theorem reprogram (e : EngineId) (p : Plan) (h : R a b) : R (a.reprogram e p) (b.reprogram e p) := by
  rw [State.reprogram, State.reprogram, (hR.twin h).engine, (hR.twin h).selection, (hR.twin h).params]
  exact hR.engine h (.program _ _ _ _)

/-! ### The lease of one slot -/

theorem tell (told : Bool) (i : SlotId) (h : R a b) : R (a.tell told i) (b.tell told i) := by
  cases told
  · exact hR.raised i false h
  · exact h

theorem background {k : Lease} {st : LeaseState} {r : Reason} (h : R a b) (hl : a.lease? i = some l)
    (hk : l.Becomes { k with state := st, reason := r }) : R (a.background i k st r) (b.background i k st r) :=
  hR.raised i false (hR.lease h hl hk)

theorem failLease {k : Lease} (h : R a b) (hl : a.lease? i = some l) (home : k.home = l.home) :
    R (a.failLease i k) (b.failLease i k) := hR.background h hl (.of_state home nofun nofun)

theorem finishMigration (m : Migration) (h : R a b) (hl : a.lease? i = some l) :
    R (a.finishMigration i l m) (b.finishMigration i l m) := by
  unfold State.finishMigration
  cases m.mode with
  | loc =>
    dsimp only
    rw [(hR.twin h).activeIfLocked]
    exact hR.lease h hl (.of_plain rfl (a.activeIfLocked_plain _))
  | overlap =>
    have dropped := hR.dropUser l.engine h
    dsimp only
    rw [(hR.twin dropped).activeIfLocked]
    exact hR.lease dropped ((State.dropUser_lease ..).trans hl) (.of_plain rfl (State.activeIfLocked_plain _ _))
  | gap =>
    dsimp only
    cases l.engine with
    | none => exact hR.lease h hl (.of_state rfl nofun nofun)
    | some e => exact hR.lease (hR.reprogram e m.plan h) hl (.of_state rfl nofun nofun)

theorem settle (told : Bool) (i : SlotId) (h : R a b) : R (a.settle told i) (b.settle told i) := by
  unfold State.settle
  rw [(hR.twin h).lease]
  cases hl : a.lease? i with
  | none => exact h
  | some l =>
    dsimp only
    split
    · rw [(hR.twin h).settled]
      split
      · exact hR.tell told i (hR.finishMigration _ h hl)
      · exact h
    · exact h

/-! ### HOLDOVER -/

theorem onHoldover (e : EngineId) (i : SlotId) (h : R a b) :
    R (Machine.onHoldover e i a) (Machine.onHoldover e i b) := by
  unfold Machine.onHoldover
  rw [(hR.twin h).lease]
  cases hl : a.lease? i with
  | none => exact h
  | some l =>
    dsimp only
    split
    swap
    · exact h
    cases hs : l.state with
    | migrating =>
      dsimp only
      split
      · exact hR.settle false i (hR.background h hl (.migrating rfl hs fun _ => Nat.le_refl _))
      · exact h
    | ready => exact hR.background h hl (.of_state rfl nofun nofun)
    | starting => exact hR.background h hl (.of_state rfl nofun nofun)
    | active => exact hR.background h hl (.of_state rfl nofun nofun)
    | disturbed => exact hR.background h hl (.of_state rfl nofun nofun)
    | pending => exact h
    | closing => exact h
    | failed => exact h

/-! ### Freeing -/

theorem giveUp (l : Lease) (h : R a b) : R (a.giveUp l) (b.giveUp l) :=
  hR.dropUser _ (hR.setHolders _ _ (hR.dropUser _ (hR.dropUser _ h)))

theorem retire (i : SlotId) (l : Lease) (h : R a b) : R (a.retire i l) (b.retire i l) := by
  have raised := hR.raised i true h
  rw [State.retire, State.retire, (hR.twin raised).slot]
  exact hR.retired i _ _ raised

theorem closeIfQuiet (i : SlotId) (h : R a b) : R (a.closeIfQuiet i) (b.closeIfQuiet i) := by
  unfold State.closeIfQuiet
  rw [(hR.twin h).lease]
  cases a.lease? i with
  | none => exact h
  | some l =>
    dsimp only
    rw [(hR.twin h).outputsAll]
    split
    · exact hR.retire i l (hR.giveUp l h)
    · exact h

/-! ### Faults -/

theorem sourceFault (m : Migration) (h : R a b) (hl : a.lease? i = some l) (hs : l.state = .migrating) :
    R (a.sourceFault i l m) (b.sourceFault i l m) := by
  have sent : R (a.background i { l with engine := none } .migrating .engineFault)
      (b.background i { l with engine := none } .migrating .engineFault) :=
    hR.background h hl (.migrating rfl hs (Lease.countOn_le nofun rfl fun _ => id))
  unfold State.sourceFault
  cases m.target with
  | none => exact sent
  | some g =>
    dsimp only
    rw [(hR.twin sent).isLocked]
    split
    · exact hR.settle false i (hR.giveEach _ _ sent)
    · exact hR.settle false i sent

theorem targetFault (h : R a b) (hl : a.lease? i = some l) : R (a.targetFault i l) (b.targetFault i l) := by
  unfold State.targetFault
  split
  · exact hR.failLease h hl rfl
  dsimp only
  rw [(hR.twin h).isLocked, (hR.twin h).outputsAll]
  split
  · split
    · exact hR.background h hl (.of_state rfl nofun nofun)
    · exact hR.giveEach _ _ (hR.background h hl (.of_state rfl nofun nofun))
  · exact hR.background h hl (.of_state rfl nofun nofun)

theorem closingFault (e : EngineId) (h : R a b) (hl : a.lease? i = some l) (hs : l.state = .closing) :
    R (a.closingFault e i l) (b.closingFault e i l) := by
  refine hR.closeIfQuiet i (hR.lease h hl ⟨rfl, fun _ =>
    ⟨.inl hs, Lease.countOn_le (fun f hf => ?_) rfl fun f hf => ?_⟩⟩)
  · exact (Option.ite_none_left_eq_some.1 hf).2
  · exact (Option.ite_none_left_eq_some.1 hf).2

theorem onFault (e : EngineId) (i : SlotId) (h : R a b) : R (Machine.onFault e i a) (Machine.onFault e i b) := by
  have dropped := hR.dropUser (some e) h
  unfold Machine.onFault
  rw [(hR.twin h).lease]
  cases hl : a.lease? i with
  | none => exact h
  | some l =>
    have lease : (a.dropUser (some e)).lease? i = some l := by simpa using hl
    have failed : R (if l.runsFrom e then (a.dropUser (some e)).failLease i l else a)
        (if l.runsFrom e then (b.dropUser (some e)).failLease i l else b) := by
      split
      · exact hR.failLease dropped lease rfl
      · exact h
    dsimp only
    cases hs : l.state with
    | closing =>
      dsimp only
      split
      · exact hR.closingFault e dropped lease hs
      · exact h
    | migrating =>
      dsimp only
      cases l.migration with
      | none => exact h
      | some m =>
        dsimp only
        split
        · exact hR.targetFault dropped lease
        split
        · cases m.mode with
          | overlap => exact hR.sourceFault m dropped lease hs
          | loc => exact hR.failLease dropped lease rfl
          | gap => exact hR.failLease dropped lease rfl
        · exact h
    | pending => exact failed
    | ready => exact failed
    | starting => exact failed
    | active => exact failed
    | disturbed => exact failed
    | failed => exact h

/-- A fault keeps the relation where its write of the engine does. -/
theorem declareFault {e : EngineId} {r : FaultReason}
    (fails : R (a.setEngine e ((a.engine e).fail r)) (b.setEngine e ((a.engine e).fail r))) (h : R a b) :
    R (a.declareFault e r) (b.declareFault e r) := by
  have faulted := forEach (fun i _ _ => hR.onFault e i) allSlots (hR.forceQuietTied e fails)
  rw [State.declareFault, State.declareFault, (hR.twin h).engine, State.raiseEngineFault, State.raiseEngineFault,
    (hR.twin faulted).deviceNotices]
  exact hR.noticed _ faulted

/-! ### A change of selection -/

theorem announceSelection (h : R a b) : R a.announceSelection b.announceSelection := by
  have reselected : R
      (Machine.forEach allEngines
        (fun e u => u.setEngine e ((u.engine e).reselect a.selection.isSome a.params.acqLimit)) a)
      (Machine.forEach allEngines
        (fun e u => u.setEngine e ((u.engine e).reselect a.selection.isSome a.params.acqLimit)) b) :=
    forEach (fun e c d k => by
      rw [(hR.twin k).engine]
      exact hR.engine k (.reselect _ _ _)) allEngines h
  have locked : b.isLocked = a.isLocked := funext (hR.twin h).isLocked
  rw [State.announceSelection, State.announceSelection, (hR.twin h).selection, (hR.twin h).params, locked]
  refine forEach (fun e c d k => ?_) allEngines reselected
  split
  · exact forEach (fun i _ _ => hR.onHoldover e i) allSlots k
  · exact k

theorem reevaluate (h : R a b) : R a.reevaluate b.reevaluate := by
  unfold State.reevaluate
  rw [(hR.twin h).chosen, (hR.twin h).selection]
  dsimp only
  split
  · exact h
  · have announced := hR.announceSelection (hR.selected a.chosen h)
    rw [State.raiseRefSelection, State.raiseRefSelection, (hR.twin announced).deviceNotices]
    exact hR.noticed _ announced

end TwinClosed

end Sys2Proof.Machine

/-! ## Three relations that every write keeps

What an engine and a lease can become; two runs that mark alike; and two runs that mark apart, as the one event of a
CONFIGURE and the events of the rows do. -/

namespace Sys2Proof.Machine

namespace State.Twin

variable {a b c : State}

theorem trans (h : a.Twin b) (k : b.Twin c) : a.Twin c := by
  rw [State.Twin, k, h]

theorem symm (h : a.Twin b) : b.Twin a := by
  rw [State.Twin, h]

theorem setEngine (h : a.Twin b) (e : EngineId) (x : EngineRec) : (a.setEngine e x).Twin (b.setEngine e x) :=
  (congrArg (State.setEngine · e x) h :)
theorem setOutput (h : a.Twin b) (o : OutputId) (x : OutputRec) : (a.setOutput o x).Twin (b.setOutput o x) :=
  (congrArg (State.setOutput · o x) h :)
theorem setSlot (h : a.Twin b) (i : SlotId) (x : Slot) : (a.setSlot i x).Twin (b.setSlot i x) :=
  (congrArg (State.setSlot · i x) h :)
theorem setLease (h : a.Twin b) (i : SlotId) (l : Lease) : (a.setLease i l).Twin (b.setLease i l) :=
  (congrArg (State.setLease · i l) h :)
theorem noticed (h : a.Twin b) (d : DeviceNotices) :
    State.Twin { a with deviceNotices := d } { b with deviceNotices := d } :=
  (congrArg (fun s : State => { s with deviceNotices := d }) h :)
theorem selected (h : a.Twin b) (r : Option RefInput) :
    State.Twin { a with selection := r } { b with selection := r } :=
  (congrArg (fun s : State => { s with selection := r }) h :)

theorem of_raise (a : State) (i : SlotId) (closed : Bool) : a.Twin (a.raise i closed) := by
  unfold State.Twin State.raise
  split
  · rfl
  · rename_i l _
    cases l.home <;> rfl

theorem raise (h : a.Twin b) (i : SlotId) (closed : Bool) : (a.raise i closed).Twin (b.raise i closed) :=
  (of_raise a i closed).symm.trans (h.trans (of_raise b i closed))

theorem unmarked (h : a.Twin b) : a.Twin { b with touched := [] } := h.trans rfl

end State.Twin

/-! ### What can become of an engine and of a lease -/

/-- What a run of the operations between may make of `s`, `n` being the holdover limit that its faults go by: an engine
is faulted, or stands at the limit, where it did so in `s` or stood at the limit there; a CLOSING or MIGRATING lease was
one in `s`, and counts on no more than there. -/
structure State.Leads (s : State) (n : Nat) (a : State) : Prop where
  faulted : ∀ f, (a.engine f).state = .faulted → (s.engine f).state = .faulted ∨ (s.engine f).atHoldoverLimit n = true
  limit : ∀ f, (a.engine f).atHoldoverLimit n = true → (s.engine f).atHoldoverLimit n = true
  counts : ∀ i k, a.lease? i = some k → k.state = .closing ∨ k.state = .migrating →
    ∃ l, s.lease? i = some l ∧ (l.state = .closing ∨ l.state = .migrating) ∧ ∀ e, k.countOn e ≤ l.countOn e

namespace State.Leads

variable {s a b : State} {n : Nat}

theorem refl (s : State) (n : Nat) : s.Leads n s :=
  ⟨fun _ h => .inl h, fun _ h => h, fun _ k hk hs => ⟨k, hk, hs, fun _ => Nat.le_refl _⟩⟩

theorem of_eq (h : s.Leads n a) (engines : b.engines = a.engines) (slots : b.slots = a.slots) : s.Leads n b := by
  have engine : b.engine = a.engine := funext fun f => by rw [State.engine, State.engine, engines]
  have lease : b.lease? = a.lease? := funext fun i => by rw [State.lease?, State.lease?, State.slot, State.slot, slots]
  exact ⟨by rw [engine]; exact h.faulted, by rw [engine]; exact h.limit, by rw [lease]; exact h.counts⟩

theorem setEngine (h : s.Leads n a) {e : EngineId} {x : EngineRec}
    (faulted : x.state = .faulted → (s.engine e).state = .faulted ∨ (s.engine e).atHoldoverLimit n = true)
    (limit : x.atHoldoverLimit n = true → (s.engine e).atHoldoverLimit n = true) : s.Leads n (a.setEngine e x) := by
  refine ⟨fun f => ?_, fun f => ?_, h.counts⟩
  · rw [State.engine_setEngine]
    split
    · rename_i same
      exact same ▸ faulted
    · exact h.faulted f
  · rw [State.engine_setEngine]
    split
    · rename_i same
      exact same ▸ limit
    · exact h.limit f

/-- An engine at the limit may be faulted. -/
theorem fail (h : s.Leads n a) {e : EngineId} (at_limit : (a.engine e).atHoldoverLimit n = true) (r : FaultReason) :
    s.Leads n (a.setEngine e ((a.engine e).fail r)) :=
  h.setEngine (fun _ => .inr (h.limit e at_limit)) fun _ => h.limit e at_limit

theorem setSlot (h : s.Leads n a) {i : SlotId} {x : Slot}
    (counts : ∀ k, x.standing.lease? = some k → k.state = .closing ∨ k.state = .migrating →
      ∃ l, s.lease? i = some l ∧ (l.state = .closing ∨ l.state = .migrating) ∧ ∀ e, k.countOn e ≤ l.countOn e) :
    s.Leads n (a.setSlot i x) := by
  refine ⟨h.faulted, h.limit, fun j => ?_⟩
  rw [State.lease?, State.slot_setSlot]
  split
  · rename_i same
    exact same ▸ counts
  · exact h.counts j

theorem setLease (h : s.Leads n a) {i : SlotId} {l k : Lease} (hl : a.lease? i = some l) (becomes : l.Becomes k) :
    s.Leads n (a.setLease i k) := h.setSlot fun k' hk hs => by
  cases hk
  obtain ⟨before, fewer⟩ := becomes.counts hs
  obtain ⟨l₀, hl₀, hs₀, le⟩ := h.counts _ _ hl before
  exact ⟨l₀, hl₀, hs₀, fun e => (fewer e).trans (le e)⟩

theorem retired (h : s.Leads n a) (i : SlotId) (g : Byte) (q : Port) : s.Leads n (a.setSlot i ⟨g, .retired q⟩) :=
  h.setSlot fun _ hk => by cases hk

/-- Every write of the part keeps it; the two runs are one. -/
theorem closed (s : State) (n : Nat) : TwinClosed fun a b => b = a ∧ s.Leads n a where
  twin := by
    rintro _ a ⟨rfl, -⟩
    exact .refl _
  engine := by
    rintro _ a e x ⟨rfl, h⟩ eases
    exact ⟨rfl, h.setEngine (fun f => h.faulted e (eases.faulted f)) fun f => h.limit e (eases.limit n f)⟩
  output := by
    rintro _ a o x ⟨rfl, h⟩
    exact ⟨rfl, h.of_eq rfl rfl⟩
  lease := by
    rintro _ a i l k ⟨rfl, h⟩ hl becomes
    exact ⟨rfl, h.setLease hl becomes⟩
  retired := by
    rintro _ a i g q ⟨rfl, h⟩
    exact ⟨rfl, h.retired i g q⟩
  raised := by
    rintro _ a i c ⟨rfl, h⟩
    exact ⟨rfl, h.of_eq (a.raise_engines i c) (a.raise_slots i c)⟩
  noticed := by
    rintro _ a d ⟨rfl, h⟩
    exact ⟨rfl, h.of_eq rfl rfl⟩
  selected := by
    rintro _ a r ⟨rfl, h⟩
    exact ⟨rfl, h.of_eq rfl rfl⟩

theorem reevaluate (h : s.Leads n a) : s.Leads n a.reevaluate := ((closed s n).reevaluate ⟨rfl, h⟩).2

theorem declareFault (h : s.Leads n a) {e : EngineId} (at_limit : (a.engine e).atHoldoverLimit n = true)
    (r : FaultReason) : s.Leads n (a.declareFault e r) :=
  ((closed s n).declareFault ⟨rfl, h.fail at_limit r⟩ ⟨rfl, h⟩).2

end State.Leads

/-! ### Two runs that mark alike -/

/-- The two states hold the same notices and the same marks, and differ in the ports' other fields alone. -/
structure State.Alike (a b : State) : Prop where
  twin : a.Twin b
  touched : b.touched = a.touched
  notices : ∀ q, (b.port q).notices = (a.port q).notices

theorem State.Alike.closed : TwinClosed State.Alike where
  twin h := h.twin
  engine h _ := ⟨h.twin.setEngine _ _, h.touched, h.notices⟩
  output _ _ h := ⟨h.twin.setOutput _ _, h.touched, h.notices⟩
  lease h _ _ := ⟨h.twin.setLease _ _, h.touched, h.notices⟩
  retired _ _ _ h := ⟨h.twin.setSlot _ _, h.touched, h.notices⟩
  noticed _ h := ⟨h.twin.noticed _, h.touched, h.notices⟩
  selected _ h := ⟨h.twin.selected _, h.touched, h.notices⟩
  raised {a b} i closed h := by
    refine ⟨h.twin.raise i closed, ?_, fun q => ?_⟩
    all_goals
      cases hl : a.lease? i with
      | none => simp [State.raise, h.twin.lease, hl, h.touched, h.notices]
      | some l =>
        have hl' : b.lease? i = some l := (h.twin.lease i).trans hl
        simp only [State.raise_touched _ _ _ hl, State.raise_touched _ _ _ hl', State.raise_port _ _ _ hl,
          State.raise_port _ _ _ hl', h.touched, apply_ite PortState.notices, h.notices, h.twin.slot]

/-! ### Two runs that mark apart -/

/-- The count that one event leaves in an entry (R160). -/
def countAfter : Option Notice → Nat
  | none => 1
  | some n => min 15 (n.count + 1)

/-- The entry `y` has counted every raise since the entry `old`, and `x`, otherwise the same, one event. -/
def CountsOnce (old x y : Option Notice) : Prop :=
  ∃ m : Notice, x = some { m with count := countAfter old } ∧ y = some m ∧ countAfter old ≤ m.count ∧ m.count ≤ 15

theorem CountsOnce.first (old : Option Notice) (gen : Byte) (r : Reason) (closed : Bool) :
    CountsOnce old (some (raisedNotice old false gen r closed)) (some (raisedNotice old false gen r closed)) := by
  have count : (raisedNotice old false gen r closed).count = countAfter old := by cases old <;> rfl
  refine ⟨_, by rw [← count], rfl, count.ge, ?_⟩
  rw [count]
  cases old with
  | none => exact Nat.le_of_ble_eq_true rfl
  | some n => exact Nat.min_le_left _ _

theorem CountsOnce.again {old x y : Option Notice} (h : CountsOnce old x y) (already : Bool) (gen : Byte) (r : Reason)
    (closed : Bool) :
    CountsOnce old (some (raisedNotice x true gen r closed)) (some (raisedNotice y already gen r closed)) := by
  obtain ⟨m, rfl, rfl, low, high⟩ := h
  refine ⟨_, rfl, rfl, ?_⟩
  cases already
  · exact ⟨Nat.le_min.2 ⟨low.trans high, low.trans (Nat.le_succ _)⟩, Nat.min_le_left _ _⟩
  · exact ⟨low, high⟩

/-- An entry that counts one event is the other's, its count raised by one (R160). -/
theorem CountsOnce.countedOnce {old x y : Option Notice} (h : CountsOnce old x y) : Machine.countedOnce old y = x := by
  obtain ⟨m, rfl, rfl, low, high⟩ := h
  by_cases same : some m = old
  · subst same
    have full : countAfter (some m) = m.count := by
      simp only [countAfter] at low ⊢
      omega
    rw [countedOnce_same, full]
  · refine (if_neg same).trans ?_
    cases old <;> rfl

/-- Two runs since the entries `old`: `a` marks the slots it has raised notices for, and counts one event in them; `b`
has lost marks, and counts each raise. -/
structure State.Apart (old : Port → SlotId → Option Notice) (a b : State) : Prop where
  twin : a.Twin b
  touched : ∀ i ∈ b.touched, i ∈ a.touched
  entries : ∀ q (i : SlotId),
    (i ∈ a.touched ∧ CountsOnce (old q i) (a.port q).notices[i] (b.port q).notices[i]) ∨
      ((a.port q).notices[i] = old q i ∧ (b.port q).notices[i] = old q i ∧
        ∀ l, i ∈ a.touched → a.lease? i = some l → l.home ≠ q)

namespace State.Apart

variable {old : Port → SlotId → Option Notice} {a b : State}

theorem counted (h : State.Apart old a b) (q : Port) (i : SlotId) :
    (a.port q).notices[i] = countedOnce (old q i) (b.port q).notices[i] := by
  rcases h.entries q i with ⟨-, once⟩ | ⟨kept, kept', -⟩
  · exact once.countedOnce.symm
  · rw [kept, kept', countedOnce_same]

theorem unmarked (h : State.Apart old a b) : State.Apart old a { b with touched := [] } :=
  ⟨h.twin.unmarked, nofun, fun q i => by simpa only [State.port_unmarked] using h.entries q i⟩

/-- Writes that leave the notices, the marks and the homes. -/
theorem of_notices (h : State.Apart old a b) {a' b' : State} (twin : a'.Twin b') (touched : a'.touched = a.touched)
    (touched' : b'.touched = b.touched) (notices : ∀ q, (a'.port q).notices = (a.port q).notices)
    (notices' : ∀ q, (b'.port q).notices = (b.port q).notices)
    (homes : ∀ i k, a'.lease? i = some k → ∃ l, a.lease? i = some l ∧ k.home = l.home) : State.Apart old a' b' := by
  refine ⟨twin, by rw [touched, touched']; exact h.touched, fun q i => ?_⟩
  rw [touched, notices, notices']
  refine (h.entries q i).imp_right fun ⟨kept, kept', away⟩ => ⟨kept, kept', fun k marked hk => ?_⟩
  obtain ⟨l, hl, home⟩ := homes i k hk
  exact home ▸ away l marked hl

theorem raise (h : State.Apart old a b) (i : SlotId) (closed : Bool) :
    State.Apart old (a.raise i closed) (b.raise i closed) := by
  cases hl : a.lease? i with
  | none => simpa only [State.raise, h.twin.lease, hl] using h
  | some l =>
    have hl' : b.lease? i = some l := (h.twin.lease i).trans hl
    have work := (OneSlot.refl i a).raise closed
    have work' := (OneSlot.refl i b).raise closed
    refine ⟨h.twin.raise i closed, fun j hj => ?_, fun q j => ?_⟩
    · rw [a.raise_touched i closed hl]
      rw [b.raise_touched i closed hl'] at hj
      exact List.mem_cons.2 ((List.mem_cons.1 hj).imp_right (h.touched j))
    by_cases hj : j = i
    · subst hj
      rw [a.raise_notices j closed hl, b.raise_notices j closed hl', a.raise_touched j closed hl, State.raise_lease,
        h.twin.slot]
      by_cases hq : q = l.home
      · rw [if_pos hq, if_pos hq]
        refine .inl ⟨List.mem_cons_self, ?_⟩
        rcases h.entries q j with ⟨marked, once⟩ | ⟨kept, kept', away⟩
        · rw [List.contains_iff_mem.2 marked]
          exact once.again _ _ _ _
        · have fresh : j ∉ a.touched := fun marked => away l marked hl hq.symm
          have fresh' : j ∉ b.touched := fun marked => fresh (h.touched j marked)
          rw [kept, kept', Bool.eq_false_iff.2 (mt List.contains_iff_mem.1 fresh),
            Bool.eq_false_iff.2 (mt List.contains_iff_mem.1 fresh')]
          exact .first _ _ _ _
      · rw [if_neg hq, if_neg hq]
        rcases h.entries q j with ⟨-, once⟩ | ⟨kept, kept', -⟩
        · exact .inl ⟨List.mem_cons_self, once⟩
        · refine .inr ⟨kept, kept', fun k _ hk => ?_⟩
          cases hl.symm.trans hk
          exact Ne.symm hq
    · rw [work.notices q j hj, work'.notices q j hj, work.touched j hj, State.raise_lease]
      exact h.entries q j

theorem closed (old : Port → SlotId → Option Notice) : TwinClosed (State.Apart old) where
  twin h := h.twin
  engine h _ := h.of_notices (h.twin.setEngine _ _) rfl rfl (fun q => by simp) (fun q => by simp)
    fun _ k hk => ⟨k, hk, rfl⟩
  output _ _ h := h.of_notices (h.twin.setOutput _ _) rfl rfl (fun q => by simp) (fun q => by simp)
    fun _ k hk => ⟨k, hk, rfl⟩
  lease {a b i l k} h hl becomes :=
    h.of_notices (h.twin.setLease _ _) rfl rfl (fun q => by simp) (fun q => by simp) fun j k' hk => by
      by_cases hj : j = i
      · subst hj
        cases (State.lease_setLease_same a j k).symm.trans hk
        exact ⟨l, hl, becomes.home⟩
      · exact ⟨k', (State.lease_setLease_ne a i hj k).symm.trans hk, rfl⟩
  retired {a b} i g q h :=
    h.of_notices (h.twin.setSlot _ _) rfl rfl (fun q => by simp) (fun q => by simp) fun j k' hk => by
      rw [State.lease_setSlot] at hk
      split at hk
      · cases hk
      · exact ⟨k', hk, rfl⟩
  raised i closed h := h.raise i closed
  noticed d h := h.of_notices (h.twin.noticed d) rfl rfl (fun q => by cases q <;> rfl) (fun q => by cases q <;> rfl)
    fun _ k hk => ⟨k, hk, rfl⟩
  selected r h := h.of_notices (h.twin.selected r) rfl rfl (fun q => by cases q <;> rfl) (fun q => by cases q <;> rfl)
    fun _ k hk => ⟨k, hk, rfl⟩

/-- The two runs begin at one another's notices, and without marks. -/
theorem begin (twin : a.Twin b) (touched : b.touched = []) (notices : ∀ q, (b.port q).notices = (a.port q).notices)
    (unmarked : a.touched = []) : State.Apart (fun q i => (a.port q).notices[i]) a b :=
  ⟨twin, by simp [touched], fun q i => .inr ⟨rfl, by rw [notices], by simp [unmarked]⟩⟩

/-- A fault in the one run is one in the other. -/
theorem declareFault (h : State.Apart old a b) (e : EngineId) (r : FaultReason) :
    State.Apart old (a.declareFault e r) (b.declareFault e r) := by
  have fails (x : EngineRec) : State.Apart old (a.setEngine e x) (b.setEngine e x) :=
    h.of_notices (h.twin.setEngine e x) rfl rfl (fun q => by simp) (fun q => by simp) fun _ k hk => ⟨k, hk, rfl⟩
  exact (closed old).declareFault (fails _) h

theorem limitReached (h : State.Apart old a b) (e : EngineId) :
    State.Apart old (a.holdoverLimitReached e) (b.holdoverLimitReached e) := by
  rw [State.holdoverLimitReached, State.holdoverLimitReached, h.twin.engine, h.twin.params]
  split
  · exact h.declareFault e .holdoverLimit
  · exact h

/-- The limit compared with every holdover of a list in one event, and in an event each (R71; log entry 23). -/
theorem limitsReached (h : State.Apart old a b) (es : List EngineId) :
    State.Apart old (forEach es State.holdoverLimitReached a)
      (forEach es (fun e => event (State.holdoverLimitReached e)) b) := by
  induction es generalizing a b with
  | nil => exact h
  | cons e es ih =>
    have reached := h.unmarked.limitReached e
    exact ih reached.unmarked

end State.Apart

/-- The comparison of the limit is the rows HOLDOVER_TIMER_LIMIT of the engines, in one event. -/
theorem State.checkHoldovers_eq (s : State) : s.checkHoldovers = forEach allEngines State.holdoverLimitReached s := rfl

/-- The rows of a list of engines, one after another. -/
theorem State.limitsReached_forEach (es : List EngineId) (s : State) :
    State.LimitsReached es s (forEach es (fun e => event (State.holdoverLimitReached e)) s) := by
  induction es generalizing s with
  | nil => exact (State.limitsReached_nil _ _).2 rfl
  | cons e es ih => exact (State.limitsReached_cons _ _ _ _).2 (ih _)

theorem State.limitsReached_touched (es : List EngineId) {s : State} (h : s.touched = []) :
    (forEach es (fun e => event (State.holdoverLimitReached e)) s).touched = [] :=
  forEach_keeps (P := fun t => t.touched = []) _ (fun _ _ _ => rfl) es h

end Sys2Proof.Machine

/-! ## A CONFIGURE in one event, and in the events of its rows

The command is one event; O15 compares it with the re-evaluation as one event and a row HOLDOVER_TIMER_LIMIT for each
engine after it. -/

namespace Sys2Proof.Machine

namespace State.Leads

variable {s a : State} {n : Nat}

theorem limitReached (h : s.Leads n a) (limit : a.params.holdoverLimit = n) (e : EngineId) :
    s.Leads n (a.holdoverLimitReached e) := by
  unfold State.holdoverLimitReached
  split
  · rename_i spent
    exact h.declareFault (limit ▸ spent) _
  · exact h

/-- The faults of a holdover limit are those of engines that have spent it. -/
theorem limitsReached (h : s.Leads n a) (limit : a.params.holdoverLimit = n) (es : List EngineId) :
    s.Leads n (forEach es State.holdoverLimitReached a) ∧
      (forEach es State.holdoverLimitReached a).params.holdoverLimit = n := by
  refine forEach_keeps (P := fun t => s.Leads n t ∧ t.params.holdoverLimit = n) _ (fun e t ⟨led, same⟩ => ?_) es
    ⟨h, limit⟩
  exact ⟨led.limitReached same e, by rw [((LeaseWork.refl t).holdoverLimitReached e).params, same]⟩

/-- Where no engine has spent the limit, the comparison changes nothing. -/
theorem checkHoldovers_eq (h : s.Leads n a) (limit : a.params.holdoverLimit = n)
    (none : ∀ e, (s.engine e).atHoldoverLimit n = false) : a.checkHoldovers = a := by
  refine forEach_keeps (P := fun t => t = a) State.holdoverLimitReached (fun e t same => ?_) allEngines rfl
  rw [same]
  exact if_neg fun spent => by simpa [none e] using h.limit e (limit ▸ spent)

end State.Leads

section configure

variable (ws : List ParamWrite) (s : State) (p : Port) (c : HeldCommand)

/-! ### The states on the way -/

/-- The answered state with the parameters written and the trials begun. -/
def State.begun : State := ((s.seen p).retrialled ws).answered p c .ok []

/-- That state, its selection re-evaluated where the command has it so. -/
def State.directed : State :=
  if (s.seen p).redirects ws then { (s.begun ws p c).reevaluate with touched := [] } else s.begun ws p c

/-- That state after the rows HOLDOVER_TIMER_LIMIT, where the command compares the limit. -/
def State.limited : State :=
  if ws.any ParamWrite.setsLimit then
    forEach allEngines (fun e => event (State.holdoverLimitReached e)) (s.directed ws p c)
  else s.directed ws p c

/-- The state after the command. -/
def State.configured : State := ((s.seen p).configure ws).answered p c .ok []

end configure

section configure

variable {ws : List ParamWrite} {s : State} {p : Port} {c : HeldCommand}

theorem State.retrialled_touched : (s.retrialled ws).touched = s.touched := by rw [s.retrialled_eq]; rfl

theorem State.retrialled_lastServed : (s.retrialled ws).lastServed = s.lastServed := by rw [s.retrialled_eq]; rfl

section answered

variable (t : State) (p : Port) (c : HeldCommand) (st : Status) (body : List Byte)

@[simp] theorem State.answered_params : (t.answered p c st body).params = t.params := by cases p <;> rfl
@[simp] theorem State.answered_selection : (t.answered p c st body).selection = t.selection := by cases p <;> rfl
@[simp] theorem State.answered_input (r : RefInput) : (t.answered p c st body).input r = t.input r := by
  cases p <;> cases r <;> rfl

end answered

/-- The answer writes the port of the command alone. -/
theorem State.twin_answered (served : s.lastServed = p) (st : Status) (body : List Byte) :
    s.Twin (s.answered p c st body) := by
  subst served
  unfold State.Twin State.answered
  cases s.lastServed <;> rfl

theorem State.Twin.eq_of_touched {a b : State} (h : a.Twin b) (touched : b.touched = a.touched) :
    b = { a with portA := b.portA, portB := b.portB } := by
  rw [← touched]
  exact h

theorem State.begun_eq : s.begun ws p c =
    { s.answered p c .ok [] with
      params := (s.begun ws p c).params, refA := (s.begun ws p c).refA, refB := (s.begun ws p c).refB,
      deviceNotices := { s.deviceNotices with
        refInputA := s.deviceNotices.refInputA || decide ((s.begun ws p c).refA.state ≠ s.refA.state),
        refInputB := s.deviceNotices.refInputB || decide ((s.begun ws p c).refB.state ≠ s.refB.state) } } := by
  have trials := congrArg (State.answered · p c .ok []) (State.retrialled_eq ws (s.seen p))
  have params : (s.begun ws p c).params = ((s.seen p).written ws).params := by
    rw [State.begun, State.answered_params, State.retrialled_params]
  rw [params]
  refine trials.trans ?_
  cases p <;> rfl

theorem State.begun_served : ((s.seen p).retrialled ws).lastServed = p := by
  rw [State.retrialled_lastServed, State.seen_lastServed]

theorem State.begun_alike : State.Alike ((s.seen p).retrialled ws) (s.begun ws p c) where
  twin := State.twin_answered State.begun_served .ok []
  touched := by rw [State.begun, State.answered_touched, State.retrialled_touched, State.seen_touched]
  notices q := by rw [State.begun, State.answered_notices]

theorem State.begun_touched : (s.begun ws p c).touched = [] := rfl

theorem State.directed_touched : (s.directed ws p c).touched = [] := by
  unfold State.directed
  split <;> rfl

theorem State.directed_kept (kept : (s.seen p).redirects ws = false) : s.directed ws p c = s.begun ws p c := by
  rw [State.directed, kept]
  rfl

theorem State.directed_reselects (moved : (s.seen p).redirects ws = true) :
    (s.begun ws p c).Reselects (s.directed ws p c) := by
  rw [State.directed, if_pos moved]
  exact State.reevaluate_reselects State.begun_touched

/-! ### The one event beside the many -/

/-- Two states alike, the second answered, are one when the first is. -/
theorem State.Alike.answered_eq {a b : State} (h : a.Alike b) (served : a.lastServed = p)
    (ports : ∀ q, b.port q = { (a.answered p c .ok []).port q with notices := (b.port q).notices }) :
    { b with touched := [] } = a.answered p c .ok [] := by
  have port (q : Port) : b.port q = (a.answered p c .ok []).port q := by
    rw [ports q, h.notices, ← State.answered_notices a p c .ok []]
  have portA : b.portA = (a.answered p c .ok []).portA := port .A
  have portB : b.portB = (a.answered p c .ok []).portB := port .B
  have unmarked := (h.twin.unmarked.symm.trans (State.twin_answered (c := c) served .ok [])).eq_of_touched rfl
  rw [unmarked, ← portA, ← portB]

/-- Before the limit is compared the two runs agree. -/
theorem State.directed_eq : s.directed ws p c = ((s.seen p).redirected ws).answered p c .ok [] := by
  unfold State.directed State.redirected
  split
  · refine (State.Alike.closed.reevaluate State.begun_alike).answered_eq ?_ fun q => ?_
    · rw [State.reevaluate_lastServed, State.begun_served]
    · have work := (State.reevaluate_work ((s.seen p).retrialled ws)).answered p c .ok []
      have work' := State.reevaluate_work (s.begun ws p c)
      rw [work.ports q, work'.ports q]
      cases p <;> cases q <;> rfl
  · rfl

/-- Where the command compares no limit, or no engine has spent it, the two runs agree. -/
theorem State.configured_eq_directed
    (calm : ws.any ParamWrite.setsLimit = true → ((s.seen p).redirected ws).checkHoldovers = (s.seen p).redirected ws) :
    s.configured ws p c = s.directed ws p c := by
  rw [State.configured, State.configure_eq, State.directed_eq]
  split
  · rw [calm ‹_›]
  · rfl

theorem State.begun_apart :
    State.Apart (fun q i => (s.port q).notices[i]) ((s.seen p).retrialled ws) (s.begun ws p c) := by
  have alike := State.begun_alike (ws := ws) (s := s) (p := p) (c := c)
  have begun := State.Apart.begin alike.twin State.begun_touched alike.notices
    (by rw [State.retrialled_touched, State.seen_touched])
  simpa only [State.retrialled_port, State.seen_notices] using begun

theorem State.directed_apart :
    State.Apart (fun q i => (s.port q).notices[i]) ((s.seen p).redirected ws) (s.directed ws p c) := by
  unfold State.redirected State.directed
  split
  · have both := (State.Apart.closed _).reevaluate (State.begun_apart (ws := ws) (s := s) (p := p) (c := c))
    exact both.unmarked
  · exact State.begun_apart

theorem State.limited_apart :
    State.Apart (fun q i => (s.port q).notices[i]) ((s.seen p).configure ws) (s.limited ws p c) := by
  rw [State.configure_eq, State.limited]
  split
  · exact State.directed_apart.limitsReached allEngines
  · exact State.directed_apart

theorem State.limited_touched : (s.limited ws p c).touched = [] := by
  unfold State.limited
  split
  · exact State.limitsReached_touched allEngines State.directed_touched
  · exact State.directed_touched

theorem State.configure_served : ((s.seen p).configure ws).lastServed = p := by
  rw [State.configure_lastServed, State.seen_lastServed]

theorem State.limited_twin : (s.limited ws p c).Twin (s.configured ws p c) :=
  State.limited_apart.twin.symm.trans (State.twin_answered State.configure_served .ok [])

/-! ### Lease work -/

theorem State.directed_work :
    LeaseWork { s.begun ws p c with selection := (s.directed ws p c).selection } (s.directed ws p c) := by
  cases moved : (s.seen p).redirects ws with
  | true => exact (State.directed_reselects moved).work
  | false =>
    rw [State.directed_kept moved]
    exact .refl _

theorem State.limited_work : LeaseWork (s.directed ws p c) (s.limited ws p c) := by
  unfold State.limited
  split
  · refine forEach_keeps (P := LeaseWork (s.directed ws p c)) _ (fun e t h => ?_) allEngines (.refl _)
    exact ((h.touched []).holdoverLimitReached e).touched []
  · exact .refl _

theorem State.configured_work :
    LeaseWork { s.begun ws p c with selection := (s.configured ws p c).selection } (s.configured ws p c) := by
  have work := ((s.seen p).configure_work ws).answered p c .ok []
  have begun : State.answered { (s.seen p).retrialled ws with selection := ((s.seen p).configure ws).selection } p c .ok
      [] = { s.begun ws p c with selection := ((s.seen p).configure ws).selection } := by
    cases p <;> rfl
  rw [begun] at work
  rw [State.configured, State.answered_selection]
  exact work

/-- The two runs leave the ports the same but for their notices. -/
theorem State.configured_port (q : Port) : (s.configured ws p c).port q =
    { (s.limited ws p c).port q with notices := ((s.configured ws p c).port q).notices } := by
  have left := State.configured_work (ws := ws) (s := s) (p := p) (c := c) |>.ports q
  have right := (State.directed_work (ws := ws) (s := s) (p := p) (c := c)).ports q
  have last := (State.limited_work (ws := ws) (s := s) (p := p) (c := c)).ports q
  rw [left, last, right]
  cases q <;> rfl

end configure

end Sys2Proof.Machine

/-! ## What a CONFIGURE leaves (R140, R169, R71) -/

namespace Sys2Proof.Machine

section configure

variable {ws : List ParamWrite} {s : State} {p : Port} {c : HeldCommand}

/-! ### Parameters, inputs and selection -/

theorem State.configured_params : (s.configured ws p c).params = ws.foldl Params.write s.params := by
  rw [State.configured, State.answered_params, State.configure_params, State.seen_params]

theorem State.begun_params : (s.begun ws p c).params = (s.configured ws p c).params :=
  State.configured_work.params.symm

theorem State.begun_input (r : RefInput) : (s.begun ws p c).input r = (s.configured ws p c).input r := by
  cases r
  · exact State.configured_work.refA.symm
  · exact State.configured_work.refB.symm

theorem State.begun_selection : (s.begun ws p c).selection = s.selection := by
  rw [State.begun_eq]
  cases p <;> rfl

/-- The re-evaluation is of a changed nominal frequency, mode or priority (R169). -/
theorem State.redirects_configured_iff : (s.seen p).redirects ws = true ↔
    (s.configured ws p c).params.nominal ≠ s.params.nominal ∨ (s.configured ws p c).params.mode ≠ s.params.mode ∨
      (s.configured ws p c).params.priority ≠ s.params.priority := by
  rw [State.redirects_iff, State.configured_params, State.written, State.seen_params]

theorem State.configured_input (r : RefInput) : (s.configured ws p c).input r =
    if (s.configured ws p c).params.nominal = s.params.nominal ∨ (s.input r).state = .absent then s.input r
    else { state := .qualifying, offset := none, strikes := 0,
           qualification := ⟨true, 0, 0, (s.configured ws p c).params.qualPeriod⟩, interval := ⟨true, 0⟩ } := by
  rw [← State.begun_input, State.configured_params, State.begun, State.answered_input, State.retrialled_input,
    State.written, State.seen_params, State.seen_input]
  by_cases same : (ws.foldl Params.write s.params).nominal = s.params.nominal
  · rw [if_pos same, if_pos (.inl same)]
  · rw [if_neg same, InputRec.retrial_eq]
    by_cases absent : (s.input r).state = .absent
    · rw [if_pos absent, if_pos (.inr absent)]
    · rw [if_neg absent, if_neg (not_or.2 ⟨same, absent⟩)]

theorem State.configured_selection_kept (kept : (s.seen p).redirects ws = false) :
    (s.configured ws p c).selection = s.selection := by
  rw [State.limited_twin.selection, State.limited_work.selection, State.directed_kept kept, State.begun_selection]

theorem State.configured_selection_moved (moved : (s.seen p).redirects ws = true) :
    (s.configured ws p c).selection = ((s.seen p).retrialled ws).chosen := by
  rw [State.limited_twin.selection, State.limited_work.selection, State.directed, if_pos moved,
    ← State.begun_alike.twin.chosen]
  exact State.reevaluate_selection _

theorem State.configured_selectedBy (moved : (s.seen p).redirects ws = true) :
    (s.configured ws p c).SelectedBy s.selection := by
  rw [← State.begun_selection (ws := ws) (p := p) (c := c)]
  refine .of_chosen State.begun_params.symm (funext fun r => (State.begun_input r).symm) ?_
  rw [State.configured_selection_moved moved, State.begun_alike.twin.chosen]

/-- New trials leave no input to select (R140). -/
theorem State.configured_selection_none (changed : (s.configured ws p c).params.nominal ≠ s.params.nominal) :
    (s.configured ws p c).selection = none := by
  rw [State.configured_selection_moved (State.redirects_configured_iff.2 (.inl changed))]
  refine State.retrialled_chosen ?_
  rwa [State.configured_params, ← State.seen_params s p] at changed

/-! ### The engines that a new limit faults -/

theorem State.redirected_leads (n : Nat) : s.Leads n ((s.seen p).redirected ws) := by
  have trials := State.retrialled_eq ws (s.seen p)
  have started : s.Leads n ((s.seen p).retrialled ws) :=
    (State.Leads.refl s n).of_eq (by rw [trials]; exact s.seen_engines p) (by rw [trials]; exact s.seen_slots p)
  unfold State.redirected
  split
  · exact started.reevaluate
  · exact started

theorem State.redirected_params : ((s.seen p).redirected ws).params = ws.foldl Params.write s.params := by
  rw [← State.seen_params s p]
  exact ((State.redirected_work ws (s.seen p)).params).trans (State.retrialled_params ws (s.seen p))

theorem State.configured_faulted {e : EngineId} (faulted : ((s.configured ws p c).engine e).state = .faulted) :
    (s.engine e).state = .faulted ∨ ws.any ParamWrite.setsLimit = true ∧
      (s.engine e).atHoldoverLimit (ws.foldl Params.write s.params).holdoverLimit = true := by
  rw [State.configured, State.answered_engine, State.configure_eq] at faulted
  split at faulted
  · rename_i sets
    obtain ⟨led, -⟩ := (State.redirected_leads _).limitsReached (congrArg Params.holdoverLimit State.redirected_params)
      allEngines
    exact (led.faulted e faulted).imp_right fun spent => ⟨sets, spent⟩
  · refine ((State.redirected_leads 0).faulted e faulted).imp_right fun spent => ?_
    exact absurd rfl (EngineRec.atHoldoverLimit_iff.1 spent).2.1

theorem State.configured_calm
    (none : ws.any ParamWrite.setsLimit = true → ∀ e,
      (s.engine e).atHoldoverLimit (ws.foldl Params.write s.params).holdoverLimit = false) :
    s.configured ws p c = s.directed ws p c :=
  State.configured_eq_directed fun sets => (State.redirected_leads _).checkHoldovers_eq
    (congrArg Params.holdoverLimit State.redirected_params) (none sets)

end configure

section pairs

variable {ps : List (Byte × Nat)} {s : State} {e : EngineId}

theorem State.overdue_iff (range : ∀ y ∈ ps, readParam y.1 y.2 ≠ none) (distinct : (ps.map Prod.fst).Nodup) :
    s.Overdue ps e ↔ (paramWrites ps).any ParamWrite.setsLimit = true ∧
      (s.engine e).atHoldoverLimit ((paramWrites ps).foldl Params.write s.params).holdoverLimit = true := by
  have limit (v : Nat) (pair : (0x08#8, v) ∈ ps) : ((paramWrites ps).foldl Params.write s.params).holdoverLimit = v :=
    (Params.value_writes range distinct s.params 0x08#8).1 v pair
  rw [paramWrites_setsLimit range, EngineRec.atHoldoverLimit_iff]
  constructor
  · rintro ⟨holdover, v, pair, nonzero, spent⟩
    rw [limit v pair]
    exact ⟨⟨v, pair, nonzero⟩, holdover, nonzero, spent⟩
  · rintro ⟨⟨v, pair, nonzero⟩, holdover, -, spent⟩
    exact ⟨holdover, v, pair, nonzero, limit v pair ▸ spent⟩

end pairs

end Sys2Proof.Machine

/-! ## The engine whose holdover a new limit ends (R71, R117)

No CLOSING and no MIGRATING lease counts on it. Then the faults of the other engines leave it and its leases, and
its own fault is the only change of them that the comparison makes. -/

namespace Sys2Proof.Machine

variable {s t u : State} {e f : EngineId} {i : SlotId} {l : Lease}

/-! ### Leases that are left -/

/-- The slot of a lease, its notices and the outputs of the lease are in `t` what they were in `s`. -/
structure State.LeaseLeft (s t : State) (i : SlotId) (l : Lease) : Prop where
  kept : s.SlotKept t i
  outputs : ∀ x ∈ l.entries, t.output x.output = s.output x.output

namespace State.LeaseLeft

theorem refl (s : State) (i : SlotId) (l : Lease) : s.LeaseLeft s i l := ⟨⟨rfl, fun _ => rfl⟩, fun _ _ => rfl⟩

theorem trans (h : s.LeaseLeft t i l) (k : t.LeaseLeft u i l) : s.LeaseLeft u i l := by
  obtain ⟨⟨slot, notices⟩, outputs⟩ := h
  obtain ⟨⟨slot', notices'⟩, outputs'⟩ := k
  exact ⟨⟨slot'.trans slot, fun q => (notices' q).trans (notices q)⟩, fun x hx => (outputs' x hx).trans (outputs x hx)⟩

theorem unmarked (h : s.LeaseLeft t i l) : s.LeaseLeft { t with touched := [] } i l := ⟨h.kept.unmarked, h.outputs⟩

theorem lease (h : s.LeaseLeft t i l) : t.lease? i = s.lease? i := by
  obtain ⟨slot, -⟩ := h.kept
  rw [State.lease?, State.lease?, slot]

end State.LeaseLeft

/-- A fault leaves every lease that does not count on its engine. -/
theorem declareFault_left (sound : s.Sound) (ht : s.touched = []) (r : FaultReason) (hl : s.lease? i = some l)
    (hc : l.countOn e = 0) : s.LeaseLeft (s.declareFault e r) i l := by
  obtain ⟨slot, outputs⟩ := declareFault_unnamed sound ht r hl hc
  obtain ⟨u, h⟩ := declareFault_reaches sound ht e r i
  have round : onFault e i u = u := onFault_unnamed fun k hk => by
    cases (h.lease.trans hl).symm.trans hk
    exact hc
  exact ⟨⟨slot, fun q => by rw [h.after.notices, round, h.notices]⟩, outputs⟩

/-! ### The faults of the other engines -/

/-- No CLOSING and no MIGRATING lease counts on engine `e`. -/
def State.SettledOn (s : State) (e : EngineId) : Prop :=
  ∀ i l, s.lease? i = some l → l.state = .closing ∨ l.state = .migrating → l.countOn e = 0

theorem State.SettledOn.leads {n : Nat} (h : s.SettledOn e) (led : s.Leads n t) : t.SettledOn e := fun i k hk hs => by
  obtain ⟨l, hl, before, fewer⟩ := led.counts i k hk hs
  exact Nat.le_zero.1 (h i l hl before ▸ fewer e)

theorem State.SettledOn.unmarked (h : s.SettledOn e) : State.SettledOn { s with touched := [] } e := h

theorem State.Sound.unmarked (h : s.Sound) : State.Sound { s with touched := [] } :=
  (State.soundBut_none_iff _).1 ((s.soundBut_none_iff.2 h).board ((SameBoard.refl s).touched []))

/-- A lease that runs from such an engine counts on no other. -/
theorem State.SettledOn.runs (h : s.SettledOn e) (sound : s.Sound) (hl : s.lease? i = some l)
    (he : l.engine = some e) : l.state ≠ .closing ∧ l.migrationTarget = none ∧ l.closingTarget = none ∧
      ∀ f, f ≠ e → l.countOn f = 0 := by
  have wf := (s.soundBut_none_iff.2 sound).books.leases i l hl
  have settled := mt (h i l hl) (Lease.countOn_pos_of_engine he).ne'
  obtain ⟨closing, migrating⟩ := not_or.1 settled
  have target := Lease.migrationTarget_of_none (wf.no_migration migrating)
  refine ⟨closing, target, wf.no_closingTarget closing, fun f hf => Nat.eq_zero_of_not_pos fun counts => ?_⟩
  rcases (l.countOn_pos_iff f).1 counts with named | named | named
  · exact hf (Option.some.inj (named.symm.trans he))
  · rw [target] at named
    cases named
  · rw [wf.no_closingTarget closing] at named
    cases named

/-- From `s` to `t` engine `e` is spared, with every lease that counts on no other engine; a notice of its
fault stays. -/
structure State.Spares (e : EngineId) (s t : State) : Prop where
  sound : t.Sound
  settled : t.SettledOn e
  params : t.params = s.params
  engine : t.engine e = s.engine e
  leases : ∀ i l, s.lease? i = some l → (∀ f, f ≠ e → l.countOn f = 0) → s.LeaseLeft t i l
  notice : s.deviceNotices.engineFault = true → t.deviceNotices.engineFault = true
  named : s.deviceNotices.engines[e] = true → t.deviceNotices.engines[e] = true

namespace State.Spares

theorem refl (sound : s.Sound) (settled : s.SettledOn e) : s.Spares e s :=
  ⟨sound, settled, rfl, rfl, fun i l _ _ => .refl s i l, id, id⟩

theorem unmarked (h : s.Spares e t) : s.Spares e { t with touched := [] } :=
  ⟨h.sound.unmarked, h.settled.unmarked, h.params, h.engine, fun i l hl alone => (h.leases i l hl alone).unmarked,
    h.notice, h.named⟩

/-- The fault of another engine. -/
theorem declareFault (h : s.Spares e t) (ht : t.touched = []) (hf : f ≠ e)
    (spent : (t.engine f).atHoldoverLimit t.params.holdoverLimit = true) :
    s.Spares e (t.declareFault f .holdoverLimit) where
  sound := (State.soundBut_none_iff _).1 ((t.soundBut_none_iff.2 h.sound).declareFault f _)
  settled := h.settled.leads ((State.Leads.refl t _).declareFault spent _)
  params := ((LeaseWork.refl t).declareFault f _).params.trans h.params
  engine := by
    have spared : t.freedWith f e = 0 := State.freedWith_eq_zero fun i l hl hs => h.settled i l hl (.inl hs)
    rw [declareFault_engine_other h.sound hf.symm, spared]
    exact h.engine
  leases i l hl alone := by
    have left := h.leases i l hl alone
    exact left.trans (declareFault_left h.sound ht _ (left.lease.trans hl) (alone f hf))
  notice _ := by rw [declareFault_deviceNotices]
  named before := by
    rw [declareFault_deviceNotices]
    simp only [Fin.getElem_fin, Vector.getElem_set, Bool.if_true_left, Bool.or_eq_true, decide_eq_true_eq]
    exact .inr (h.named before)

/-- The row of another engine. -/
theorem row (h : s.Spares e t) (ht : t.touched = []) (hf : f ≠ e) :
    s.Spares e (event (State.holdoverLimitReached f) t) := by
  rw [event_of_unmarked ht]
  by_cases spent : (t.engine f).atHoldoverLimit t.params.holdoverLimit = true
  · have reached : t.holdoverLimitReached f = t.declareFault f .holdoverLimit := if_pos spent
    rw [reached]
    exact (h.declareFault ht hf spent).unmarked
  · have reached : t.holdoverLimitReached f = t := if_neg spent
    rw [reached]
    exact h.unmarked

theorem rows (h : s.Spares e t) (ht : t.touched = []) {es : List EngineId} (away : e ∉ es) :
    s.Spares e (forEach es (fun f => event (State.holdoverLimitReached f)) t) := by
  induction es generalizing t with
  | nil => exact h
  | cons f es ih =>
    obtain ⟨other, away⟩ := not_or.1 (mt List.mem_cons.2 away)
    exact ih (h.row ht (Ne.symm other)) rfl away

end State.Spares

/-! ### Its own fault -/

/-- What the comparison of the limit makes of an engine that has spent it, and of the leases that run from it. -/
structure State.Ends (e : EngineId) (s t : State) : Prop where
  engine : t.engine e = (s.engine e).faultedWith .holdoverLimit (s.engine e).acquisition.limit
  notice : t.deviceNotices.engineFault = true
  named : t.deviceNotices.engines[e] = true
  leases : ∀ i l, s.lease? i = some l → l.engine = some e →
    t.slot i = ⟨(s.slot i).gen, .live l.failedByFault⟩ ∧ s.Raised t i l .engineFault false ∧
    ∀ x ∈ l.entries, t.output x.output = { s.output x.output with state := .quiet }

/-- A lease that a fault has failed counts on no engine. -/
theorem Lease.failedByFault_countOn (l : Lease) (target : l.closingTarget = none) (f : EngineId) :
    l.failedByFault.countOn f = 0 := by
  simp [Lease.countOn_eq, Lease.failedByFault, Lease.migrationTarget, target]

namespace State.Ends

theorem unmarked (h : s.Ends e t) : s.Ends e { t with touched := [] } :=
  ⟨h.engine, h.notice, h.named, fun i l hl he => by
    obtain ⟨slot, raised, outputs⟩ := h.leases i l hl he
    exact ⟨slot, raised.unmarked, outputs⟩⟩

/-- The fault that the row of the engine declares. -/
theorem of_declareFault (sound : s.Sound) (ht : s.touched = []) (settled : s.SettledOn e) :
    s.Ends e (s.declareFault e .holdoverLimit) where
  engine := declareFault_engine_own sound e _
  notice := by rw [declareFault_deviceNotices]
  named := by
    rw [declareFault_deviceNotices]
    exact Vector.getElem_set_self _
  leases i l hl he := by
    obtain ⟨closing, target, -, -⟩ := settled.runs sound hl he
    exact declareFault_fails sound ht _ hl he closing target

/-- Seen from before the rows of other engines. -/
theorem of_left (h : t.Ends e u) (spared : s.Spares e t) (sound : s.Sound) (settled : s.SettledOn e) : s.Ends e u where
  engine := by rw [h.engine, spared.engine]
  notice := h.notice
  named := h.named
  leases i l hl he := by
    obtain ⟨-, -, -, alone⟩ := settled.runs sound hl he
    have left := spared.leases i l hl alone
    obtain ⟨slot, notices⟩ := left.kept
    obtain ⟨slot', raised, outputs⟩ := h.leases i l (left.lease.trans hl) he
    refine ⟨by rw [slot', slot], raised.of_left notices (by rw [slot]), fun x hx => ?_⟩
    rw [outputs x hx, left.outputs x hx]

/-- Seen after the rows of other engines. -/
theorem to_right (h : s.Ends e t) (spared : t.Spares e u) (sound : s.Sound) (settled : s.SettledOn e) : s.Ends e u where
  engine := by rw [spared.engine, h.engine]
  notice := spared.notice h.notice
  named := spared.named h.named
  leases i l hl he := by
    obtain ⟨-, -, target, -⟩ := settled.runs sound hl he
    obtain ⟨slot, raised, outputs⟩ := h.leases i l hl he
    have failed : t.lease? i = some l.failedByFault := State.lease_of_standing (by rw [slot])
    have left := spared.leases i _ failed fun f _ => l.failedByFault_countOn target f
    obtain ⟨slot', notices⟩ := left.kept
    exact ⟨slot'.trans slot, raised.to_right notices, fun x hx => (left.outputs x hx).trans (outputs x hx)⟩

end State.Ends

/-- The comparison of the limit, row by row, ends the holdover that has spent it. -/
theorem limitsReached_ends (sound : s.Sound) (ht : s.touched = []) (settled : s.SettledOn e)
    (spent : (s.engine e).atHoldoverLimit s.params.holdoverLimit = true) :
    s.Ends e (forEach allEngines (fun f => event (State.holdoverLimitReached f)) s) := by
  obtain ⟨xs, ys, split⟩ := List.append_of_mem (List.mem_finRange e)
  have distinct := List.nodup_finRange 6
  rw [split, List.nodup_middle, List.nodup_cons, List.mem_append, not_or] at distinct
  obtain ⟨⟨before, after⟩, -⟩ := distinct
  have first := (State.Spares.refl sound settled).rows ht before
  have unmarked := State.limitsReached_touched xs ht
  rw [show allEngines = xs ++ e :: ys from split, forEach, List.foldl_append, List.foldl_cons]
  change s.Ends e (forEach ys _ (event _ (forEach xs _ s)))
  generalize forEach xs (fun f => event (State.holdoverLimitReached f)) s = v at first unmarked
  have still : (v.engine e).atHoldoverLimit v.params.holdoverLimit = true := by
    rw [first.engine, first.params]
    exact spent
  have reached : v.holdoverLimitReached e = v.declareFault e .holdoverLimit := if_pos still
  have ends := ((State.Ends.of_declareFault first.sound unmarked first.settled).of_left first sound settled).unmarked
  have sound' := (State.soundBut_none_iff _).1 (((v.soundBut_none_iff.2 first.sound)).declareFault e .holdoverLimit)
  have settled' := first.settled.leads ((State.Leads.refl v _).declareFault still .holdoverLimit)
  rw [event_of_unmarked unmarked, reached]
  exact ends.to_right ((State.Spares.refl sound'.unmarked settled'.unmarked).rows rfl after) sound settled

end Sys2Proof.Machine

/-! ## CONFIGURE, accepted (R168, R169) -/

namespace Sys2Proof.Machine

section configure

variable {ws : List ParamWrite} {s : State} {p : Port} {c : HeldCommand} {e : EngineId} {i : SlotId} {l : Lease}

/-! ### An engine in HOLDOVER through the re-evaluation -/

theorem State.begun_board : SameBoard s (s.begun ws p c) := by
  rw [State.begun_eq]
  cases p <;> exact .of_tables rfl rfl rfl

theorem State.begun_slot (i : SlotId) : (s.begun ws p c).slot i = s.slot i := by
  rw [State.begun_eq]
  cases p <;> rfl

theorem State.begun_notices (q : Port) : ((s.begun ws p c).port q).notices = (s.port q).notices := by
  rw [State.begun_alike.notices, State.retrialled_port, State.seen_notices]

theorem State.directed_sound (sound : s.Sound) : (s.directed ws p c).Sound := by
  have begun := (s.soundBut_none_iff.2 sound).board (State.begun_board (ws := ws) (p := p) (c := c))
  unfold State.directed
  split
  · exact ((State.soundBut_none_iff _).1 (soundBut_stepClosed.reevaluate begun)).unmarked
  · exact (State.soundBut_none_iff _).1 begun

theorem State.directed_leads (n : Nat) : s.Leads n (s.directed ws p c) := by
  have led := State.redirected_leads (ws := ws) (s := s) (p := p) n
  rw [State.directed_eq]
  exact led.of_eq (State.answered_engines ..) (by cases p <;> rfl)

/-- `y` is the engine `x` with its relock attempt, if any, begun or ended, the limit in force being `limit` then. -/
def EngineRec.Reattempts (limit : Nat) (x y : EngineRec) : Prop :=
  ∃ relock acquisition, y = { x with relock := relock, acquisition := acquisition } ∧ acquisition.limit = limit

/-- The fault leaves of a relock attempt the limit in force alone (R66). -/
theorem EngineRec.Reattempts.faultedWith {limit : Nat} {x y : EngineRec} (h : x.Reattempts limit y) (r : FaultReason) :
    y.faultedWith r y.acquisition.limit = x.faultedWith r limit := by
  obtain ⟨relock, acquisition, rfl, rfl⟩ := h
  rfl

theorem EngineRec.Reattempts.atHoldoverLimit {limit : Nat} {x y : EngineRec} (h : x.Reattempts limit y) (n : Nat) :
    y.atHoldoverLimit n = x.atHoldoverLimit n := by
  obtain ⟨relock, acquisition, rfl, -⟩ := h
  rfl

/-- An engine in HOLDOVER makes or ends a relock attempt where the selection changes, and nothing else (R50). -/
theorem EngineRec.Reselected.reattempts {x y : EngineRec} {now : Option RefInput} {limit : Nat}
    (h : x.Reselected now.isSome limit y) (holdover : x.state = .holdover) :
    x.Reattempts (if now = none then x.acquisition.limit else limit) y := by
  simp only [EngineRec.Reselected, holdover] at h
  refine ⟨now.isSome, if now.isSome then ⟨.running, 0, limit⟩ else ⟨.stopped, 0, x.acquisition.limit⟩, ?_, ?_⟩
  · rw [h, holdover]
  · cases now <;> rfl

theorem State.directed_engine (settled : s.SettledOn e) (holdover : (s.engine e).state = .holdover) :
    (s.engine e).Reattempts
      (if (s.directed ws p c).selection ≠ s.selection ∧ (s.directed ws p c).selection ≠ none then
        (s.directed ws p c).params.acqLimit
      else (s.engine e).acquisition.limit) ((s.directed ws p c).engine e) := by
  have before : (s.begun ws p c).engine e = s.engine e := State.begun_board.engines e
  by_cases same : (s.directed ws p c).selection = s.selection
  · have unchanged : s.directed ws p c = s.begun ws p c := by
      cases moved : (s.seen p).redirects ws with
      | false => exact State.directed_kept moved
      | true => exact (State.directed_reselects moved).same (same.trans State.begun_selection.symm)
    rw [if_neg fun h => h.1 same, unchanged, before]
    exact ⟨_, _, rfl, rfl⟩
  have moved : (s.seen p).redirects ws = true := by
    refine Bool.not_eq_false _ ▸ fun kept => same ?_
    rw [State.directed_kept kept, State.begun_selection]
  have reselects := State.directed_reselects (c := c) moved
  have none : (s.begun ws p c).NoneSettledOff (s.directed ws p c) e :=
    State.NoneSettledOff.of_no_migrating fun i l hl hs =>
      settled i l ((State.begun_board.leases i).symm.trans hl) (.inr hs)
  have reselected := reselects.engines (by rwa [State.begun_selection]) e none
  rw [before, ← reselects.work.params] at reselected
  simpa [same, ite_not] using reselected.reattempts holdover

theorem State.directed_left (sound : s.Sound) (settled : s.SettledOn e) (holdover : (s.engine e).state = .holdover)
    (hl : s.lease? i = some l) (he : l.engine = some e) : s.LeaseLeft (s.directed ws p c) i l := by
  have begun : s.LeaseLeft (s.begun ws p c) i l :=
    ⟨⟨State.begun_slot i, fun q => by rw [State.begun_notices]⟩, fun x _ => State.begun_board.outputs x.output⟩
  cases moved : (s.seen p).redirects ws with
  | false =>
    rw [State.directed_kept moved]
    exact begun
  | true =>
    have reselects := State.directed_reselects (c := c) moved
    obtain ⟨-, target, -, -⟩ := settled.runs sound hl he
    refine begun.trans ⟨reselects.others i fun k hk => .inl fun f named => ?_, fun x _ => ?_⟩
    · cases (begun.lease.trans hl).symm.trans hk
      rw [he, target] at named
      cases named with
      | inl same =>
        cases same
        rw [State.begun_board.engines, holdover]
        nofun
      | inr absent => cases absent
    · rw [State.output, State.output, reselects.outputs]

/-! ### Its fault -/

/-- A raise of the row's event is the one raise of the command's (R160). -/
theorem State.Raised.counted {t w : State} {r : Reason} {closed : Bool} (h : s.Raised w i l r closed)
    (counted : ∀ q, (t.port q).notices[i] = countedOnce (s.port q).notices[i] (w.port q).notices[i]) :
    s.Raised t i l r closed := by
  obtain ⟨home, other⟩ := h
  constructor
  · rw [counted, home]
    exact (CountsOnce.first _ _ _ _).countedOnce
  · rw [counted, other, countedOnce_same]

theorem State.configured_notices (q : Port) (i : SlotId) : ((s.configured ws p c).port q).notices[i] =
    countedOnce (s.port q).notices[i] ((s.limited ws p c).port q).notices[i] := by
  have counted := State.limited_apart (ws := ws) (s := s) (p := p) (c := c) |>.counted q i
  rw [← counted, State.configured, State.answered_notices]

/-- An engine whose holdover has spent the new limit, and on which no CLOSING and no MIGRATING lease counts, is faulted
with its leases (R71, R117). -/
theorem State.configured_ends (sound : s.Sound) (settled : s.SettledOn e)
    (sets : ws.any ParamWrite.setsLimit = true)
    (spent : (s.engine e).atHoldoverLimit (ws.foldl Params.write s.params).holdoverLimit = true) :
    (s.configured ws p c).engine e = (s.engine e).faultedWith .holdoverLimit
      (if (s.configured ws p c).selection ≠ s.selection ∧ (s.configured ws p c).selection ≠ none then
        (s.configured ws p c).params.acqLimit
      else (s.engine e).acquisition.limit) ∧
    (s.configured ws p c).deviceNotices.engineFault = true ∧
    (s.configured ws p c).deviceNotices.engines[e] = true ∧
    ∀ i l, s.lease? i = some l → l.engine = some e →
      (s.configured ws p c).slot i = ⟨(s.slot i).gen, .live l.failedByFault⟩ ∧
      s.Raised (s.configured ws p c) i l .engineFault false ∧
      ∀ x ∈ l.entries, (s.configured ws p c).output x.output = { s.output x.output with state := .quiet } := by
  obtain ⟨holdover, -, -⟩ := EngineRec.atHoldoverLimit_iff.1 spent
  have turned := State.directed_engine (ws := ws) (p := p) (c := c) settled holdover
  have twin := State.limited_twin (ws := ws) (s := s) (p := p) (c := c)
  have work := State.limited_work (ws := ws) (s := s) (p := p) (c := c)
  have params : (s.directed ws p c).params = ws.foldl Params.write s.params := by
    rw [← work.params, ← twin.params, State.configured_params]
  have ends : (s.directed ws p c).Ends e (s.limited ws p c) := by
    rw [State.limited, if_pos sets]
    refine limitsReached_ends (State.directed_sound sound) State.directed_touched
      (settled.leads (State.directed_leads 0)) ?_
    rw [turned.atHoldoverLimit, params]
    exact spent
  refine ⟨?_, ?_, ?_, fun i l hl he => ?_⟩
  · rw [twin.engine, ends.engine, turned.faultedWith, twin.selection, twin.params, work.selection, work.params]
  · rw [twin.deviceNotices, ends.notice]
  · rw [twin.deviceNotices, ends.named]
  · have left := State.directed_left (ws := ws) (p := p) (c := c) sound settled holdover hl he
    obtain ⟨slot, notices⟩ := left.kept
    obtain ⟨slot', raised, outputs⟩ := ends.leases i l (left.lease.trans hl) he
    refine ⟨by rw [twin.slot, slot', slot], ?_, fun x hx => by rw [twin.output, outputs x hx, left.outputs x hx]⟩
    exact (raised.of_left notices (by rw [slot])).counted fun q => State.configured_notices q i

end configure

/-! ### The run -/

section run

variable {ps : List (Byte × Nat)} {s : State} {p : Port} {c : HeldCommand}

theorem runConfigure_accepted (client : c.client = 0) (read : readPairs c.body = some ps)
    (length : 1 ≤ ps.length ∧ ps.length ≤ 8) (range : ∀ y ∈ ps, readParam y.1 y.2 ≠ none)
    (distinct : (ps.map Prod.fst).Nodup) (unlocked : ∀ x ∈ ps, s.lockedPair x = false) :
    runConfigure p c s = .ok (replyOk (s.configure (paramWrites ps)) []) := by
  rw [runConfigure, supervisorOnly_ok client, ok_bind, readConfigure_ok read length range distinct, ok_bind,
    checkEach_ok 0 fun x hx => by rw [unlocked x hx]; rfl, ok_bind]
  rfl

theorem configure_taken (takes : s.Takes p c) (code : c.code = codeConfigure) (client : c.client = 0)
    (read : readPairs c.body = some ps) (length : 1 ≤ ps.length ∧ ps.length ≤ 8)
    (range : ∀ y ∈ ps, readParam y.1 y.2 ≠ none) (distinct : (ps.map Prod.fst).Nodup)
    (unlocked : (∀ v, (0x01#8, v) ∈ ps → v = s.params.nominal) ∨ ∀ e, (s.engine e).state.inUse = false) :
    exec .configure s = .next (s.configured (paramWrites ps) p c) := by
  have run := runConfigure_accepted (p := p) (s := s.seen p) client read length range distinct fun x hx =>
    Bool.eq_false_iff.2 fun locked => by
      obtain ⟨named, changed, e, inUse⟩ := State.lockedPair_iff.1 locked
      rw [State.seen_params] at changed
      rw [State.seen_engine] at inUse
      rcases unlocked with same | idle
      · exact changed (same x.2 (named ▸ hx))
      · exact Bool.false_ne_true ((idle e).symm.trans inUse)
  exact congrArg Host.Outcome.next (takeCode_answered takes code run rfl State.configure_served)

end run

end Sys2Proof.Machine

/-! ## The statement about an accepted CONFIGURE -/

namespace Sys2Proof.Machine

section values

variable {ps : List (Byte × Nat)} {x y : Params}

/-- The values of `y` where each parameter that the pairs name takes its value there. -/
theorem Params.named_values (h : ∀ k v, (k, v) ∈ ps → y.value k = v) :
    (∀ v, (0x01#8, v) ∈ ps → y.nominal = v) ∧ (∀ v, (0x02#8, v) ∈ ps → y.window = v) ∧
      (∀ v, (0x03#8, v) ∈ ps → y.qualPeriod = v) ∧ (∀ v, (0x04#8, v) ∈ ps → y.mode.number = v) ∧
      (∀ v, (0x05#8, v) ∈ ps → y.priority.number = v) ∧ (∀ v, (0x06#8, v) ∈ ps → y.acqLimit = v) ∧
      (∀ v, (0x07#8, v) ∈ ps → y.linger = v) ∧ (∀ v, (0x08#8, v) ∈ ps → y.holdoverLimit = v) :=
  ⟨h 0x01#8, h 0x02#8, h 0x03#8, h 0x04#8, h 0x05#8, h 0x06#8, h 0x07#8, h 0x08#8⟩

/-- The values of `y` where each parameter that the pairs do not name has its value in `x`. -/
theorem Params.unnamed_values (h : ∀ k, k ∉ ps.map Prod.fst → y.value k = x.value k) :
    (0x01#8 ∉ ps.map Prod.fst → y.nominal = x.nominal) ∧ (0x02#8 ∉ ps.map Prod.fst → y.window = x.window) ∧
      (0x03#8 ∉ ps.map Prod.fst → y.qualPeriod = x.qualPeriod) ∧ (0x04#8 ∉ ps.map Prod.fst → y.mode = x.mode) ∧
      (0x05#8 ∉ ps.map Prod.fst → y.priority = x.priority) ∧ (0x06#8 ∉ ps.map Prod.fst → y.acqLimit = x.acqLimit) ∧
      (0x07#8 ∉ ps.map Prod.fst → y.linger = x.linger) ∧
      (0x08#8 ∉ ps.map Prod.fst → y.holdoverLimit = x.holdoverLimit) :=
  ⟨h 0x01#8, h 0x02#8, h 0x03#8, fun away => RefMode.number_injective (h 0x04#8 away),
    fun away => RefPriority.number_injective (h 0x05#8 away), h 0x06#8, h 0x07#8, h 0x08#8⟩

end values

/-- The answered state with what the command writes before it re-evaluates the selection. -/
theorem State.begun_eq_configured (ws : List ParamWrite) (s : State) (p : Port) (c : HeldCommand) :
    s.begun ws p c = { s.answered p c .ok [] with
      params := (s.configured ws p c).params, refA := (s.configured ws p c).refA, refB := (s.configured ws p c).refB,
      deviceNotices := { s.deviceNotices with
        refInputA := s.deviceNotices.refInputA || decide ((s.configured ws p c).refA.state ≠ s.refA.state),
        refInputB := s.deviceNotices.refInputB || decide ((s.configured ws p c).refB.state ≠ s.refB.state) } } := by
  have work := State.configured_work (ws := ws) (s := s) (p := p) (c := c)
  rw [work.params, work.refA, work.refB]
  exact State.begun_eq

/-- Settles O15: the command is its stages, and the one event of its faults is beside the events of the rows. -/
theorem configureWrites : Obligations.ConfigureWrites := by
  intro s p c ps takes code client read nonempty length range distinct unlocked
  have values := Params.value_writes range distinct s.params
  rw [← State.configured_params (s := s) (p := p) (c := c)] at values
  have overdue (e : EngineId) := State.overdue_iff (s := s) (e := e) range distinct
  have calm (none : ∀ e, ¬ s.Overdue ps e) : s.configured (paramWrites ps) p c = s.directed (paramWrites ps) p c :=
    State.configured_calm fun sets e => Bool.eq_false_iff.2 fun spent => none e ((overdue e).2 ⟨sets, spent⟩)
  have redirects := State.redirects_configured_iff (ws := paramWrites ps) (s := s) (p := p) (c := c)
  have kept (nominal : (s.configured (paramWrites ps) p c).params.nominal = s.params.nominal)
      (mode : (s.configured (paramWrites ps) p c).params.mode = s.params.mode)
      (priority : (s.configured (paramWrites ps) p c).params.priority = s.params.priority) :
      (s.seen p).redirects (paramWrites ps) = false :=
    Bool.eq_false_iff.2 fun moved => by simpa [nominal, mode, priority] using redirects.1 moved
  have sets := paramWrites_setsLimit range
  refine ⟨s.configured (paramWrites ps) p c, s.begun (paramWrites ps) p c,
    configure_taken takes code client read ⟨nonempty, length⟩ range distinct unlocked,
    State.begun_eq_configured _ s p c,
    State.configured_work, State.configured_params, Params.named_values fun k => (values k).1,
    Params.unnamed_values fun k => (values k).2, fun r => State.configured_input r, State.configured_selection_none,
    fun nominal mode priority => ⟨State.configured_selection_kept (kept nominal mode priority), fun none =>
      (calm none).trans (State.directed_kept (kept nominal mode priority))⟩,
    fun moved => ⟨State.configured_selectedBy (redirects.2 moved), fun none =>
      calm none ▸ State.directed_reselects (redirects.2 moved)⟩,
    fun e faulted => (State.configured_faulted faulted).imp_right (overdue e).2,
    fun sound e spent settled => ?_, s.directed (paramWrites ps) p c, s.limited (paramWrites ps) p c,
    State.directed_touched, fun nominal mode priority => State.directed_kept (kept nominal mode priority),
    fun moved => State.directed_reselects (redirects.2 moved), fun zero => ?_, fun v pair nonzero => ?_,
    State.limited_twin.eq_of_touched State.limited_touched.symm,
    fun q => ⟨State.configured_port q, fun i => State.configured_notices q i⟩⟩
  · obtain ⟨limit, reached⟩ := (overdue e).1 spent
    exact State.configured_ends sound settled limit reached
  · refine if_neg fun limit => ?_
    obtain ⟨v, pair, nonzero⟩ := sets.1 limit
    exact nonzero (zero v pair)
  · rw [State.limited, if_pos (sets.2 ⟨v, pair, nonzero⟩)]
    exact State.limitsReached_forEach _ _

end Sys2Proof.Machine
